-- ==== Sys2Proof/Word.lean ====
section
/-! DEFINITION. The words and numbers of the DX2416: what the data book treats as bits is a `BitVec`, an index into a
fixed number of like things is a `Fin`. -/

namespace Sys2Proof

/-- A line number, 0 to 2^38 − 1 (section 0.5). -/
abbrev Line := BitVec 38
/-- A tag: line number div 2048 (section 0.5, R1). -/
abbrev Tag := BitVec 27
/-- A set index, 0 to 2047 (section 0.5, R1). -/
abbrev SetIdx := BitVec 11
/-- A register or a data field of a frame (R177). -/
abbrev Word := BitVec 32
/-- A register address (R177). -/
abbrev Addr := BitVec 16
/-- A way of a set (section 0.5). -/
abbrev Way := Fin 16
/-- An agent, and the port it is on (section 0.5). -/
abbrev Agent := Fin 8
/-- The index of an entry of the transaction table (R45). -/
abbrev EntryIdx := Fin 32
/-- A slot of the wait pool (R50). -/
abbrev PoolIdx := Fin 64
/-- A request tag, 0 to 15 (R22). -/
abbrev ReqTag := Fin 16
/-- A generation, advancing by 1 modulo 8 (R45). -/
abbrev Gen := BitVec 3
/-- A transaction number, 0 to 255 (R48). -/
abbrev Txn := BitVec 8
/-- A set of agents, one bit an agent: no order and no duplicates (section 0.7). -/
abbrev AgentSet := BitVec 8
/-- A set of request tags (R25). -/
abbrev TagSet := BitVec 16
/-- A set of entry indices (R116). -/
abbrev EntrySet := BitVec 32
/-- A set of error kinds, bit k for the kind of row k of R151 (R156, R191). -/
abbrev KindSet := BitVec 16

end Sys2Proof
end

