-- ==== Sys2Proof/Syntax.lean ====
section
/-! DEFINITION. The commands of the part: one constructor for each row of spec/opcode_table.json, with its operands. -/

namespace Sys2Proof

/-- How the checks of an access find a stored word (R131). -/
inductive WordCond where
  | good
  | single
  | uncorrectable
  deriving DecidableEq, Repr

/-- The two words of a slot (section 7.1). -/
inductive WordSel where
  | tag
  | holder
  deriving DecidableEq, Repr

/-- A storage error that the access on a set meets: the word of that set it has struck, and how it leaves that word
(R131). The operand of an access command; log 3. -/
structure CellFault where
  way : Way
  word : WordSel
  cond : WordCond
  deriving DecidableEq, Repr

/-- The sixteen error kinds, in the order of the table of R151. -/
inductive ErrKind where
  | tagUncorrectable
  | holderUncorrectable
  | poisonCreated
  | agentFenced
  | corrected
  | slotRetired
  | retireDenied
  | probeRetry
  | doneTimeout
  | strayAnswer
  | protocol
  | ownerRerequest
  | noSlot
  | waitFull
  | range
  | lostRefusal
  deriving DecidableEq, Repr

/-- The two admission marks (R64). -/
inductive AdmitMark where
  | high
  | low
  deriving DecidableEq, Repr

/-- The commands. `p` is a port, `n` a transaction number, `f` the storage errors an access meets, `v` the 32 data bits
of a WRITE. -/
inductive Instr where
  /-- PWROK_RISE (R168). -/
  | pwrokRise
  /-- PWROK_FALL (R168). -/
  | pwrokFall
  /-- RESET_N_FALL (R169). -/
  | resetNFall
  /-- RESET_N_RISE (R170). -/
  | resetNRise
  /-- CLEARING_WALK_STEP (R20). -/
  | clearingWalkStep
  /-- LINK_DETECTED (R106). -/
  | linkDetected (p : Agent)
  /-- LINK_LOSS (R106, R114). -/
  | linkLoss (p : Agent)
  /-- RD_SHARED (R22, R25). -/
  | rdShared (p : Agent) (tag : ReqTag) (line : Line)
  /-- RD_OWN (R22, R25). -/
  | rdOwn (p : Agent) (tag : ReqTag) (line : Line) (fullWrite : Bool)
  /-- UPGRADE (R22, R25). -/
  | upgrade (p : Agent) (tag : ReqTag) (line : Line)
  /-- WRITEBACK (R22, R25). -/
  | writeback (p : Agent) (tag : ReqTag) (line : Line)
  /-- DROP (R22, R25). -/
  | drop (p : Agent) (tag : ReqTag) (line : Line)
  /-- LEAVE (R22, R25); its line field is carried and ignored (R189, log 24). -/
  | leave (p : Agent) (tag : ReqTag) (line : Line)
  /-- BAD_KIND (R189): channel false is the request channel (bit 63 = 0). -/
  | badKind (p : Agent) (channel : Bool) (code : BitVec 3)
  /-- DONE (R41). -/
  | done (p : Agent) (n : Txn)
  /-- ANS_CLEAN (R74). -/
  | ansClean (p : Agent) (n : Txn) (line : Line)
  /-- ANS_WRITTEN (R74). -/
  | ansWritten (p : Agent) (n : Txn) (line : Line)
  /-- ANS_GONE (R74). -/
  | ansGone (p : Agent) (n : Txn) (line : Line)
  /-- PROBE_TIMER_EXPIRY (R78): the timer of entry `e`'s probe to agent `a`. -/
  | probeTimerExpiry (e : EntryIdx) (a : Agent)
  /-- INTAKE_LOOKUP (R26). -/
  | intakeLookup (f : List CellFault)
  /-- RESOLUTION_ACCESS (R34). -/
  | resolutionAccess (f : List CellFault)
  /-- PARKED_RESOLUTION (R97). -/
  | parkedResolution (f : List CellFault)
  /-- DONE_TIMEOUT (R56): the DONE timer of entry `e`. -/
  | doneTimeout (e : EntryIdx)
  /-- CLOSE_ACCESS (R58). -/
  | closeAccess (f : List CellFault)
  /-- LOOKUP_AFTER_HAND_ON (R53). -/
  | lookupAfterHandOn (f : List CellFault)
  /-- RELEASING_ACCESS (R61). -/
  | releasingAccess (f : List CellFault)
  /-- RECALL_START (R92). -/
  | recallStart (f : List CellFault)
  /-- RECALL_RESOLUTION (R96). -/
  | recallResolution (f : List CellFault)
  /-- RETIRE_START (R144). -/
  | retireStart (f : List CellFault)
  /-- RETIRE_RESOLUTION (R145). -/
  | retireResolution (f : List CellFault)
  /-- REPAIR_START (R141). -/
  | repairStart (f : List CellFault)
  /-- REPAIR_RESOLUTION (R140). -/
  | repairResolution (f : List CellFault)
  /-- PURGE_STEP (R120). -/
  | purgeStep (f : List CellFault)
  /-- LEAVE_STEP (R125). -/
  | leaveStep (f : List CellFault)
  /-- RETRACT_RESOLUTION (R126). -/
  | retractResolution (f : List CellFault)
  /-- SCRUB_INTERVAL_EXPIRY (R147). -/
  | scrubIntervalExpiry
  /-- SCRUB_ACCESS (R148). -/
  | scrubAccess (f : List CellFault)
  /-- INSPECT (R182): the command register is written; the arguments stand in the argument registers. -/
  | inspect
  /-- INSPECT_ACCESS (R182). -/
  | inspectAccess (f : List CellFault)
  /-- LOOKUP (R183). -/
  | lookup
  /-- LOOKUP_ACCESS (R183). -/
  | lookupAccess (f : List CellFault)
  /-- RECALL_LINE (R185). -/
  | recallLine
  /-- RECALL_LINE_START (R100). -/
  | recallLineStart (f : List CellFault)
  /-- SERVICE_RESOLUTION (R101). -/
  | serviceResolution (f : List CellFault)
  /-- CLEAR_POISON (R186). -/
  | clearPoison
  /-- CLEAR_POISON_ACCESS (R186). -/
  | clearPoisonAccess (f : List CellFault)
  /-- FENCE (R187). -/
  | fence
  /-- UNFENCE (R187). -/
  | unfence
  /-- CLEAR_SET (R184). -/
  | clearSet
  /-- CLEAR_SET_ACCESS (R184). -/
  | clearSetAccess (f : List CellFault)
  /-- SCRUB_START (R147). -/
  | scrubStart
  /-- SCRUB_STOP (R147). -/
  | scrubStop
  /-- CLEAR_ERRORS (R160). -/
  | clearErrors
  /-- WINDOW_APPLY (R180). -/
  | windowApply (v : Word)
  /-- REQ_CREDITS_WRITE (R111). -/
  | reqCreditsWrite (p : Agent) (v : Word)
  /-- PORT_ENABLE_WRITE (R106). -/
  | portEnableWrite (v : Word)
  /-- PROBE_CREDITS_WRITE (R72). -/
  | probeCreditsWrite (v : Word)
  /-- ADMIT_WRITE (R64). -/
  | admitWrite (m : AdmitMark) (v : Word)
  /-- RECALL_BUDGET_WRITE (R90). -/
  | recallBudgetWrite (v : Word)
  /-- MASK_ROUTING_WRITE (R159). -/
  | maskRoutingWrite (k : ErrKind) (v : Word)
  /-- COUNTER_WRITE (R153). -/
  | counterWrite (k : ErrKind) (v : Word)
  /-- DISCARD_COUNTER_WRITE (R107). -/
  | discardCounterWrite (p : Agent) (v : Word)
  /-- REGISTER_WRITE (R179): a WRITE of any register without a row of its own. -/
  | registerWrite (a : Addr) (v : Word)
  /-- INVALID_OPCODE_FRAME (R177). -/
  | invalidOpcodeFrame
  /-- FRAME_CUT_SHORT (R177). -/
  | frameCutShort
  deriving DecidableEq, Repr

end Sys2Proof
end

