-- ==== Sys2Proof/WellFormed.lean ====
section
/-! DEFINITION. Which commands are well formed: the checks an operand's type does not make. -/

namespace Sys2Proof

/-- The storage errors of an access name each word once, and name only words in error (R131). -/
def faultsOk (f : List CellFault) : Bool :=
  decide ((f.map fun c => (c.way, c.word)).Nodup) && f.all fun c => c.cond ≠ .good

/-- A kind code that names no kind of its channel: 6 and 7 of the request channel, 4 to 7 of the response channel
(section 11.1, R189). -/
def badKindCode (channel : Bool) (code : BitVec 3) : Bool :=
  if channel then decide (4 ≤ code.toNat) else decide (6 ≤ code.toNat)

/-- The register at this address has a row of its own in the table of commands: window apply, REQ_CREDITS, port
enables, PROBE_CREDITS, ADMIT_HIGH, ADMIT_LOW, RECALL_BUDGET, the discard counters, the error counters, the masks and
routings (section 11.3). -/
def hasOwnRow (a : Addr) : Bool :=
  let n := a.toNat
  n = 0x20 || (0x40 ≤ n && n < 0x60 && n % 4 = 0) || n = 0x60 || n = 0x68 || n = 0x78 || n = 0x7c || n = 0x80
    || (0x100 ≤ n && n < 0x180 && n % 16 = 8) || (0xc00 ≤ n && n < 0xc80 && n % 4 = 0)

/-- The command register, whose codes 1 to 10 have rows of their own (section 11.4). -/
def isCommandWrite (a : Addr) (v : Word) : Bool :=
  a.toNat = 0xe00 && 1 ≤ v.toNat % 256 && v.toNat % 256 ≤ 10

/-- A well-formed command. -/
def Instr.wellFormed : Instr → Bool
  | .badKind _ channel code => badKindCode channel code
  | .registerWrite a v => !hasOwnRow a && !isCommandWrite a v
  | .intakeLookup f | .resolutionAccess f | .parkedResolution f | .closeAccess f | .lookupAfterHandOn f
  | .releasingAccess f | .recallStart f | .recallResolution f | .retireStart f | .retireResolution f
  | .repairStart f | .repairResolution f | .purgeStep f | .leaveStep f | .retractResolution f | .scrubAccess f
  | .inspectAccess f | .lookupAccess f | .recallLineStart f | .serviceResolution f | .clearPoisonAccess f
  | .clearSetAccess f => faultsOk f
  | .pwrokRise | .pwrokFall | .resetNFall | .resetNRise | .clearingWalkStep | .linkDetected _ | .linkLoss _
  | .rdShared _ _ _ | .rdOwn _ _ _ _ | .upgrade _ _ _ | .writeback _ _ _ | .drop _ _ _ | .leave _ _ _
  | .done _ _ | .ansClean _ _ _ | .ansWritten _ _ _ | .ansGone _ _ _ | .probeTimerExpiry _ _ | .doneTimeout _
  | .scrubIntervalExpiry | .inspect | .lookup | .recallLine | .clearPoison | .fence | .unfence | .clearSet
  | .scrubStart | .scrubStop | .clearErrors | .windowApply _ | .reqCreditsWrite _ _ | .portEnableWrite _
  | .probeCreditsWrite _ | .admitWrite _ _ | .recallBudgetWrite _ | .maskRoutingWrite _ _ | .counterWrite _ _
  | .discardCounterWrite _ _ | .invalidOpcodeFrame | .frameCutShort => true

end Sys2Proof
end

