-- ==== Sys2Proof/Decode.lean ====
section
/-! DEFINITION. The words of the command table: the table gives no row any bits. -/

namespace Sys2Proof

/-- The command that a word spells by the table's bits. No row of the table has bits, so no word spells one (log 31);
the link messages and SPI frames that carry commands are decoded in Machine/Formats.lean from the book's own layouts. -/
def decodeTableWord (_nbits _w : Nat) : Option Instr := none

end Sys2Proof
end

