-- ==== Sys2Proof/Config.lean ====
section
/-! DEFINITION. What one implementation fixes: the power-on values of the settings, the sizes of the queues, and the
values the data book leaves open (free values, without a body). -/

namespace Sys2Proof.Config

/-- The revision of the part, in bits 7..0 of the identification register (section 11.3); the book gives no value.
Free value, log 19. -/
opaque revision : BitVec 8

/-- How a read-only register packs its fields, given its address and its fields in the order of section 11.3: the book
names the fields and their codes and gives most of them no bit position. Free value, log 19. -/
opaque packFields : Nat → List Nat → BitVec 32

/-- The LOST mark that INSPECT reports in INIT, by set: R171 does not name it among what INSPECT reports there.
Free value, log 32. -/
opaque lostInInit : Nat → Bool

/-- Number of sets (section 1.1). -/
def sets : Nat := 2048
/-- Most items of the intake queue, and the bound on the sum of REQ_CREDITS (R111, R112). -/
def creditSum : Nat := 48
/-- Most start items of the recall start queue (R89). -/
def startItems : Nat := 16
/-- Most items of the retire list (R143). -/
def retireItems : Nat := 16
/-- Most retired ways of a set (R8). -/
def retiredWays : Nat := 8
/-- Where a health count stops (R8). -/
def healthMax : Nat := 15
/-- Where an error counter stops (R153). -/
def counterMax : Nat := 255
/-- Where a discard counter stops (R107). -/
def discardMax : Nat := 65535
/-- One step of PROBE_TMO in microseconds (R77). -/
def probeStep : Nat := 4
/-- One step of DONE_TMO in microseconds (R56). -/
def doneStep : Nat := 16

/-- Power-on WIN_COUNT: the window covers every line number (R1). -/
def winCount : BitVec 39 := 274877906944#39
/-- Power-on PROBE_CREDITS (R72). -/
def probeCredits : Nat := 8
/-- Power-on PROBE_TMO, 256 µs in steps of 4 µs (R77). -/
def probeTmo : Nat := 64
/-- Power-on PROBE_RETRIES (R77). -/
def probeRetries : Nat := 1
/-- Power-on DONE_TMO, 1,024 µs in steps of 16 µs (R56). -/
def doneTmo : Nat := 64
/-- Power-on ADMIT_HIGH (R64). -/
def admitHigh : Nat := 28
/-- Power-on ADMIT_LOW (R64). -/
def admitLow : Nat := 20
/-- Power-on RECALL_BUDGET (R90). -/
def recallBudget : Nat := 4
/-- Power-on RETIRE_TH (R142). -/
def retireTh : Nat := 6
/-- Power-on SCRUB_INTERVAL in µs (R147). -/
def scrubInterval : Nat := 50
/-- Power-on SCRUB_STARVE in µs (R19). -/
def scrubStarve : Nat := 20
/-- Power-on REQ_CREDITS of each port (R111). -/
def reqCredits : Nat := 4

end Sys2Proof.Config
end

