-- ==== Sys2Proof/Machine/State.lean ====
section
/-! DEFINITION. The state of the part as plain data, block by block, and its value right after power-on. -/

namespace Sys2Proof.Machine

/-! ### The directory array (chapter 1) -/

/-- The state of a record (R3). -/
inductive RecState where
  | shared
  | owned
  | poisoned
  | damaged
  deriving DecidableEq, Repr

/-- A record: what the tag word and the holder word of an occupied slot hold (R2, R3). The holders of a DAMAGED record
are disregarded (R5). -/
structure Record where
  tag : Tag
  state : RecState
  holders : AgentSet
  poison : Bool
  deriving DecidableEq, Repr

/-- The service mark of a slot (R2, R8). -/
inductive ServiceMark where
  | inService
  | retired
  | quarantined
  deriving DecidableEq, Repr

/-- A slot: its content (none: free), the condition of its two words (R131), and the fields kept outside them
(R2, R134). -/
structure Slot where
  content : Option Record
  tagEcc : WordCond
  holderEcc : WordCond
  damageMark : Bool
  health : Nat
  mark : ServiceMark
  reservation : Option EntryIdx
  bound : Option EntryIdx
  deriving DecidableEq, Repr

/-- A set: 16 slots, the recency order (front first, R9) and the LOST mark (R10). -/
structure DirSet where
  slots : Vector Slot 16
  recency : List Way
  lost : Bool
  deriving DecidableEq, Repr

/-- The directory: the sets that differ from a cleared set, by set index, rising (`Directory.wf`). -/
abbrev Directory := List (Nat × DirSet)

/-! ### Messages (chapters 2 and 11) -/

/-- The six kinds of the request channel (R22). -/
inductive ReqKind where
  | rdShared
  | rdOwn
  | upgrade
  | writeback
  | drop
  | leave
  deriving DecidableEq, Repr

/-- A request as it stands in the intake queue (R112). -/
structure Request where
  port : Agent
  kind : ReqKind
  tag : ReqTag
  line : Line
  fullWrite : Bool
  deriving DecidableEq, Repr

/-- What a grant gives (R24). -/
inductive GrantKind where
  | shared
  | own
  deriving DecidableEq, Repr

/-- The reasons of a NACK (R40). -/
inductive NackReason where
  | range
  | noSlot
  | waitFull
  | leaving
  | lost
  | halted
  deriving DecidableEq, Repr

/-- What a probe asks (R24, R68). -/
inductive ProbeKind where
  | invalidate
  | downgrade
  deriving DecidableEq, Repr

/-- A message of the part to an agent (R24), the credit return among them (R110, R189). -/
inductive OutMsg where
  | grant (tag : ReqTag) (line : Line) (txn : Txn) (kind : GrantKind) (reread poison : Bool)
  | ack (tag : ReqTag) (line : Line) (stale : Bool)
  | nack (tag : ReqTag) (line : Line) (reason : NackReason)
  | probe (txn : Txn) (line : Line) (kind : ProbeKind)
  | leaveDone
  | credit
  deriving DecidableEq, Repr

/-- A message sent, with the port that sent it. -/
structure Sent where
  port : Agent
  msg : OutMsg
  deriving DecidableEq, Repr

/-! ### Transaction table and wait pool (chapter 3), probes (chapter 4) -/

/-- The kinds of an entry (R46). -/
inductive EntryKind where
  | request
  | recallVictim
  | retire
  | repair
  | retract
  | service
  deriving DecidableEq, Repr

/-- The party a transaction serves (R45). -/
inductive Party where
  | agent (a : Agent)
  | service
  | none
  deriving DecidableEq, Repr

/-- The request field of an entry: an agent's request, or RECALL_LINE (R45). -/
inductive EntryRequest where
  | agent (kind : ReqKind) (tag : ReqTag) (fullWrite : Bool)
  | recallLine
  deriving DecidableEq, Repr

/-- The phases of an entry (R47). -/
inductive Phase where
  | free
  | lookup
  | probing
  | awaitSlot
  | awaitDone
  | releasing
  deriving DecidableEq, Repr

/-- A recorded answer (R28, R45). -/
inductive Answer where
  | clean
  | written
  | gone
  | fenceGone
  deriving DecidableEq, Repr

/-- The status of a probe (R70). -/
inductive ProbeStatus where
  | queued
  | sent
  | resendQueued
  deriving DecidableEq, Repr

/-- A probe: one agent's part in one round (R70); `timer` is the time left in µs. -/
structure Probe where
  status : ProbeStatus
  retries : Nat
  timer : Nat
  deriving DecidableEq, Repr

/-- A TT entry (R45). Its index is its place in the table and its set is the set index of its line. `repairRound` says
that the current probe round is a repair round (R139), `slotClaim` that the resolution claim of a parked entry is
raised (R97), `target` names the leaving agent of a RETRACT (R126). -/
structure Entry where
  gen : Gen
  line : Option Line
  way : Option Way
  kind : Option EntryKind
  requester : Party
  request : Option EntryRequest
  phase : Phase
  probeKind : Option ProbeKind
  pendingSet : AgentSet
  answers : Vector (Option Answer) 8
  keep : Option Agent
  grantSent : Option GrantKind
  doneTimer : Option Nat
  closePending : Bool
  waiters : List PoolIdx
  probes : Vector (Option Probe) 8
  repairRound : Bool
  slotClaim : Bool
  target : Option Agent
  deriving DecidableEq, Repr

/-- A FREE entry of generation `g` (R45, R66). -/
def Entry.freeOf (g : Gen) : Entry where
  gen := g
  line := none
  way := none
  kind := none
  requester := .none
  request := none
  phase := .free
  probeKind := none
  pendingSet := 0
  answers := Vector.replicate 8 none
  keep := none
  grantSent := none
  doneTimer := none
  closePending := false
  waiters := []
  probes := Vector.replicate 8 none
  repairRound := false
  slotClaim := false
  target := none

/-- A waiter of the wait pool: an agent's request, or a service command with its line (R50). -/
inductive Waiter where
  | request (r : Request)
  | recallLine (line : Line)
  | clearPoison (line : Line)
  deriving DecidableEq, Repr

/-! ### Agent ports (chapter 6) -/

/-- The phases of LEAVING (R105, R124). -/
inductive LeavePhase where
  | drain
  | walk
  deriving DecidableEq, Repr

/-- The six states of a port, LEAVING with its phase (R105). -/
inductive PortState where
  | off
  | training
  | active
  | leaving (ph : LeavePhase)
  | fenced
  | fencedClean
  deriving DecidableEq, Repr

/-- The causes of a fence (R114). -/
inductive FenceCause where
  | linkLoss
  | probeTimeout
  | service
  | protocol
  deriving DecidableEq, Repr

/-- An outstanding send of a port: its transaction number, and whether it is of an earlier round (R69, R71). -/
structure Send where
  txn : Txn
  earlier : Bool
  deriving DecidableEq, Repr

/-- An agent port (section 6.0). An item of `probeQueue` names the entry whose probe to this agent waits (R71);
`sends` is in the order of sending. -/
structure Port where
  state : PortState
  enable : Bool
  link : Bool
  rejoinHold : Bool
  reqCredits : Nat
  credits : Nat
  tags : TagSet
  probeQueue : List EntryIdx
  sends : List Send
  discards : Nat
  lastFence : Option FenceCause
  snapshot : EntrySet
  deriving DecidableEq, Repr

/-- A port at power-on (R129); the absence of the link is log 6. -/
def Port.powerOn : Port where
  state := .off
  enable := false
  link := false
  rejoinHold := false
  reqCredits := Config.reqCredits
  credits := 0
  tags := 0
  probeQueue := []
  sends := []
  discards := 0
  lastFence := none
  snapshot := 0

/-! ### Recall unit (chapter 5) -/

/-- An item of the recall start queue (R89). -/
inductive StartItem where
  | parked (e : EntryIdx)
  | retire (set : SetIdx) (way : Way)
  | repair (set : SetIdx) (tag : Tag)
  deriving DecidableEq, Repr

/-- The recall unit: the start queue, the count of recalls in flight, for each entry the parked entry its RECALL
serves, and the pending accesses (chapter 5 introduction, R90, R91, R94). -/
structure RecallUnit where
  queue : List StartItem
  inFlight : Nat
  serves : Vector (Option EntryIdx) 32
  accesses : List EntryIdx
  deriving DecidableEq, Repr

/-! ### Walk unit (sections 6.5 and 6.6) -/

/-- The purge walker: for each member of the purge set its start, and the position (R119). -/
structure PurgeWalker where
  starts : Vector (Option SetIdx) 8
  pos : SetIdx
  deriving DecidableEq, Repr

/-- What the leave walker waits for: nothing, room for a RETRACT, or the end of a noted entry's transaction (R125). -/
inductive LeaveWait where
  | ready
  | room
  | noted (e : EntryIdx)
  deriving DecidableEq, Repr

/-- The leave walker and the leave order list (R124, R125). -/
structure LeaveWalker where
  port : Option Agent
  pos : SetIdx
  complete : Bool
  retracts : Nat
  wait : LeaveWait
  order : List Agent
  deriving DecidableEq, Repr

/-! ### Integrity unit (chapter 7) -/

/-- The status of a retire list item (R143). -/
inductive RetireStatus where
  | waitUnbind
  | waitRoom
  deriving DecidableEq, Repr

/-- An item of the retire list (R143). -/
structure RetireItem where
  set : SetIdx
  way : Way
  status : RetireStatus
  deriving DecidableEq, Repr

/-- The integrity unit's own state (chapter 7 introduction). `scrubTimer` is the time left to the next claim;
`scrubClaim` is the age in µs of the raised scrub claim (R19, R147). -/
structure IntegrityUnit where
  damaged : Nat
  fenceMark : Bool
  retireList : List RetireItem
  scrubEn : Bool
  scrubPos : SetIdx
  scrubTimer : Option Nat
  scrubClaim : Option Nat
  passComplete : Bool
  passCounter : BitVec 16
  deriving DecidableEq, Repr

/-! ### Error reporting unit (chapter 8) -/

/-- The two classes (R151). -/
inductive ErrClass where
  | fatal
  | nonfatal
  deriving DecidableEq, Repr

/-- The routings (R151). -/
inductive Routing where
  | none
  | notice
  | fault
  | halt
  deriving DecidableEq, Repr

/-- The kind of an agent's message as received: channel bit and kind code (R155, section 11.3). -/
structure MsgCode where
  channel : Bool
  code : BitVec 3
  deriving DecidableEq, Repr

/-- The PROTOCOL causes (R43). -/
inductive ProtoCause where
  | tagInUse
  | creditOverrun
  | badDone
  | badKind
  deriving DecidableEq, Repr

/-- A report, and what a first-error record holds: the kind and the detail fields supplied (R152, R155). -/
structure Report where
  kind : ErrKind
  line : Option Line := none
  set : Option SetIdx := none
  way : Option Way := none
  word : Option WordSel := none
  count : Option Nat := none
  agent : Option Agent := none
  txn : Option Txn := none
  msg : Option MsgCode := none
  cause : Option ProtoCause := none
  deriving DecidableEq, Repr

/-- The capture of one class (R155, R156). -/
structure Capture where
  first : Option Report
  later : KindSet
  deriving DecidableEq, Repr

/-- The error reporting unit (chapter 8 introduction); vectors are indexed by the row of R151. -/
structure ErrorUnit where
  counters : Vector Nat 16
  masks : Vector Bool 16
  routings : Vector Routing 16
  fatal : Capture
  nonfatal : Capture
  haltKind : Option ErrKind
  notice : Bool
  fault : Bool
  deriving DecidableEq, Repr

/-! ### Service port (chapter 10) -/

/-- Why a WRITE was refused (R179). -/
inductive RefusalReason where
  | state
  | range
  | sum
  | order
  | busy
  | readOnly
  deriving DecidableEq, Repr

/-- Why a command FAILED (section 11.4). -/
inductive FailReason where
  | badArg
  | state
  | init
  | halted
  | waitFull
  | range
  deriving DecidableEq, Repr

/-- The command status (R181). -/
inductive CmdStatus where
  | idle
  | busy
  | done
  | failed (why : FailReason)
  deriving DecidableEq, Repr

/-- The outcome code of a result (section 11.4). -/
inductive ResultOutcome where
  | none
  | found
  | absent
  | lost
  | noHolders
  | recalled
  | poisoned
  | freed
  | cleared
  | notPoisoned
  | damaged
  | relost
  | wasClear
  deriving DecidableEq, Repr

/-- The record part of an INSPECT result (R182); no holders means UNKNOWN. -/
structure RecordView where
  line : Line
  tag : Tag
  state : RecState
  poison : Bool
  holders : Option AgentSet
  deriving DecidableEq, Repr

/-- What INSPECT reports of a slot (R182). -/
structure SlotView where
  way : Way
  record : Option RecordView
  bound : Option EntryIdx
  reservation : Option EntryIdx
  rank : Option Nat
  health : Nat
  mark : ServiceMark
  lost : Bool
  deriving DecidableEq, Repr

/-- The result registers (section 11.4, R192). -/
structure Result where
  outcome : ResultOutcome
  slot : Option SlotView
  lost : Option Bool
  entry : Option EntryIdx
  txn : Option Txn
  answers : Vector (Option Answer) 8
  cleared : Option (Option ErrKind × KindSet)
  deriving DecidableEq, Repr

/-- Cleared result registers (R181). -/
def Result.clear : Result where
  outcome := .none
  slot := none
  lost := none
  entry := none
  txn := none
  answers := Vector.replicate 8 none
  cleared := none

/-- The waiting point of a command (chapter 10 introduction, R185). -/
inductive Waiting where
  | nowhere
  | claim
  | freeEntry
  | listed (e : EntryIdx)
  | entry (e : EntryIdx)
  deriving DecidableEq, Repr

/-- The service port. The command register holds the code of the last command taken (R176, R181). -/
structure ServicePort where
  refusal : Option (RefusalReason × Addr)
  status : CmdStatus
  lastCode : BitVec 8
  argA : Word
  argB : Word
  copyA : Word
  copyB : Word
  result : Result
  waiting : Waiting
  deriving DecidableEq, Repr

/-! ### The pins of the service port (section 10.1) -/

/-- What the service controller does on CS_N, SCK and SDI: CS_N falls, one cycle of SCK with its bit on SDI, CS_N rises
(R177). -/
inductive Pin where
  | csFall
  | bit (sdi : Bool)
  | csRise
  deriving DecidableEq, Repr

/-- The frame in progress (chapter 10 introduction, R177). Up to the event that carries it out: the bits taken since CS_N
fell, the first one first. From that event on: how many bits have been taken, and the 64 bits of the frame on SDO, the first
as bit 63. -/
inductive Frame where
  | taking (bits : List Bool)
  | carried (n : Nat) (sdo : BitVec 64)
  deriving DecidableEq, Repr

/-- The SPI target: the frame in progress, and what the pins do next, the model's own queue of inputs (log 29). -/
structure SpiTarget where
  frame : Option Frame
  pins : List Pin
  deriving DecidableEq, Repr

/-! ### Settings, claims, part -/

/-- The settings of the register window that belong to no single port or kind (R179). -/
structure Settings where
  winBase : Line
  winCount : BitVec 39
  pendBase : Line
  pendCount : BitVec 39
  protoFence : Bool
  probeCredits : Nat
  probeTmo : Nat
  probeRetries : Nat
  doneTmo : Nat
  admitHigh : Nat
  admitLow : Nat
  recallBudget : Nat
  retireTh : Nat
  scrubInterval : Nat
  scrubStarve : Nat
  deriving DecidableEq, Repr

/-- A raised claim (R16): an entry's lookup, resolution, close or waiter access; the recall unit; the service port's
command; a walker; the intake head; the scrub. -/
inductive Claim where
  | entry (e : EntryIdx)
  | recallUnit
  | service
  | purge
  | leave
  | intake
  | scrub
  deriving DecidableEq, Repr

/-- The part states (R167). -/
inductive PartState where
  | init
  | run
  | halted
  deriving DecidableEq, Repr

/-- The state of the part. `outbox` and `reports` are what the latest step sent and reported; `pending` is the
queue of commands that wait, first in, first out. -/
structure State where
  pwrok : Bool
  resetN : Bool
  part : PartState
  walk : Option SetIdx
  dir : Directory
  cfg : Settings
  tt : Vector Entry 32
  pool : Vector (Option Waiter) 64
  pause : Bool
  ports : Vector Port 8
  intake : List Request
  recallUnit : RecallUnit
  purge : PurgeWalker
  leave : LeaveWalker
  integ : IntegrityUnit
  err : ErrorUnit
  svc : ServicePort
  claims : List Claim
  outbox : List Sent
  reports : List Report
  spi : SpiTarget
  pending : List Instr
  deriving DecidableEq, Repr

/-- Why a step faults: no step does. Every event the data book describes has an effect, and a command whose event cannot
occur in the present state changes nothing (log 2). No constructor, so no claim can rest on a fault: safe. -/
inductive Fault where
  deriving DecidableEq, Repr

/-- Why a step is refused. -/
inductive Refusal where
  /-- Raised by `exec` for a command without a meaning yet; safe: nothing is claimed of such a step. -/
  | notModelled (mnemonic : String)
  deriving DecidableEq, Repr

/-- The settings at power-on (section 9.10). -/
def Settings.powerOn : Settings where
  winBase := 0
  winCount := Config.winCount
  pendBase := 0
  pendCount := Config.winCount
  protoFence := false
  probeCredits := Config.probeCredits
  probeTmo := Config.probeTmo
  probeRetries := Config.probeRetries
  doneTmo := Config.doneTmo
  admitHigh := Config.admitHigh
  admitLow := Config.admitLow
  recallBudget := Config.recallBudget
  retireTh := Config.retireTh
  scrubInterval := Config.scrubInterval
  scrubStarve := Config.scrubStarve

/-- The recall unit without work (R103). -/
def RecallUnit.idle : RecallUnit where
  queue := []
  inFlight := 0
  serves := Vector.replicate 32 none
  accesses := []

/-- The purge walker idle at position 0 (R119). -/
def PurgeWalker.idle : PurgeWalker where
  starts := Vector.replicate 8 none
  pos := 0

/-- The leave walker idle at position 0, the leave order list empty (R129, R169). -/
def LeaveWalker.idle : LeaveWalker where
  port := none
  pos := 0
  complete := false
  retracts := 0
  wait := .ready
  order := []

/-- The integrity unit at power-on (R150). -/
def IntegrityUnit.powerOn : IntegrityUnit where
  damaged := 0
  fenceMark := false
  retireList := []
  scrubEn := false
  scrubPos := 0
  scrubTimer := none
  scrubClaim := none
  passComplete := false
  passCounter := 0

/-- The masks at power-on: CORRECTED, WAIT_FULL and RANGE are masked (R151). -/
def masksPowerOn : Vector Bool 16 :=
  #v[false, false, false, false, true, false, false, false, false, false, false, false, false, true, true, false]

/-- The routings at power-on (R151). -/
def routingsPowerOn : Vector Routing 16 :=
  #v[.fault, .fault, .fault, .fault, .none, .notice, .notice, .notice, .notice, .notice, .notice, .notice, .notice,
    .none, .none, .notice]

/-- The error reporting unit at power-on (R165). -/
def ErrorUnit.powerOn : ErrorUnit where
  counters := Vector.replicate 16 0
  masks := masksPowerOn
  routings := routingsPowerOn
  fatal := ⟨none, 0⟩
  nonfatal := ⟨none, 0⟩
  haltKind := none
  notice := false
  fault := false

/-- The service port at power-on (R176); the argument copies are log 9. -/
def ServicePort.powerOn : ServicePort where
  refusal := none
  status := .idle
  lastCode := 0
  argA := 0
  argB := 0
  copyA := 0
  copyB := 0
  result := Result.clear
  waiting := .nowhere

/-- The part right after PWROK has risen with RESET_N high: INIT, the clearing walk before set 0, every piece of state
at its power-on value (R168, section 9.10). -/
def State.reset : State where
  pwrok := true
  resetN := true
  part := .init
  walk := some 0
  dir := []
  cfg := Settings.powerOn
  tt := Vector.replicate 32 (Entry.freeOf 0)
  pool := Vector.replicate 64 none
  pause := false
  ports := Vector.replicate 8 Port.powerOn
  intake := []
  recallUnit := RecallUnit.idle
  purge := PurgeWalker.idle
  leave := LeaveWalker.idle
  integ := IntegrityUnit.powerOn
  err := ErrorUnit.powerOn
  svc := ServicePort.powerOn
  claims := []
  outbox := []
  reports := []
  spi := ⟨none, []⟩
  pending := []

end Sys2Proof.Machine
end

