-- ==== Sys2Proof/Machine/Bits.lean ====
section
/-! DEFINITION. Sets held one bit a member, the split of a line number, and transaction numbers. -/

namespace Sys2Proof.Machine

/-- `i` is a member of the set `x`. -/
def has {w : Nat} (x : BitVec w) (i : Nat) : Bool := x.getLsbD i

/-- The set `x` plus `i`. -/
def addTo {w : Nat} (x : BitVec w) (i : Nat) : BitVec w := x ||| BitVec.twoPow w i

/-- The set `x` without `i` (section 0.7, H∖{A}). -/
def without {w : Nat} (x : BitVec w) (i : Nat) : BitVec w := x &&& ~~~(BitVec.twoPow w i)

/-- The set with the one member `i`. -/
def only {w : Nat} (i : Nat) : BitVec w := BitVec.twoPow w i

/-- Agents 0 to 7. -/
def allAgents : List Agent := List.finRange 8
/-- Ways 0 to 15, lowest first. -/
def allWays : List Way := List.finRange 16
/-- Entries 0 to 31, lowest first. -/
def allEntries : List EntryIdx := List.finRange 32
/-- Wait-pool slots 0 to 63, lowest first. -/
def allPool : List PoolIdx := List.finRange 64

/-- The members of an agent set, lowest first. -/
def agentsOf (h : AgentSet) : List Agent := allAgents.filter fun a => has h a

/-- The lowest-numbered member of an agent set. -/
def lowestAgent (h : AgentSet) : Option Agent := allAgents.find? fun a => has h a

/-- The agents that `f` selects. -/
def agentSet (f : Agent → Bool) : AgentSet :=
  allAgents.foldl (fun h a => if f a then addTo h a else h) 0

/-- The number of members of a set. -/
def cardOf {w : Nat} (x : BitVec w) : Nat := ((List.range w).filter fun i => has x i).length

/-- The set index of a line (R1). -/
def setOf (l : Line) : SetIdx := l.extractLsb' 0 11 ^^^ l.extractLsb' 11 11

/-- The tag of a line (R1). -/
def tagOf (l : Line) : Tag := l.extractLsb' 11 27

/-- The line of the record with this tag in this set (R1). -/
def lineOf (k : SetIdx) (t : Tag) : Line := t ++ (k ^^^ t.extractLsb' 0 11)

/-- The line belongs to the covered window (R1). -/
def Settings.covers (c : Settings) (l : Line) : Bool :=
  decide (c.winBase.toNat ≤ l.toNat) && decide (l.toNat < c.winBase.toNat + c.winCount.toNat)

/-- The transaction number: index plus 32 times the generation (R48). -/
def txnOf (e : EntryIdx) (g : Gen) : Txn := BitVec.ofNat 8 (e.val + 32 * g.toNat)

/-- The entry a transaction number names (R48). -/
def txnIndex (n : Txn) : EntryIdx := ⟨n.toNat % 32, Nat.mod_lt _ (by decide)⟩

/-- The generation a transaction number names (R48). -/
def txnGen (n : Txn) : Gen := BitVec.ofNat 3 (n.toNat / 32)

/-- A kind's row in the table of R151. -/
def kindIdx : ErrKind → Fin 16
  | .tagUncorrectable => 0
  | .holderUncorrectable => 1
  | .poisonCreated => 2
  | .agentFenced => 3
  | .corrected => 4
  | .slotRetired => 5
  | .retireDenied => 6
  | .probeRetry => 7
  | .doneTimeout => 8
  | .strayAnswer => 9
  | .protocol => 10
  | .ownerRerequest => 11
  | .noSlot => 12
  | .waitFull => 13
  | .range => 14
  | .lostRefusal => 15

/-- The kinds in the order of R151. -/
def allKinds : List ErrKind :=
  [.tagUncorrectable, .holderUncorrectable, .poisonCreated, .agentFenced, .corrected, .slotRetired, .retireDenied,
    .probeRetry, .doneTimeout, .strayAnswer, .protocol, .ownerRerequest, .noSlot, .waitFull, .range, .lostRefusal]

/-- The class of a kind (R151). -/
def classOf : ErrKind → ErrClass
  | .tagUncorrectable | .holderUncorrectable | .poisonCreated => .fatal
  | .agentFenced | .corrected | .slotRetired | .retireDenied | .probeRetry | .doneTimeout | .strayAnswer
  | .protocol | .ownerRerequest | .noSlot | .waitFull | .range | .lostRefusal => .nonfatal

/-- The kind code of a request (section 11.1). -/
def ReqKind.code : ReqKind → MsgCode
  | .rdShared => ⟨false, 0⟩
  | .rdOwn => ⟨false, 1⟩
  | .upgrade => ⟨false, 2⟩
  | .writeback => ⟨false, 3⟩
  | .drop => ⟨false, 4⟩
  | .leave => ⟨false, 5⟩

/-- RD_SHARED, RD_OWN and UPGRADE need a grant (R22). -/
def ReqKind.needsGrant : ReqKind → Bool
  | .rdShared | .rdOwn | .upgrade => true
  | .writeback | .drop | .leave => false

/-- WRITEBACK and DROP are notices (R22). -/
def ReqKind.isNotice : ReqKind → Bool
  | .writeback | .drop => true
  | .rdShared | .rdOwn | .upgrade | .leave => false

/-- The same vector with `f` applied to each element. -/
def mapVec {α : Type} {n : Nat} (f : α → α) (v : Vector α n) : Vector α n :=
  ⟨⟨v.toList.map f⟩, by simp⟩

end Sys2Proof.Machine
end

