-- ==== Sys2Proof/Machine/Directory.lean ====
section
/-! DEFINITION. The directory array as data (chapter 1): reading and writing a set, and what an access can do to the
slots and the order of one set. -/

namespace Sys2Proof.Machine

/-- A free slot with good words, in service, health count 0 (R21, after power-on). -/
def Slot.empty : Slot where
  content := none
  tagEcc := .good
  holderEcc := .good
  damageMark := false
  health := 0
  mark := .inService
  reservation := none
  bound := none

/-- A cleared set (R21, after power-on); what a set that is not listed reads as. -/
def DirSet.empty : DirSet where
  slots := Vector.replicate 16 Slot.empty
  recency := []
  lost := false

/-- The set under key `k`, a cleared set where none is listed. -/
def Directory.find : Directory → Nat → DirSet
  | [], _ => DirSet.empty
  | (j, d) :: rest, k => if j = k then d else Directory.find rest k

/-- The directory with `x` under key `k`; a cleared set is not listed. -/
def Directory.store : Directory → Nat → DirSet → Directory
  | [], k, x => if x = DirSet.empty then [] else [(k, x)]
  | (j, d) :: rest, k, x =>
    if k < j then (if x = DirSet.empty then (j, d) :: rest else (k, x) :: (j, d) :: rest)
    else if k = j then (if x = DirSet.empty then rest else (k, x) :: rest)
    else (j, d) :: Directory.store rest k x

/-- The canonical form: keys strictly rising, below 2048, and no cleared set listed. -/
def Directory.wfFrom : Nat → Directory → Bool
  | _, [] => true
  | lo, (j, d) :: rest =>
    decide (lo ≤ j) && decide (j < Config.sets) && decide (d ≠ DirSet.empty) && Directory.wfFrom (j + 1) rest

/-- The canonical form of the directory. -/
def Directory.wf (d : Directory) : Bool := Directory.wfFrom 0 d

/-- Every listed set changed by `f`; those that become cleared sets are no longer listed. -/
def Directory.mapSets (f : DirSet → DirSet) : Directory → Directory
  | [] => []
  | (j, d) :: rest =>
    let d' := f d
    if d' = DirSet.empty then Directory.mapSets f rest else (j, d') :: Directory.mapSets f rest

/-! ### Slots -/

/-- The slot of way `w`. -/
def DirSet.slot (d : DirSet) (w : Way) : Slot := d.slots.get w

/-- The set with slot `w` replaced. -/
def DirSet.setSlot (d : DirSet) (w : Way) (x : Slot) : DirSet := { d with slots := d.slots.set w.val x }

/-- The record of way `w`, if the slot holds one. -/
def DirSet.record (d : DirSet) (w : Way) : Option Record := (d.slot w).content

/-- The slot holds the record with this tag. -/
def Slot.holdsTag (x : Slot) (t : Tag) : Bool :=
  match x.content with
  | some r => decide (r.tag = t)
  | none => false

/-- The way of the record with this tag (the hit of R12). -/
def DirSet.findTag (d : DirSet) (t : Tag) : Option Way := allWays.find? fun w => (d.slot w).holdsTag t

/-- The number of ways marked RETIRED, the size of the retired map (R8). -/
def DirSet.retiredCount (d : DirSet) : Nat := (allWays.filter fun w => decide ((d.slot w).mark = .retired)).length

/-- The retired map has room for one more way (R8). -/
def DirSet.mapHasRoom (d : DirSet) : Bool := decide (d.retiredCount < Config.retiredWays)

/-- The slot is usable for an allocation by entry `e` (R2, R12). -/
def Slot.usableFor (x : Slot) (e : EntryIdx) : Bool :=
  x.content.isNone && decide (x.mark = .inService) && (decide (x.reservation = none) || decide (x.reservation = some e))

/-- The slot is usable by any allocation (R2), and by a move (R146). -/
def Slot.usable (x : Slot) : Bool :=
  x.content.isNone && decide (x.mark = .inService) && decide (x.reservation = none)

/-- The lowest-numbered usable free slot for entry `e` (R12). -/
def DirSet.usableWay (d : DirSet) (e : EntryIdx) : Option Way := allWays.find? fun w => (d.slot w).usableFor e

/-- The slot reserved for entry `e` (R7). -/
def DirSet.reservedWay (d : DirSet) (e : EntryIdx) : Option Way :=
  allWays.find? fun w => (d.slot w).usableFor e && decide ((d.slot w).reservation = some e)

/-- The slot an allocation for entry `e` takes: the reserved slot, else the slot a repair has just freed, else the
lowest-numbered usable free slot (R14). -/
def DirSet.allocWay (d : DirSet) (e : EntryIdx) (freed : Option Way) : Option Way :=
  match d.reservedWay e with
  | some w => some w
  | none =>
    match freed with
    | some w => some w
    | none => d.usableWay e

/-- The lowest-numbered slot a move may take (R146). -/
def DirSet.moveWay (d : DirSet) : Option Way := allWays.find? fun w => (d.slot w).usable

/-- The slot with this content, both words good (R15). -/
def Slot.write (x : Slot) (r : Option Record) : Slot := { x with content := r, tagEcc := .good, holderEcc := .good }

/-- A record written in place (R15): its fields change, its way keeps its place in the order. -/
def DirSet.writeRec (d : DirSet) (w : Way) (r : Record) : DirSet := d.setSlot w ((d.slot w).write (some r))

/-- A record freed (R15): words free and good, no bound field, the way out of the recency order; health count and
service mark stay. -/
def DirSet.freeRec (d : DirSet) (w : Way) : DirSet :=
  { d.setSlot w { (d.slot w).write none with bound := none } with recency := d.recency.erase w }

/-- A record allocated (R14): the reservation ends, the way joins the front of the order. -/
def DirSet.alloc (d : DirSet) (w : Way) (r : Record) (b : Option EntryIdx) : DirSet :=
  { d.setSlot w { (d.slot w).write (some r) with bound := b, reservation := none } with
    recency := w :: d.recency.erase w }

/-- The way moved to the front of the recency order (R9). -/
def DirSet.toFront (d : DirSet) (w : Way) : DirSet := { d with recency := w :: d.recency.erase w }

/-- The bound field of a slot written (R6). -/
def DirSet.setBound (d : DirSet) (w : Way) (b : Option EntryIdx) : DirSet := d.setSlot w { d.slot w with bound := b }

/-- The reservation of a slot written (R7). -/
def DirSet.setReservation (d : DirSet) (w : Way) (b : Option EntryIdx) : DirSet :=
  d.setSlot w { d.slot w with reservation := b }

/-- A free slot withdrawn with this mark: free, good words, no reservation, no bound field, out of the order
(R136, R142). -/
def DirSet.withdraw (d : DirSet) (w : Way) (m : ServiceMark) : DirSet :=
  { d.setSlot w { (d.slot w).write none with bound := none, reservation := none, mark := m } with
    recency := d.recency.erase w }

/-- A record moved from way `w` to way `v` (R146): the content and the bound field go over (R6), the new way takes the
old way's place in the order, and the old way is marked RETIRED. -/
def DirSet.move (d : DirSet) (w v : Way) : DirSet :=
  let old := d.slot w
  let d1 := d.setSlot v { (d.slot v).write old.content with bound := old.bound }
  let d2 := d1.setSlot w { (d1.slot w).write none with bound := none, reservation := none, mark := .retired }
  { d2 with recency := d.recency.map fun x => if x = w then v else x }

/-- Every slot changed by `f`. -/
def DirSet.mapSlots (f : Slot → Slot) (d : DirSet) : DirSet := { d with slots := mapVec f d.slots }

/-- A reservation naming `e` removed (R7, R58). -/
def DirSet.dropReservation (d : DirSet) (e : EntryIdx) : DirSet :=
  d.mapSlots fun x => if x.reservation = some e then { x with reservation := none } else x

/-- The bound fields naming `e` removed (R6, R60). -/
def DirSet.dropBound (d : DirSet) (e : EntryIdx) : DirSet :=
  d.mapSlots fun x => if x.bound = some e then { x with bound := none } else x

/-- What the clearing walk does to a set (R20): every slot free with good words, no bound field, no reservation, order
empty, LOST clear; health counts and service marks stay. -/
def DirSet.clear (d : DirSet) : DirSet where
  slots := mapVec (fun x => { x.write none with bound := none, reservation := none, damageMark := false }) d.slots
  recency := []
  lost := false

/-- What a completed pass does to a set: every nonzero health count falls by 1 (R148). -/
def DirSet.decay (d : DirSet) : DirSet := d.mapSlots fun x => { x with health := x.health - 1 }

/-- The place of a way in the recency order, 0 for the front (R9). -/
def DirSet.rank (d : DirSet) (w : Way) : Option Nat := d.recency.findIdx? fun x => decide (x = w)

end Sys2Proof.Machine
end

