-- ==== Sys2Proof/Machine/Ops.lean ====
section
/-! DEFINITION. The named reads and updates of the state that every block uses: entries, ports, sets and slots, messages
and reports. -/

namespace Sys2Proof.Machine

/-- The state with what the latest step sent and reported cleared: how every step begins (log 21). -/
def State.clearOutputs (s : State) : State := { s with outbox := [], reports := [] }

/-- The state with this frame in progress, or none (R177). -/
def State.setFrame (s : State) (x : Option Frame) : State := { s with spi := { s.spi with frame := x } }

/-! ### Entries -/

/-- Entry `e` of the transaction table. -/
def State.entry (s : State) (e : EntryIdx) : Entry := s.tt.get e

/-- The state with entry `e` replaced. -/
def State.setEntry (s : State) (e : EntryIdx) (x : Entry) : State := { s with tt := s.tt.set e.val x }

/-- The state with entry `e` changed by `f`. -/
def State.updEntry (s : State) (e : EntryIdx) (f : Entry → Entry) : State := s.setEntry e (f (s.entry e))

/-- An entry is in use in every phase except FREE (R47). -/
def Entry.inUse (x : Entry) : Bool := decide (x.phase ≠ .free)

/-- The entry in use that carries this line number: the line is bound (R26). -/
def State.boundEntry (s : State) (l : Line) : Option EntryIdx :=
  allEntries.find? fun e => (s.entry e).inUse && decide ((s.entry e).line = some l)

/-- The FREE entry with the lowest index (R49). -/
def State.freeEntry (s : State) : Option EntryIdx := allEntries.find? fun e => !(s.entry e).inUse

/-- The count of entries in use (R63). -/
def State.inUseCount (s : State) : Nat := (allEntries.filter fun e => (s.entry e).inUse).length

/-- The set of indices of entries in use (R116). -/
def State.inUseSet (s : State) : EntrySet :=
  allEntries.foldl (fun x e => if (s.entry e).inUse then addTo x e else x) 0

/-- The transaction number of entry `e` (R48). -/
def State.txn (s : State) (e : EntryIdx) : Txn := txnOf e (s.entry e).gen

/-- The line of entry `e`; 0 for a FREE entry, whose line no rule reads. -/
def State.lineOfEntry (s : State) (e : EntryIdx) : Line := (s.entry e).line.getD 0

/-- The agent that is the requester of an entry, if an agent is. -/
def Entry.agent? (x : Entry) : Option Agent :=
  match x.requester with
  | .agent a => some a
  | .service => none
  | .none => none

/-! ### The wait pool -/

/-- The wait-pool slot `i`. -/
def State.waiter (s : State) (i : PoolIdx) : Option Waiter := s.pool.get i

/-- The state with wait-pool slot `i` written. -/
def State.setWaiter (s : State) (i : PoolIdx) (w : Option Waiter) : State := { s with pool := s.pool.set i.val w }

/-- The lowest-numbered free slot of the wait pool (R50). -/
def State.freePool (s : State) : Option PoolIdx := allPool.find? fun i => (s.waiter i).isNone

/-- The number of occupied wait-pool slots (R50). -/
def State.poolCount (s : State) : Nat := (allPool.filter fun i => (s.waiter i).isSome).length

/-- A waiter in slot `i` at the end of entry `e`'s list (R51). -/
def State.joinWaiters (s : State) (e : EntryIdx) (i : PoolIdx) (w : Waiter) : State :=
  (s.setWaiter i (some w)).updEntry e fun x => { x with waiters := x.waiters ++ [i] }

/-! ### Ports -/

/-- Port `p`. -/
def State.port (s : State) (p : Agent) : Port := s.ports.get p

/-- The state with port `p` replaced. -/
def State.setPort (s : State) (p : Agent) (x : Port) : State := { s with ports := s.ports.set p.val x }

/-- The state with port `p` changed by `f`. -/
def State.updPort (s : State) (p : Agent) (f : Port → Port) : State := s.setPort p (f (s.port p))

/-- ACTIVE or LEAVING: the port takes messages and its agent is a member of the domain (R105). -/
def PortState.member : PortState → Bool
  | .active | .leaving _ => true
  | .off | .training | .fenced | .fencedClean => false

/-- Agent `p` is a member of the domain. -/
def State.member (s : State) (p : Agent) : Bool := (s.port p).state.member

/-- Port `p` is FENCED. -/
def State.fenced (s : State) (p : Agent) : Bool := decide ((s.port p).state = .fenced)

/-- The agents whose port is FENCED or FENCED_CLEAN, whom a close filters out (R58). -/
def State.fencedSet (s : State) : AgentSet :=
  agentSet fun p => decide ((s.port p).state = .fenced) || decide ((s.port p).state = .fencedClean)

/-- The agents of the domain, whom a repair probes (R139). -/
def State.memberSet (s : State) : AgentSet := agentSet s.member

/-- Some port is FENCED (R134). -/
def State.anyFenced (s : State) : Bool := allAgents.any s.fenced

/-- The requester of entry `e` is an agent whose port is FENCED (R35, R53, R92). -/
def State.requesterFenced (s : State) (e : EntryIdx) : Bool :=
  match (s.entry e).agent? with
  | some a => s.fenced a
  | none => false

/-! ### Messages and reports -/

/-- A message to agent `p`: sent in ACTIVE and LEAVING, discarded otherwise (R108). -/
def State.send (s : State) (p : Agent) (m : OutMsg) : State :=
  if s.member p then { s with outbox := s.outbox ++ [⟨p, m⟩] } else s

/-- A report raised in this step (R152). -/
def State.report (s : State) (r : Report) : State := { s with reports := s.reports ++ [r] }

/-- A reply to the request of agent `p` with this tag: its tag leaves the outstanding set (R25). -/
def State.reply (s : State) (p : Agent) (tag : ReqTag) (m : OutMsg) : State :=
  (s.send p m).updPort p fun x => { x with tags := without x.tags tag }

/-- One credit returned to agent `p` (R110, R189). -/
def State.returnCredit (s : State) (p : Agent) : State :=
  (s.updPort p fun x => { x with credits := x.credits + 1 }).send p .credit

/-! ### Sets and slots -/

/-- Set `k` of the directory. -/
def State.dirSet (s : State) (k : SetIdx) : DirSet := s.dir.find k.toNat

/-- The state with set `k` replaced. -/
def State.putSet (s : State) (k : SetIdx) (d : DirSet) : State := { s with dir := s.dir.store k.toNat d }

/-- The state with set `k` changed by `f`. -/
def State.updSet (s : State) (k : SetIdx) (f : DirSet → DirSet) : State := s.putSet k (f (s.dirSet k))

/-- Slot `w` of set `k`. -/
def State.slot (s : State) (k : SetIdx) (w : Way) : Slot := (s.dirSet k).slot w

/-- The way of the record of line `l` (R12). -/
def State.findLine (s : State) (l : Line) : Option Way := (s.dirSet (setOf l)).findTag (tagOf l)

/-- The record of slot (`k`, `w`) freed; the entry it was bound to loses its way (R15). -/
def State.freeRec (s : State) (k : SetIdx) (w : Way) : State :=
  let s1 := match (s.slot k w).bound with
    | some e => s.updEntry e fun x => { x with way := none }
    | none => s
  s1.updSet k fun d => d.freeRec w

/-- The record of slot (`k`, `w`) written in place (R15). -/
def State.writeRec (s : State) (k : SetIdx) (w : Way) (r : Record) : State := s.updSet k fun d => d.writeRec w r

/-- The record of slot (`k`, `w`) written POISONED with no holders (R3). -/
def State.writePoisoned (s : State) (k : SetIdx) (w : Way) (r : Record) : State :=
  s.writeRec k w { r with state := .poisoned, holders := 0, poison := true }

/-- A record that lost its last holder: freed, or POISONED when its flag is set (R3, R4). -/
def State.freeOrPoison (s : State) (k : SetIdx) (w : Way) (r : Record) : State :=
  if r.poison then s.writePoisoned k w r else s.freeRec k w

/-- Entry `e` takes slot (`k`, `w`) as the way of its line and the slot's bound field names it (R6). -/
def State.bind (s : State) (k : SetIdx) (w : Way) (e : EntryIdx) : State :=
  (s.updSet k fun d => d.setBound w (some e)).updEntry e fun x => { x with way := some w }

/-- A record allocated for entry `e`, which holds the line (R14). -/
def State.alloc (s : State) (k : SetIdx) (w : Way) (r : Record) (e : EntryIdx) : State :=
  (s.updSet k fun d => d.alloc w r (some e)).updEntry e fun x => { x with way := some w }

end Sys2Proof.Machine
end

