-- ==== Sys2Proof/Machine/Probes.lean ====
section
/-! DEFINITION. The probe engine (chapter 4): rounds, sends, and the end of a probe. -/

namespace Sys2Proof.Machine

/-- A probe at its creation (R69, R77). -/
def State.newProbe (s : State) : Probe := ⟨.queued, 0, Config.probeStep * s.cfg.probeTmo⟩

/-- The sends of this transaction number marked as of an earlier round (R69). -/
def markEarlier (n : Txn) (l : List Send) : List Send :=
  l.map fun x => if x.txn = n then { x with earlier := true } else x

/-- One agent of the probe set at the start of a round: a probe joins its port's queue, or fence GONE is recorded when
its port is outside ACTIVE and LEAVING (R69). -/
def State.startProbe (e : EntryIdx) (s : State) (a : Agent) : State :=
  if s.member a then
    (s.updEntry e fun x => { x with
      probes := x.probes.set a.val (some s.newProbe)
      pendingSet := addTo x.pendingSet a }).updPort a fun q => { q with probeQueue := q.probeQueue ++ [e] }
  else s.updEntry e fun x => { x with answers := x.answers.set a.val (some .fenceGone) }

/-- A probe round of entry `e` starts (R68, R69): kind written, answers emptied, the transaction's outstanding sends
marked, each agent of the probe set taken in turn. -/
def State.startRound (s : State) (e : EntryIdx) (kind : ProbeKind) (set : AgentSet) (repair : Bool) : State :=
  let n := s.txn e
  let s1 := s.updEntry e fun x => { x with
    phase := .probing
    probeKind := some kind
    pendingSet := 0
    answers := Vector.replicate 8 none
    probes := Vector.replicate 8 none
    repairRound := repair }
  let s2 := { s1 with ports := mapVec (fun q => { q with sends := markEarlier n q.sends }) s1.ports }
  (agentsOf set).foldl (State.startProbe e) s2

/-- A repair round of entry `e` (R139): INVALIDATE to every agent of the domain but the keep agent. -/
def State.startRepair (s : State) (e : EntryIdx) (keep : Option Agent) : State :=
  let set := match keep with
    | some a => without s.memberSet a
    | none => s.memberSet
  (s.updEntry e fun x => { x with keep := keep }).startRound e .invalidate set true

/-- The probe of entry `e` to agent `a` ends with an answer recorded: its timer stops, its queue item is withdrawn
unsent, and the agent leaves the pending-answer set (R70, R74, R80). -/
def State.endProbe (s : State) (e : EntryIdx) (a : Agent) (ans : Answer) : State :=
  (s.updEntry e fun x => { x with
    probes := x.probes.set a.val none
    pendingSet := without x.pendingSet a
    answers := x.answers.set a.val (some ans) }).updPort a fun q => { q with probeQueue := q.probeQueue.erase e }

/-- The port has a free probe credit (R72). -/
def State.probeCredit (s : State) (p : Agent) : Bool := decide ((s.port p).sends.length < s.cfg.probeCredits)

/-- The PROBE message of entry `e` (R72). -/
def State.probeMsg (s : State) (e : EntryIdx) : OutMsg :=
  .probe (s.txn e) (s.lineOfEntry e) ((s.entry e).probeKind.getD .invalidate)

/-- One PROBE sent by port `p` for entry `e`: the probe is SENT, and a current instance joins the list (R72). -/
def State.sendProbe (s : State) (p : Agent) (e : EntryIdx) : State :=
  let s1 := s.send p (s.probeMsg e)
  let s2 := s1.updEntry e fun x => match x.probes.get p with
    | some b => { x with probes := x.probes.set p.val (some { b with status := .sent }) }
    | none => x
  s2.updPort p fun q => { q with sends := q.sends ++ [⟨s.txn e, false⟩] }

/-- The port sends from the front of its queue `q` while it has free credits; the rest is its queue (R72). -/
def State.pumpQueue (p : Agent) : List EntryIdx → State → State
  | [], s => s.updPort p fun x => { x with probeQueue := [] }
  | e :: rest, s =>
    if s.probeCredit p then State.pumpQueue p rest (s.sendProbe p e)
    else s.updPort p fun x => { x with probeQueue := e :: rest }

/-- Port `p` sends what it can, in ACTIVE and LEAVING (R72). -/
def State.pumpPort (s : State) (p : Agent) : State :=
  if s.member p then State.pumpQueue p (s.port p).probeQueue s else s

/-- Every port sends what it can: done at the end of every event in RUN, where the conditions became true (R72). -/
def State.pump (s : State) : State := allAgents.foldl State.pumpPort s

/-- The oldest send with this transaction number, and the list without it (R73). -/
def takeSend (n : Txn) : List Send → Option (Send × List Send)
  | [] => none
  | x :: rest =>
    if x.txn = n then some (x, rest)
    else match takeSend n rest with
      | some (y, l) => some (y, x :: l)
      | none => none

/-- An answer matches the current round of its entry (R74, conditions 2 to 4). -/
def State.answerMatches (s : State) (p : Agent) (n : Txn) (l : Line) : Bool :=
  let x := s.entry (txnIndex n)
  decide (x.phase = .probing) && decide (x.gen = txnGen n) && has x.pendingSet p && decide (x.line = some l)

/-- The probe of an entry to agent `p`, if there is one, ends with fence GONE (R80). -/
def Entry.fenceProbe (p : Agent) (x : Entry) : Entry :=
  if has x.pendingSet p then
    { x with
      probes := x.probes.set p.val none
      pendingSet := without x.pendingSet p
      answers := x.answers.set p.val (some .fenceGone) }
  else x

/-- Every probe to agent `p` ends with fence GONE; its queue and list are emptied (R80, R82). -/
def State.endAllProbes (s : State) (p : Agent) : State :=
  let s1 := { s with tt := mapVec (Entry.fenceProbe p) s.tt }
  s1.updPort p fun q => { q with probeQueue := [], sends := [] }

/-- The answers of entry `x` hold a fence GONE of agent `a` (R28). -/
def Entry.fenceGoneOf (x : Entry) (a : Agent) : Bool := decide (x.answers.get a = some .fenceGone)

/-- The agents whose recorded answer is fence GONE. -/
def Entry.fenceGoneSet (x : Entry) : AgentSet := agentSet x.fenceGoneOf

end Sys2Proof.Machine
end

