-- ==== Sys2Proof/Machine/Ports.lean ====
section
/-! DEFINITION. The ports (chapter 6): coming up, credits, the fence, the purge set, and leaving the domain. -/

namespace Sys2Proof.Machine

/-! ### Coming up (R106) -/

/-- The port enters ACTIVE: full credits, one credit return each, no tag, no probe (R106). -/
def State.activate (s : State) (p : Agent) : State :=
  let s1 := s.updPort p fun q => { q with
    state := .active, credits := q.reqCredits, tags := 0, probeQueue := [], sends := [] }
  { s1 with outbox := s1.outbox ++ List.replicate (s.port p).reqCredits ⟨p, .credit⟩ }

/-- The port in TRAINING enters ACTIVE when the part is in RUN (R106). -/
def State.trainUp (s : State) (p : Agent) : State :=
  if s.part = .run ∧ (s.port p).state = .training then s.activate p else s

/-- The port in OFF enters TRAINING when it is enabled, its link is present, its rejoin hold is clear and RESET_N is
high, and ACTIVE at once in RUN (R106, R169). -/
def State.bringUp (s : State) (p : Agent) : State :=
  let q := s.port p
  if q.state = .off ∧ q.enable ∧ q.link ∧ !q.rejoinHold ∧ s.resetN then
    (s.updPort p fun q => { q with state := .training }).trainUp p
  else s

/-! ### Removing requests and waiters (R52, R113) -/

/-- The request of a waiter, if an agent's. -/
def Waiter.request? : Waiter → Option Request
  | .request r => some r
  | .recallLine _ => none
  | .clearPoison _ => none

/-- Slot `i` of the wait pool holds an agent's request that `f` selects. -/
def State.poolSelects (s : State) (f : Request → Bool) (i : PoolIdx) : Bool :=
  match (s.waiter i).bind Waiter.request? with
  | some r => f r
  | none => false

/-- The waiting requests that `f` selects, by entry index and then by place in the list: the order in which the NACK
LEAVINGs of R52 go out is log 35. -/
def State.selectedWaiters (s : State) (f : Request → Bool) : List Request :=
  allEntries.flatMap fun e => ((s.entry e).waiters.filter (s.poolSelects f)).filterMap fun i =>
    (s.waiter i).bind Waiter.request?

/-- A wait-pool slot, freed when it holds a request that `f` selects. -/
def freeSelected (f : Request → Bool) (w : Option Waiter) : Option Waiter :=
  match w.bind Waiter.request? with
  | some r => if f r then none else w
  | none => w

/-- The waiters that `f` selects removed from every list, their slots free (R52). -/
def State.removeWaiters (s : State) (f : Request → Bool) : State :=
  { s with
    tt := mapVec (fun x => { x with waiters := x.waiters.filter fun i => !s.poolSelects f i }) s.tt
    pool := mapVec (freeSelected f) s.pool }

/-! ### The purge set (R116, R119) -/

/-- An agent whose snapshot is empty joins the purge set at the walker's position (R119). -/
def State.joinPurge (s : State) (p : Agent) : State :=
  { s with purge := { s.purge with starts := s.purge.starts.set p.val (some s.purge.pos) } }

/-- Entry `e` leaves the fence snapshot of port `p`; an emptied snapshot of a FENCED port sends its agent to the purge
set (R116). -/
def State.leaveSnapshot (e : EntryIdx) (s : State) (p : Agent) : State :=
  let q := s.port p
  if has q.snapshot e then
    let s1 := s.updPort p fun q => { q with snapshot := without q.snapshot e }
    if q.state = .fenced ∧ without q.snapshot e = 0 then s1.joinPurge p else s1
  else s

/-- Entry `e` leaves every snapshot: its transaction closed or it became FREE (R116). -/
def State.leaveSnapshots (s : State) (e : EntryIdx) : State := allAgents.foldl (State.leaveSnapshot e) s

/-! ### The fence (R114, R115, R118, R128) -/

/-- The leave of port `p` is abandoned (R128): it leaves the leave order list, and where the leave walker served it the
walk ends and the walker's claim is withdrawn. -/
def State.abandonLeave (s : State) (p : Agent) : State :=
  if s.leave.port = some p then
    { s with
      claims := s.claims.erase .leave
      leave :=
        { s.leave with port := none, complete := false, retracts := 0, wait := .ready, order := s.leave.order.erase p } }
  else { s with leave := { s.leave with order := s.leave.order.erase p } }

/-- What a fence does to the port itself: FENCED, tags and credits gone, the cause and the snapshot taken (R115). -/
def State.fencePortState (s : State) (p : Agent) (c : FenceCause) : State :=
  s.updPort p fun q => { q with
    state := .fenced, tags := 0, credits := 0, lastFence := some c, snapshot := s.inUseSet }

/-- A fence while records are DAMAGED sets the damage fence mark (R134). -/
def State.fenceDamage (s : State) : State :=
  { s with integ := { s.integ with fenceMark := s.integ.fenceMark || decide (0 < s.integ.damaged) } }

/-- The fence event in RUN, every step of R115. -/
def State.fenceRun (s : State) (p : Agent) (c : FenceCause) : State :=
  let s1 := (s.fencePortState p c).abandonLeave p
  let s2 := { s1 with intake := s1.intake.filter fun r => decide (r.port ≠ p) }
  let s3 := (s2.removeWaiters fun r => decide (r.port = p)).endAllProbes p
  if s.inUseSet = 0 then s3.joinPurge p else s3

/-- The reduced fence event of HALTED (R118, R86). -/
def State.fenceHalted (s : State) (p : Agent) (c : FenceCause) : State :=
  (s.fencePortState p c).updPort p fun q => { q with probeQueue := [], sends := [] }

/-- A cause of a fence reaches port `p` (R114): in ACTIVE and LEAVING it fences, and AGENT_FENCED is reported with the
transaction and line of a probe timeout. -/
def State.fence (s : State) (p : Agent) (c : FenceCause) (n : Option Txn) (l : Option Line) : State :=
  if s.member p then
    let s1 := if s.part = .halted then s.fenceHalted p c else s.fenceRun p c
    s1.fenceDamage.report { kind := .agentFenced, agent := some p, txn := n, line := l }
  else s

/-- A PROTOCOL error of agent `p`, and the fence it causes when PROTO_FENCE is set (R43). -/
def State.protocolError (s : State) (p : Agent) (c : ProtoCause) (m : MsgCode) (l : Option Line) (n : Option Txn) :
    State :=
  let s1 := s.report { kind := .protocol, agent := some p, cause := some c, msg := some m, line := l, txn := n }
  if s.cfg.protoFence then s1.fence p .protocol none none else s1

/-! ### Leaving the domain (R122, R124, R127) -/

/-- A request of a leaving port that needs a grant. -/
def grantOf (p : Agent) (r : Request) : Bool := decide (r.port = p) && r.kind.needsGrant

/-- The NACK LEAVING of a removed request (R122). -/
def State.nackLeaving (s : State) (r : Request) : State :=
  s.reply r.port r.tag (.nack r.tag r.line .leaving)

/-- The leave walker, with the leave order list, changed by `f`. -/
def State.updLeave (s : State) (f : LeaveWalker → LeaveWalker) : State := { s with leave := f s.leave }

/-- The intake queue replaced. -/
def State.setIntake (s : State) (l : List Request) : State := { s with intake := l }

/-- Port `p` enters LEAVING in DRAIN and joins the end of the leave order list (R122, R124). -/
def State.startDrain (s : State) (p : Agent) : State :=
  (s.updPort p fun q => { q with state := .leaving .drain }).updLeave fun w => { w with order := w.order ++ [p] }

/-- The queued requests of port `p` that need a grant are refused LEAVING, each with its credit (R122); in the order of
the queue, the credit behind its NACK (log 35). -/
def State.refuseQueued (s : State) (p : Agent) : State :=
  (s.intake.filter (grantOf p)).foldl (fun s r => (s.nackLeaving r).returnCredit r.port)
    (s.setIntake (s.intake.filter fun r => !grantOf p r))

/-- The waiting requests of port `p` that need a grant are refused LEAVING (R122), behind the queued ones (log 35). -/
def State.refuseWaiting (s : State) (p : Agent) : State :=
  (s.selectedWaiters (grantOf p)).foldl State.nackLeaving (s.removeWaiters (grantOf p))

/-- A LEAVE leaves the head of the intake queue (R122). -/
def State.takeLeave (s : State) (p : Agent) : State :=
  let s1 := s.returnCredit p
  if (s.port p).state = .active then ((s1.startDrain p).refuseQueued p).refuseWaiting p else s1

/-- The LEAVEs at the head of the intake queue are taken while the head may be served (R112). The fuel is the length
of the queue. -/
def State.takeLeaves : Nat → State → State
  | 0, s => s
  | k + 1, s =>
    match s.intake with
    | r :: rest =>
      if r.kind = .leave ∧ !s.pause then State.takeLeaves k (State.takeLeave (s.setIntake rest) r.port)
      else s
    | [] => s

/-- Some TT entry in use has agent `p` as requester (R124). -/
def State.hasTransaction (s : State) (p : Agent) : Bool :=
  allEntries.any fun e => (s.entry e).inUse && decide ((s.entry e).requester = .agent p)

/-- The first port of the leave order list enters WALK when it has drained and the walker serves no port (R124). -/
def State.enterWalk (s : State) : State :=
  match s.leave.order with
  | p :: rest =>
    if s.leave.port = none ∧ (s.port p).state = .leaving .drain ∧ !s.hasTransaction p then
      (s.updPort p fun q => { q with state := .leaving .walk }).updLeave fun _ => ⟨some p, 0, false, 0, .ready, rest⟩
    else s
  | [] => s

/-- No reply is owed to agent `p`, no probe to it is pending, and the walk that serves it is complete (R127). -/
def State.leaveDoneReady (s : State) (p : Agent) : Bool :=
  s.leave.complete && decide (s.leave.retracts = 0) && s.intake.all (fun r => decide (r.port ≠ p))
    && (s.selectedWaiters fun r => decide (r.port = p)).isEmpty
    && allEntries.all fun e => !has (s.entry e).pendingSet p

/-- Port `p`, which has left, goes OFF with its rejoin hold set, and the leave walker is idle (R127). -/
def State.portLeft (s : State) (p : Agent) : State :=
  (s.updPort p fun q => { q with
    state := .off, rejoinHold := true, tags := 0, credits := 0, probeQueue := [], sends := [] }).updLeave
    fun w => { w with port := none, complete := false, retracts := 0, wait := .ready }

/-- The port that the leave walker serves is sent LEAVE_DONE and goes OFF with its rejoin hold set (R127). -/
def State.sendLeaveDone (s : State) : State :=
  match s.leave.port with
  | some p =>
    if s.leaveDoneReady p then (s.send p .leaveDone).portLeft p else s
  | none => s

end Sys2Proof.Machine
end

