-- ==== Sys2Proof/Machine/Table.lean ====
section
/-! DEFINITION. The transaction table (chapter 3) and the recall start queue (section 5.1): taking an entry, the
admission gate, joining the start queue, the close and the hand-on. -/

namespace Sys2Proof.Machine

/-! ### Taking an entry, the gate (R49, R63) -/

/-- The flag after the count has risen: set at ADMIT_HIGH (R63). -/
def State.pauseUp (s : State) : State :=
  { s with pause := s.pause || decide (s.cfg.admitHigh ≤ s.inUseCount) }

/-- The flag after the count has fallen: cleared at ADMIT_LOW (R63). -/
def State.pauseDown (s : State) : State :=
  { s with pause := s.pause && !decide (s.inUseCount ≤ s.cfg.admitLow) }

/-- A new transaction in an entry of generation `g` (R45): the fields of the round, the keep agent and the close-pending
mark are empty, grant sent is none. -/
def Entry.begin (g : Gen) (line : Line) (way : Option Way) (kind : EntryKind) (who : Party)
    (req : Option EntryRequest) (waiters : List PoolIdx) : Entry :=
  { Entry.freeOf (g + 1) with
    line := some line, way := way, kind := some kind, requester := who, request := req, phase := .lookup
    waiters := waiters }

/-- Entry `e` taken from FREE for a transaction on line `l` (R49): the generation advances, the count rises. -/
def State.takeEntry (s : State) (e : EntryIdx) (l : Line) (kind : EntryKind) (who : Party)
    (req : Option EntryRequest) : State :=
  (s.setEntry e (Entry.begin (s.entry e).gen l none kind who req [])).pauseUp

/-! ### The recall start queue (R88, R89) -/

/-- A start item is a RETIRE or REPAIR item (R89). -/
def StartItem.isStart : StartItem → Bool
  | .parked _ => false
  | .retire _ _ => true
  | .repair _ _ => true

/-- The start items that join the queue `q`, in order: none that the queue holds, and none past 16 (R89). -/
def joiningItems (q : List StartItem) : List StartItem → List StartItem → List StartItem
  | [], joined => joined
  | x :: rest, joined =>
    if (q ++ joined).contains x || decide (Config.startItems ≤ ((q ++ joined).filter StartItem.isStart).length)
    then joiningItems q rest joined
    else joiningItems q rest (joined ++ [x])

/-- Start items that one access queues join the front as one group (R89). -/
def State.queueStarts (s : State) (items : List StartItem) : State :=
  { s with recallUnit := { s.recallUnit with queue := joiningItems s.recallUnit.queue items [] ++ s.recallUnit.queue } }

/-- A parked item joins the queue, at the front or at the end (R88). -/
def State.queueParked (s : State) (e : EntryIdx) (front : Bool) : State :=
  { s with recallUnit := { s.recallUnit with
    queue := if front then .parked e :: s.recallUnit.queue else s.recallUnit.queue ++ [.parked e] } }

/-- A request that finds no slot parks (R88). -/
def State.park (s : State) (e : EntryIdx) (again : Bool) : State :=
  (s.updEntry e fun x => { x with phase := .awaitSlot, way := none, slotClaim := false }).queueParked e again

/-! ### The end of a transaction (R57, R58, R60) -/

/-- The leave walker stops waiting for room (R125). -/
def LeaveWalker.wakeRoom (w : LeaveWalker) : LeaveWalker := if w.wait = .room then { w with wait := .ready } else w

/-- The leave walker stops waiting for the end of entry `e`'s transaction (R125). -/
def LeaveWalker.wakeNoted (w : LeaveWalker) (e : EntryIdx) : LeaveWalker :=
  if w.wait = .noted e then { w with wait := .ready } else w

/-- The count of recalls in flight after the close of a transaction of this kind (R90). -/
def inFlightAfter (kind : Option EntryKind) (n : Nat) : Nat :=
  match kind with
  | some .recallVictim => n - 1
  | some .retract => n - 1
  | some .request => n
  | some .retire => n
  | some .repair => n
  | some .service => n
  | none => n

/-- The leave walker after the close of entry `x` at index `e` (R125, R127). -/
def LeaveWalker.afterClose (w : LeaveWalker) (x : Entry) (e : EntryIdx) : LeaveWalker :=
  let w1 :=
    if x.kind = some EntryKind.retract ∧ w.port.isSome ∧ x.target = w.port then { w with retracts := w.retracts - 1 }
    else w
  let w2 := if x.kind = some EntryKind.retract ∨ x.kind = some EntryKind.recallVictim then w1.wakeRoom else w1
  w2.wakeNoted e

/-- The table reports the end of entry `e`'s transaction: to the recall unit, the leave walker and the ports (R57). -/
def State.reportClose (s : State) (e : EntryIdx) : State :=
  let x := s.entry e
  let s1 := { s with
    recallUnit := { s.recallUnit with
      inFlight := inFlightAfter x.kind s.recallUnit.inFlight
      serves := if x.kind = some EntryKind.recallVictim then s.recallUnit.serves.set e.val none else s.recallUnit.serves }
    leave := s.leave.afterClose x e }
  s1.leaveSnapshots e

/-- The table announces entry `e` FREE (R49): to the ports, the leave walker and the service port. -/
def State.announceFree (s : State) (e : EntryIdx) : State :=
  let s1 := s.leaveSnapshots e
  { s1 with
    leave := (s1.leave.wakeRoom).wakeNoted e
    svc := if s1.svc.waiting = .freeEntry then { s1.svc with waiting := .claim } else s1.svc }

/-- Entry `e` becomes FREE: the bound field of its record in set `k` is cleared, the count falls (R60). -/
def State.releaseEntry (s : State) (k : SetIdx) (e : EntryIdx) : State :=
  let s1 := s.updSet k fun d => d.dropBound e
  ((s1.setEntry e (Entry.freeOf (s1.entry e).gen)).pauseDown).announceFree e

/-- Entry `e` enters or stays in RELEASING; its transaction is over (R60; log 10). -/
def State.enterReleasing (s : State) (e : EntryIdx) : State :=
  s.updEntry e fun x => { x with
    phase := .releasing, requester := .none, target := none, closePending := false, doneTimer := none
    slotClaim := false, repairRound := false }

/-- Entry `e` handed on to the waiter at the front of its list (R62). -/
def State.handTo (s : State) (e : EntryIdx) (i : PoolIdx) (rest : List PoolIdx) (who : Party)
    (kind : EntryKind) (req : EntryRequest) : State :=
  let x := s.entry e
  (s.setWaiter i none).setEntry e
    { Entry.begin x.gen (x.line.getD 0) x.way kind who (some req) rest with line := x.line }

/-- The hand-on step of entry `e`, whose line lies in set `k` (R60). -/
def State.handOn (s : State) (k : SetIdx) (e : EntryIdx) : State :=
  match (s.entry e).waiters with
  | [] => s.releaseEntry k e
  | i :: rest =>
    match s.waiter i with
    | some (.request r) =>
      if r.kind.needsGrant then s.handTo e i rest (.agent r.port) .request (.agent r.kind r.tag r.fullWrite)
      else s.enterReleasing e
    | some (.recallLine _) =>
      let s1 := s.handTo e i rest .service .service .recallLine
      { s1 with svc := { s1.svc with waiting := .entry e } }
    | some (.clearPoison _) => s.enterReleasing e
    | none => s.enterReleasing e

/-- A POISON_CREATED report written by entry `e`'s transaction (R155). -/
def State.reportPoison (s : State) (k : SetIdx) (w : Way) (l : Line) (a : Option Agent) (n : Option Txn) : State :=
  s.report { kind := .poisonCreated, line := some l, set := some k, way := some w, agent := a, txn := n }

/-- The one holder of an OWNED record. -/
def Record.owner (r : Record) : Option Agent := lowestAgent r.holders

/-- The close filter on the record of slot (`k`, `w`) (R58): fenced agents leave the holder set. -/
def State.filterRecord (s : State) (k : SetIdx) (w : Way) (r : Record) (n : Txn) : State :=
  match r.state with
  | .shared =>
    let h := r.holders &&& ~~~s.fencedSet
    if h = 0 then s.freeOrPoison k w r else s.writeRec k w { r with holders := h }
  | .owned =>
    match r.owner with
    | some a =>
      if has s.fencedSet a then (s.writePoisoned k w r).reportPoison k w (lineOf k r.tag) (some a) (some n) else s
    | none => s
  | .poisoned => s
  | .damaged => s

/-- The close filter on the record of entry `e`'s line, if it has one (R58, R59). -/
def State.closeFilter (s : State) (k : SetIdx) (e : EntryIdx) : State :=
  match (s.dirSet k).findTag (tagOf (s.lineOfEntry e)) with
  | some w =>
    match (s.dirSet k).record w with
    | some r => s.filterRecord k w r (s.txn e)
    | none => s
  | none => s

/-- The close of entry `e` on set `k` (R57 to R60): the filter, the reservation naming it removed, the end of the
transaction reported, the hand-on step. -/
def State.closeEntry (s : State) (k : SetIdx) (e : EntryIdx) : State :=
  let s1 := (s.closeFilter k e).updSet k fun d => d.dropReservation e
  (s1.reportClose e).handOn k e

end Sys2Proof.Machine
end

