-- ==== Sys2Proof/Machine/Integrity.lean ====
section
/-! DEFINITION. The integrity unit (chapter 7): what every access does before and after its claimant's outcome. -/

namespace Sys2Proof.Machine

/-- What the checks of an access have done so far (R131 to R136): the state, the ways with a word in error, the ways
whose tag was rebuilt (R135), and whether the access set the LOST mark (R136). -/
structure Checked where
  s : State
  errs : List Way
  rebuilt : List Way
  marked : Bool

/-- A word of the set takes the condition in which the access finds it (R131, log 3). -/
def Slot.strike (x : Slot) (c : CellFault) : Slot :=
  match c.word with
  | .tag => { x with tagEcc := c.cond }
  | .holder => { x with holderEcc := c.cond }

/-- The storage errors that an access meets. -/
def State.strike (s : State) (k : SetIdx) (f : List CellFault) : State :=
  f.foldl (fun s c => s.updSet k fun d => d.setSlot c.way ((d.slot c.way).strike c)) s

/-- The number of words of a slot in error (R131). -/
def Slot.errors (x : Slot) : Nat := (if x.tagEcc = .good then 0 else 1) + (if x.holderEcc = .good then 0 else 1)

/-- The slot's health count after its words' errors, stopping at 15 (R131). -/
def Slot.worn (x : Slot) : Slot := { x with health := min Config.healthMax (x.health + x.errors) }

/-- Slot (`k`, `w`) replaced. -/
def State.setSlot (s : State) (k : SetIdx) (w : Way) (x : Slot) : State := s.updSet k fun d => d.setSlot w x

/-- The damage mark of a slot set: the count of DAMAGED records rises if the mark was clear, and the damage fence mark
is set when some port is FENCED (R134). -/
def State.markDamage (s : State) (k : SetIdx) (w : Way) : State :=
  let n := if (s.slot k w).damageMark then s.integ.damaged else s.integ.damaged + 1
  let s1 := s.setSlot k w { s.slot k w with damageMark := true }
  { s1 with integ := { s1.integ with damaged := n, fenceMark := s1.integ.fenceMark || s.anyFenced } }

/-- The damage mark of a slot cleared: the count falls if the mark was set, and the damage fence mark is cleared when
it falls to 0 (R134). -/
def State.endDamage (s : State) (k : SetIdx) (w : Way) : State :=
  if (s.slot k w).damageMark then
    let n := s.integ.damaged - 1
    let s1 := s.setSlot k w { s.slot k w with damageMark := false }
    { s1 with integ := { s1.integ with damaged := n, fenceMark := s1.integ.fenceMark && decide (n ≠ 0) } }
  else s

/-- CORRECTED for a word of a slot (R131, R132); the line when the slot holds a record. -/
def State.reportCorrected (s : State) (k : SetIdx) (w : Way) (sel : WordSel) : State :=
  s.report { kind := .corrected, set := some k, way := some w, word := some sel,
             line := (s.slot k w).content.map fun r => lineOf k r.tag }

/-- The record of a slot written DAMAGED: holder word empty, both words good (R5, R133, R135). -/
def State.writeDamaged (s : State) (k : SetIdx) (w : Way) (t : Tag) (poison : Bool) (sel : WordSel)
    (n : Option Txn) : State :=
  let s1 := s.setSlot k w ((s.slot k w).write (some ⟨t, .damaged, 0, poison⟩))
  (s1.markDamage k w).report
    { kind := .holderUncorrectable, line := some (lineOf k t), set := some k, way := some w, word := some sel, txn := n }

/-- A slot marked RETIRED and reported (R8, R136, R142): free, no reservation, out of the order. -/
def State.withdrawSlot (s : State) (k : SetIdx) (w : Way) (m : ServiceMark) : State :=
  s.updSet k fun d => d.withdraw w m

/-- The SLOT_RETIRED or RETIRE_DENIED report of a slot (R155). -/
def State.slotReport (s : State) (kind : ErrKind) (k : SetIdx) (w : Way) : Report :=
  { kind := kind, set := some k, way := some w, count := some (s.slot k w).health }

/-- An uncorrectable tag word in an unbound slot withdraws it (R136). That it leaves the retire list in HALTED too is
log 38. -/
def Checked.withdraw (c : Checked) (k : SetIdx) (w : Way) : Checked :=
  let d := c.s.dirSet k
  let reserved := (d.slot w).reservation.isSome
  let room := d.mapHasRoom
  let s1 := (c.s.endDamage k w).withdrawSlot k w (if room then .retired else .quarantined)
  let s2 := { s1 with integ := { s1.integ with
    retireList := s1.integ.retireList.filter fun i => !(decide (i.set = k) && decide (i.way = w)) } }
  let s3 := if reserved then s2 else s2.updSet k fun d => { d with lost := true }
  let s4 := s3.report { kind := .tagUncorrectable, set := some k, way := some w, word := some .tag }
  let s5 := if room then s4.report (s4.slotReport .slotRetired k w) else s4
  { c with s := s5, errs := c.errs ++ [w], marked := c.marked || !reserved }

/-- The line that the bound entry of a slot carries (R135). -/
def State.boundLine (s : State) (k : SetIdx) (w : Way) : Option (EntryIdx × Line) :=
  match (s.slot k w).bound with
  | some e => (s.entry e).line.map fun l => (e, l)
  | none => none

/-- An error in a holder word that carries no information: rewritten empty, CORRECTED (R132). -/
def State.rewriteHolder (s : State) (k : SetIdx) (w : Way) : State :=
  (s.setSlot k w { s.slot k w with holderEcc := .good }).reportCorrected k w .holder

/-- The holder word of a slot whose tag word reads good, found in condition `h` (R131 to R133). -/
def State.checkHolder (s : State) (k : SetIdx) (w : Way) (h : WordCond) : State :=
  match h with
  | .good => s
  | .single => s.rewriteHolder k w
  | .uncorrectable =>
    match (s.slot k w).content with
    | none => s.rewriteHolder k w
    | some r =>
      if r.state = .damaged then s.rewriteHolder k w
      else s.writeDamaged k w r.tag r.poison .holder ((s.slot k w).bound.map s.txn)

/-- The checks of one slot of set `k` (R131 to R136). That CORRECTED for a holder word beside a rebuilt tag word carries the
line is log 12. -/
def Checked.slot (k : SetIdx) (c : Checked) (w : Way) : Checked :=
  let x := c.s.slot k w
  if x.mark ≠ .inService ∨ x.errors = 0 then c
  else
    let s1 := c.s.setSlot k w x.worn
    match x.tagEcc with
    | .good => { c with s := s1.checkHolder k w x.holderEcc, errs := c.errs ++ [w] }
    | .single =>
      let s2 := (s1.setSlot k w { s1.slot k w with tagEcc := .good }).reportCorrected k w .tag
      { c with s := s2.checkHolder k w x.holderEcc, errs := c.errs ++ [w] }
    | .uncorrectable =>
      match c.s.boundLine k w with
      | some (e, l) =>
        let s2 := s1.writeDamaged k w (tagOf l) true .tag (some (s1.txn e))
        let s3 := if x.holderEcc = .good then s2 else s2.reportCorrected k w .holder
        { c with s := s3, errs := c.errs ++ [w], rebuilt := c.rebuilt ++ [w] }
      | none => { c with s := s1 }.withdraw k w

/-- The checks of an access on set `k`: the slots from way 0 to way 15 (R131, R152). -/
def State.check (s : State) (k : SetIdx) : Checked := allWays.foldl (Checked.slot k) ⟨s, [], [], false⟩

/-! ### Retirement (section 7.5) -/

/-- The slot is on the retire list (R142). -/
def State.onRetireList (s : State) (k : SetIdx) (w : Way) : Bool :=
  s.integ.retireList.any fun i => decide (i.set = k) && decide (i.way = w)

/-- The slot is held by a RETIRE transaction (R142). -/
def State.heldByRetire (s : State) (k : SetIdx) (w : Way) : Bool :=
  allEntries.any fun e =>
    let x := s.entry e
    x.inUse && decide (x.phase ≠ .releasing) && decide (x.kind = some .retire) && decide (x.way = some w)
      && decide (x.line.map setOf = some k)

/-- A slot with a word in error is considered for retirement (R142). -/
def State.considered (s : State) (k : SetIdx) (w : Way) : Bool :=
  let x := s.slot k w
  decide (s.cfg.retireTh ≠ 0) && decide (x.mark = .inService) && decide (s.cfg.retireTh ≤ x.health)
    && !s.onRetireList k w && !s.recallUnit.queue.contains (.retire k w) && !s.heldByRetire k w

/-- A free slot marked RETIRED, or denied when the map is full; with the report for later (R142, R143). -/
def State.retireFree (s : State) (k : SetIdx) (w : Way) : State × Report :=
  if (s.dirSet k).mapHasRoom then (s.withdrawSlot k w .retired, s.slotReport .slotRetired k w)
  else (s, s.slotReport .retireDenied k w)

/-- A slot joins the retire list, unless it is on it or the list is full (R143). -/
def State.joinRetireList (s : State) (k : SetIdx) (w : Way) (st : RetireStatus) : State :=
  if s.onRetireList k w ∨ Config.retireItems ≤ s.integ.retireList.length then s
  else { s with integ := { s.integ with retireList := s.integ.retireList ++ [⟨k, w, st⟩] } }

/-- A slot leaves the retire list (R143). -/
def State.leaveRetireList (s : State) (k : SetIdx) (w : Way) : State :=
  { s with integ := { s.integ with
    retireList := s.integ.retireList.filter fun i => !(decide (i.set = k) && decide (i.way = w)) } }

/-- The status of a retire list item written (R143). -/
def State.setRetireStatus (s : State) (k : SetIdx) (w : Way) (st : RetireStatus) : State :=
  { s with integ := { s.integ with
    retireList := s.integ.retireList.map fun i => if i.set = k ∧ i.way = w then { i with status := st } else i } }

/-- The record of slot (`k`, `w`) moved to the lowest usable free slot `v` (R146). -/
def State.moveRecord (s : State) (k : SetIdx) (w v : Way) : State :=
  let s1 := match (s.slot k w).bound with
    | some e => s.updEntry e fun x => { x with way := some v }
    | none => s
  (s1.updSet k fun d => d.move w v).report (s.slotReport .slotRetired k w)

/-- Where a poisoned record may be moved: the map has room and a free unreserved slot is there (R146). -/
def DirSet.moveTarget (d : DirSet) : Option Way := if d.mapHasRoom then d.moveWay else none

/-- A record whose retirement takes a RETIRE transaction: poison clear, or DAMAGED (R142, R143). -/
def Record.retireByProbe (r : Record) : Bool := !r.poison || decide (r.state = .damaged)

/-- A considered slot judged against the set as the claimant left it (R142); `wants` collects the ways that need a
RETIRE start. -/
def State.judgeSlot (k : SetIdx) (acc : State × List Way) (w : Way) : State × List Way :=
  let s := acc.1
  let x := s.slot k w
  if x.mark ≠ .inService then acc
  else if !(s.dirSet k).mapHasRoom then (s.report (s.slotReport .retireDenied k w), acc.2)
  else
    match x.content with
    | none => let y := s.retireFree k w; (y.1.report y.2, acc.2)
    | some r =>
      if x.bound.isSome then (s.joinRetireList k w .waitUnbind, acc.2)
      else if r.retireByProbe then (s, acc.2 ++ [w])
      else
        match (s.dirSet k).moveTarget with
        | some v => (s.moveRecord k w v, acc.2)
        | none => (s.joinRetireList k w .waitRoom, acc.2)

/-- One item of the retire list examined (R143). -/
def State.examineSlot (k : SetIdx) (acc : State × List Way) (w : Way) : State × List Way :=
  let s := acc.1
  if !s.onRetireList k w then acc
  else
    let x := s.slot k w
    if x.mark ≠ .inService then (s.leaveRetireList k w, acc.2)
    else
      match x.content with
      | none => let y := s.retireFree k w; ((y.1.report y.2).leaveRetireList k w, acc.2)
      | some r =>
        if x.bound.isSome then (s.setRetireStatus k w .waitUnbind, acc.2)
        else if r.retireByProbe then (s, acc.2 ++ [w])
        else
          match (s.dirSet k).moveTarget with
          | some v => ((s.moveRecord k w v).leaveRetireList k w, acc.2)
          | none =>
            let s1 := if (s.dirSet k).mapHasRoom then s else s.report (s.slotReport .retireDenied k w)
            (s1.setRetireStatus k w .waitRoom, acc.2)

/-- The record of slot (`k`, `w`) is DAMAGED and unbound: a REPAIR start is wanted (R138). -/
def State.wantsRepair (s : State) (k : SetIdx) (w : Way) : Option StartItem :=
  let x := s.slot k w
  match x.content with
  | some r => if r.state = .damaged ∧ x.bound = none then some (.repair k r.tag) else none
  | none => none

/-- The start items of one way: a REPAIR start before a RETIRE start (R89). -/
def State.startsOf (s : State) (k : SetIdx) (retire : List Way) (w : Way) : List StartItem :=
  (s.wantsRepair k w).toList ++ if retire.contains w then [.retire k w] else []

/-- The slots whose RETIRE start stands in the queue leave the retire list (R143). -/
def State.dropQueued (k : SetIdx) (s : State) (w : Way) : State :=
  if s.recallUnit.queue.contains (.retire k w) then s.leaveRetireList k w else s

/-- The end of an access in RUN, after the claimant's writes (R138, R142, R143): the considered slots are judged, the
retire list is examined, and the start items wanted join the queue as one group (R89). -/
def State.endOfAccess (s : State) (k : SetIdx) (judge : List Way) : State :=
  let a := judge.foldl (State.judgeSlot k) (s, [])
  let b := allWays.foldl (State.examineSlot k) a
  let s1 := b.1.queueStarts (allWays.flatMap (b.1.startsOf k b.2))
  b.2.foldl (State.dropQueued k) s1

/-! ### The beginning of an access -/

/-- What the claimant's outcome starts from: the state as the checks leave it, the occupied slots to be judged for
retirement, the reports of free slots retired (which come last, R152), the ways rebuilt, and whether the access set the
LOST mark. -/
structure Access where
  s : State
  judge : List Way
  late : List Report
  rebuilt : List Way
  marked : Bool

/-- One slot in error, after the checks, in RUN: a free slot is retired before the claimant's outcome, an occupied one
is judged after it (R142). -/
def Access.consider (k : SetIdx) (a : Access) (w : Way) : Access :=
  if a.s.considered k w then
    match (a.s.slot k w).content with
    | none => let y := a.s.retireFree k w; { a with s := y.1, late := a.late ++ [y.2] }
    | some _ => { a with judge := a.judge ++ [w] }
  else a

/-- The beginning of an access on set `k` (R11, R131, R142, R149): storage errors met, words checked, and in RUN the
free failing slots retired. -/
def State.beginAccess (s : State) (k : SetIdx) (f : List CellFault) : Access :=
  let c := (s.strike k f).check k
  let a : Access := ⟨c.s, [], [], c.rebuilt, c.marked⟩
  if s.part = .run then c.errs.foldl (Access.consider k) a else a

/-- An access on set `k` (R11): its beginning, the claimant's outcome, and in RUN its end. -/
def State.access (s : State) (k : SetIdx) (f : List CellFault) (outcome : Access → State) : State :=
  let a := s.beginAccess k f
  let s1 := outcome a
  if s.part = .run then ({ s1 with reports := s1.reports ++ a.late }).endOfAccess k a.judge else s1

end Sys2Proof.Machine
end

