-- ==== Sys2Proof/Machine/Reports.lean ====
section
/-! DEFINITION. The error reporting unit (chapter 8): counting, masking, capture, the two outputs, and the entry to
HALTED. -/

namespace Sys2Proof.Machine

/-- The mask of a kind (R151). -/
def ErrorUnit.mask (u : ErrorUnit) (k : ErrKind) : Bool := u.masks.get (kindIdx k)

/-- The routing of a kind (R151). -/
def ErrorUnit.routing (u : ErrorUnit) (k : ErrKind) : Routing := u.routings.get (kindIdx k)

/-- The counter of a kind (R153). -/
def ErrorUnit.counter (u : ErrorUnit) (k : ErrKind) : Nat := u.counters.get (kindIdx k)

/-- The capture of a class. -/
def ErrorUnit.capture (u : ErrorUnit) : ErrClass → Capture
  | .fatal => u.fatal
  | .nonfatal => u.nonfatal

/-- The unit with the capture of a class replaced. -/
def ErrorUnit.setCapture (u : ErrorUnit) (c : ErrClass) (x : Capture) : ErrorUnit :=
  match c with
  | .fatal => { u with fatal := x }
  | .nonfatal => { u with nonfatal := x }

/-- An unmasked report reaches a capture: it fills the empty first-error record, or joins the later-kinds set
(R155, R156). -/
def Capture.take (c : Capture) (r : Report) : Capture :=
  match c.first with
  | none => { c with first := some r }
  | some _ => { c with later := addTo c.later (kindIdx r.kind) }

/-- A report counted (R153). -/
def ErrorUnit.count (u : ErrorUnit) (k : ErrKind) : ErrorUnit :=
  { u with counters := u.counters.set (kindIdx k).val (min Config.counterMax (u.counter k + 1)) }

/-- A report reaches the unit: counted, and captured unless its kind is masked (R153, R154). -/
def ErrorUnit.absorb (u : ErrorUnit) (r : Report) : ErrorUnit :=
  let v := u.count r.kind
  if v.mask r.kind then v else v.setCapture (classOf r.kind) ((v.capture (classOf r.kind)).take r)

/-- Some kind that stands in the capture satisfies `f`. -/
def Capture.holdsKind (c : Capture) (f : ErrKind → Bool) : Bool :=
  (match c.first with
    | some r => f r.kind
    | none => false) || allKinds.any fun k => has c.later (kindIdx k) && f k

/-- Some kind that stands in either class satisfies `f`. -/
def ErrorUnit.holdsKind (u : ErrorUnit) (f : ErrKind → Bool) : Bool :=
  u.fatal.holdsKind f || u.nonfatal.holdsKind f

/-- NOTICE_N is to be asserted (R157). -/
def ErrorUnit.noticeLevel (u : ErrorUnit) : Bool := u.holdsKind fun k => decide (u.routing k = .notice)

/-- FAULT_N is to be asserted by the capture (R158). -/
def ErrorUnit.faultLevel (u : ErrorUnit) : Bool :=
  u.holdsKind fun k => decide (u.routing k = .fault) || decide (u.routing k = .halt)

/-- Both outputs evaluated from the capture, the routings and the part state (R157, R158). -/
def State.evalOutputs (s : State) : State :=
  { s with err := { s.err with
      notice := s.err.noticeLevel
      fault := decide (s.part = .halted) || s.err.faultLevel } }

/-- The report would halt the part, were it in RUN: its kind is unmasked and routed HALT (R161). -/
def ErrorUnit.halts (u : ErrorUnit) (r : Report) : Bool := !u.mask r.kind && decide (u.routing r.kind = .halt)

/-- The kind of the first report of the event that halts the part (R161). -/
def State.haltingKind (s : State) : Option ErrKind :=
  if s.part = .run then (s.reports.find? s.err.halts).map Report.kind else none

/-- The command whose code is the last taken is INSPECT or LOOKUP (R164). -/
def ServicePort.isReader (v : ServicePort) : Bool := decide (v.lastCode = 1) || decide (v.lastCode = 2)

/-- A BUSY command other than INSPECT and LOOKUP ends FAILED with HALTED; its claim is gone (R164). -/
def State.haltCommand (s : State) : State :=
  if s.svc.status = .busy ∧ !s.svc.isReader then
    { s with svc := { s.svc with status := .failed .halted, waiting := .nowhere }, claims := s.claims.erase .service }
  else s

/-- The entry to HALTED (R161, R163, R164). -/
def State.enterHalted (s : State) (k : ErrKind) : State :=
  { s with part := .halted, err := { s.err with haltKind := some k } }.haltCommand

/-- The reports of the event reach the unit one after another; the part halts if one of them halts it, after the event
has completed whole; the outputs are evaluated (R152, R157, R158, R161). -/
def State.takeReports (s : State) : State :=
  let halting := s.haltingKind
  let s1 := { s with err := s.reports.foldl ErrorUnit.absorb s.err }
  let s2 := match halting with
    | some k => s1.enterHalted k
    | none => s1
  s2.evalOutputs

end Sys2Proof.Machine
end

