-- ==== Sys2Proof/Machine/Settle.lean ====
section
/-! DEFINITION. The array arbiter (section 1.5): which claims the blocks raise, which one it grants, which access that
is, and how every event ends. -/

namespace Sys2Proof.Machine

/-! ### What the blocks want -/

/-- The accesses of a transaction of this kind are class 1 (R46). -/
def EntryKind.classOne : EntryKind → Bool
  | .request | .service | .retract => true
  | .recallVictim | .retire | .repair => false

/-- The probe round of an entry is settled (R28, R54). -/
def Entry.settled (x : Entry) : Bool := decide (x.phase = .probing) && decide (x.pendingSet = 0)

/-- The entry's transaction makes its accesses in class 1 (R46). -/
def Entry.classOne (x : Entry) : Bool :=
  match x.kind with
  | some k => k.classOne
  | none => false

/-- The entry raises a class 1 claim (R53 to R55, R60, R97). -/
def Entry.wantsAccess (x : Entry) : Bool :=
  match x.phase with
  | .free => false
  | .lookup => true
  | .probing => x.settled && x.classOne
  | .awaitSlot => x.slotClaim
  | .awaitDone => x.closePending
  | .releasing => true

/-- The item may start (R91): a start item at any time, a parked item while the count is below RECALL_BUDGET. -/
def State.mayStart (s : State) : StartItem → Bool
  | .parked _ => decide (s.recallUnit.inFlight < s.cfg.recallBudget)
  | .retire _ _ => true
  | .repair _ _ => true

/-- The first item in queue order that may start (R91). -/
def State.firstStart (s : State) : Option StartItem := s.recallUnit.queue.find? s.mayStart

/-- A class 2 entry whose round is settled and that is not listed yet (R91). -/
def State.unlisted (s : State) (e : EntryIdx) : Bool :=
  (s.entry e).settled && !(s.entry e).classOne && !s.recallUnit.accesses.contains e

/-- The settled class 2 entries join the list of pending accesses, the lower index first (R91). -/
def State.listAccesses (s : State) : State :=
  { s with recallUnit := { s.recallUnit with
    accesses := s.recallUnit.accesses ++ allEntries.filter s.unlisted } }

/-- The recall unit raises its claim (R91). -/
def State.wantsRecall (s : State) : Bool :=
  !s.recallUnit.accesses.isEmpty || (s.firstStart.isSome && s.freeEntry.isSome)

/-- The purge walker has a member (R119). -/
def State.wantsPurge (s : State) : Bool := allAgents.any fun a => (s.purge.starts.get a).isSome

/-- The leave walker serves a port and does not wait (R125). -/
def State.wantsLeave (s : State) : Bool :=
  s.leave.port.isSome && !s.leave.complete && decide (s.leave.wait = .ready)

/-- The block of this claim has work for the array, in RUN. -/
def State.wants (s : State) : Claim → Bool
  | .entry e => (s.entry e).wantsAccess
  | .recallUnit => s.wantsRecall
  | .service => decide (s.svc.waiting = .claim)
  | .purge => s.wantsPurge
  | .leave => s.wantsLeave
  | .intake => !s.pause && !s.intake.isEmpty
  | .scrub => s.integ.scrubClaim.isSome

/-- Every claim, in the order in which claims of one event are taken (R17). -/
def allClaims : List Claim := allEntries.map Claim.entry ++ [.recallUnit, .service, .purge, .leave, .intake, .scrub]

/-- Claims no longer wanted are withdrawn, new ones join behind those that wait (R17). -/
def State.refreshClaims (s : State) : State :=
  { s with claims := s.claims.filter s.wants ++ allClaims.filter fun c => s.wants c && !s.claims.contains c }

/-- In HALTED only the service port's claim is raised and taken (R18, R163). -/
def State.refreshService (s : State) : State :=
  if s.svc.waiting = .claim then
    if s.claims.contains .service then s else { s with claims := s.claims ++ [.service] }
  else { s with claims := s.claims.erase .service }

/-! ### The end of an event -/

/-- What every event in RUN leaves done: LEAVEs at the head taken, a finished departure answered, the next walk begun,
probes sent, pending accesses listed, claims raised (R112, R124, R127, R72, R91, R17). That the PROBEs go out last, behind
the event's other messages, is log 35. -/
def State.settleRun (s : State) : State :=
  ((((State.takeLeaves s.intake.length s).sendLeaveDone).enterWalk).pump).listAccesses.refreshClaims

/-- The state at the end of an event, by the part state. -/
def State.settle (s : State) : State :=
  match s.part with
  | .run => s.settleRun
  | .halted => s.refreshService
  | .init => { s with claims := [] }

/-- The end of an event: the blocks settle, then its reports reach the error reporting unit (R152, R161). -/
def State.finish (s : State) : State := s.settle.takeReports

/-! ### The grant -/

/-- The preference class of a claim (R16). -/
def Claim.rank : Claim → Nat
  | .entry _ => 1
  | .recallUnit => 2
  | .service => 3
  | .purge => 4
  | .leave => 4
  | .intake => 5
  | .scrub => 6

/-- The claim of the most preferred class that has waited longest (R16, R17). -/
def bestClaim : List Claim → Option Claim
  | [] => none
  | c :: rest =>
    match bestClaim rest with
    | none => some c
    | some d => if c.rank ≤ d.rank then some c else some d

/-- A scrub claim has waited longer than SCRUB_STARVE (R19). -/
def State.scrubOverdue (s : State) : Bool :=
  match s.integ.scrubClaim with
  | some t => decide (s.cfg.scrubStarve < t)
  | none => false

/-- The claim to which the arbiter gives the array (R16 to R19). -/
def State.granted (s : State) : Option Claim :=
  match s.part with
  | .init => none
  | .run => if s.scrubOverdue then some .scrub else bestClaim s.claims
  | .halted => if s.claims.contains .service ∧ s.svc.isReader then some .service else none

/-- The access that comes next, with what it works on. -/
inductive Due where
  | intake (r : Request)
  | resolution (e : EntryIdx)
  | parked (e : EntryIdx)
  | close (e : EntryIdx)
  | handedOn (e : EntryIdx)
  | releasing (e : EntryIdx)
  | serviceResolution (e : EntryIdx)
  | retractResolution (e : EntryIdx)
  | repairResolution (e : EntryIdx)
  | recallResolution (e : EntryIdx)
  | retireResolution (e : EntryIdx)
  | recallStart (e : EntryIdx)
  | retireStart (k : SetIdx) (w : Way)
  | repairStart (k : SetIdx) (t : Tag)
  | service (code : BitVec 8)
  | purge
  | leave (p : Agent)
  | scrub
  deriving DecidableEq, Repr

/-- The access of an entry whose probe round is settled (R54, R140). -/
def Entry.resolutionDue (x : Entry) (e : EntryIdx) : Option Due :=
  if x.repairRound then some (.repairResolution e)
  else
    match x.kind with
    | some .request => some (.resolution e)
    | some .service => some (.serviceResolution e)
    | some .retract => some (.retractResolution e)
    | some .recallVictim => some (.recallResolution e)
    | some .retire => some (.retireResolution e)
    | some .repair => some (.repairResolution e)
    | none => none

/-- The access of an entry's class 1 claim, by its phase (R47). -/
def Entry.due (x : Entry) (e : EntryIdx) : Option Due :=
  match x.phase with
  | .free => none
  | .lookup => some (.handedOn e)
  | .probing => x.resolutionDue e
  | .awaitSlot => some (.parked e)
  | .awaitDone => some (.close e)
  | .releasing => some (.releasing e)

/-- The start access of an item (R91, R99). -/
def StartItem.due : StartItem → Due
  | .parked e => .recallStart e
  | .retire k w => .retireStart k w
  | .repair k t => .repairStart k t

/-- The access of the recall unit's claim: the front pending access, else the first start (R91). -/
def State.recallDue (s : State) : Option Due :=
  match s.recallUnit.accesses with
  | e :: _ => (s.entry e).resolutionDue e
  | [] => s.firstStart.map StartItem.due

/-- The access that the arbiter hands out next (R16). -/
def State.due (s : State) : Option Due :=
  match s.granted with
  | none => none
  | some (.entry e) => (s.entry e).due e
  | some .recallUnit => s.recallDue
  | some .service => some (.service s.svc.lastCode)
  | some .purge => some .purge
  | some .leave => s.leave.port.map Due.leave
  | some .intake => s.intake.head?.map Due.intake
  | some .scrub => some .scrub

/-- The start of an access: the granted claim is taken (R17). -/
def State.takeClaim (s : State) : State :=
  match s.granted with
  | some c => { s.clearOutputs with claims := s.claims.erase c }
  | none => s.clearOutputs

/-- A whole access event on set `k` for the granted claim (R11). -/
def State.serve (s : State) (k : SetIdx) (f : List CellFault) (outcome : Access → State) : State :=
  (s.takeClaim.access k f outcome).finish

end Sys2Proof.Machine
end

