-- ==== Sys2Proof/Machine/Grants.lean ====
section
/-! DEFINITION. The outcome tables of requests and notices (sections 2.5 and 2.6), the resolution of a grant, and the
deciding of a request that holds an entry. -/

namespace Sys2Proof.Machine

/-! ### The probes of a request (R29, R30, R32) -/

/-- The probe round that agent `a`'s request of kind `k` needs on record `r`, if any (R29, R30, R32). -/
def probesNeeded (k : ReqKind) (a : Agent) (r : Record) : Option (ProbeKind × AgentSet) :=
  match r.state with
  | .shared =>
    match k with
    | .rdShared => none
    | .rdOwn | .upgrade | .writeback | .drop | .leave =>
      if without r.holders a = 0 then none else some (.invalidate, without r.holders a)
  | .owned =>
    if r.holders = only a then none
    else some (match k with
      | .rdShared => .downgrade
      | .rdOwn | .upgrade | .writeback | .drop | .leave => .invalidate, r.holders)
  | .poisoned => none
  | .damaged => none

/-! ### The grant of a request (R29 to R33) -/

/-- What a resolution gives: the record as written, the grant, and what it reports. -/
structure Grant where
  record : Record
  kind : GrantKind
  reread : Bool
  rerequest : Bool
  lostOwner : Option Agent
  deriving DecidableEq, Repr

/-- The owner of an OWNED record whose answer is fence GONE (R28, R96). -/
def Record.lostOwner (r : Record) (x : Entry) : Option Agent :=
  match r.state with
  | .owned => r.owner.filter x.fenceGoneOf
  | .shared => none
  | .poisoned => none
  | .damaged => none

/-- The owner answered CLEAN or WRITTEN, so it keeps a read copy after a DOWNGRADE (R29). -/
def Entry.keepsCopy (x : Entry) (a : Agent) : Bool :=
  decide (x.answers.get a = some .clean) || decide (x.answers.get a = some .written)

/-- RD_SHARED of agent `a` on the record `r` (R29, R31). A DAMAGED record is repaired before it reaches a table (R27). -/
def grantShared (a : Agent) (r : Record) (x : Entry) : Grant :=
  match r.state with
  | .shared => ⟨{ r with holders := addTo r.holders a }, .shared, true, false, none⟩
  | .owned =>
    if r.holders = only a then ⟨r, .own, false, true, none⟩
    else
      ⟨⟨r.tag, .shared, addTo (agentSet fun o => has r.holders o && x.keepsCopy o) a,
        r.poison || (r.lostOwner x).isSome⟩, .shared, true, false, r.lostOwner x⟩
  | .poisoned => ⟨⟨r.tag, .shared, only a, true⟩, .shared, true, false, none⟩
  | .damaged => ⟨{ r with state := .shared, holders := only a }, .shared, true, false, none⟩

/-- RD_OWN of agent `a`, with its full-write flag, on the record `r` (R30 to R32). -/
def grantOwn (a : Agent) (full : Bool) (r : Record) (x : Entry) : Grant :=
  if r.state = .owned ∧ r.holders = only a then ⟨r, .own, false, true, none⟩
  else
    let lost := if full then none else r.lostOwner x
    ⟨⟨r.tag, .owned, only a, !full && (r.poison || lost.isSome)⟩, .own, !full, false, lost⟩

/-- UPGRADE of agent `a` on the record `r` (R32): a holder need not read again. -/
def grantUpgrade (a : Agent) (r : Record) (x : Entry) : Grant :=
  let g := grantOwn a false r x
  if r.state = .shared ∧ has r.holders a then { g with reread := false } else g

/-- A request on a line with a record (R29 to R32). -/
def grantOn (k : ReqKind) (a : Agent) (full : Bool) (r : Record) (x : Entry) : Grant :=
  match k with
  | .rdShared => grantShared a r x
  | .rdOwn => grantOwn a full r x
  | .upgrade | .writeback | .drop | .leave => grantUpgrade a r x

/-- A request on an absent line (R29, R30, R32): the record allocated, poison no. -/
def grantNew (k : ReqKind) (a : Agent) (full : Bool) (t : Tag) : Grant :=
  match k with
  | .rdShared => ⟨⟨t, .shared, only a, false⟩, .shared, true, false, none⟩
  | .rdOwn => ⟨⟨t, .owned, only a, false⟩, .own, !full, false, none⟩
  | .upgrade | .writeback | .drop | .leave => ⟨⟨t, .owned, only a, false⟩, .own, true, false, none⟩

/-! ### The resolution (R34, R35) -/

/-- The OWNER_REREQUEST report (R155). -/
def State.rerequestReport (s : State) (k : SetIdx) (w : Way) (e : EntryIdx) (r : Request) : Report :=
  { kind := .ownerRerequest, agent := some r.port, line := some r.line, set := some k, way := some w
    txn := some (s.txn e), msg := some r.kind.code }

/-- The reports of a grant's resolution (R28, R31). -/
def State.grantReports (s : State) (k : SetIdx) (w : Way) (e : EntryIdx) (r : Request) (g : Grant) : State :=
  let s1 := if g.rerequest then s.report (s.rerequestReport k w e r) else s
  match g.lostOwner with
  | some o => s1.reportPoison k w r.line (some o) (some (s.txn e))
  | none => s1

/-- The end of a resolution: GRANT is sent and the entry awaits DONE, or the requester is FENCED and the access is the
close (R34, R35, R55). -/
def State.finishGrant (s : State) (k : SetIdx) (e : EntryIdx) (r : Request) (g : Grant) : State :=
  if s.fenced r.port then s.closeEntry k e
  else
    let s1 := s.updEntry e fun x => { x with
      phase := .awaitDone, grantSent := some g.kind, closePending := false, slotClaim := false, repairRound := false
      doneTimer := some (Config.doneStep * s.cfg.doneTmo) }
    s1.reply r.port r.tag (.grant r.tag r.line (s.txn e) g.kind g.reread g.record.poison)

/-- A grant resolved on the record at way `w` (R34): written in place, the way to the front. -/
def State.grantInPlace (s : State) (k : SetIdx) (w : Way) (e : EntryIdx) (r : Request) (g : Grant) : State :=
  let s1 := ((s.writeRec k w g.record).updSet k fun d => d.toFront w).bind k w e
  (s1.grantReports k w e r g).finishGrant k e r g

/-- A grant resolved on an absent line (R14, R33): allocated, or parked for want of a slot. `freed` is the slot that a
repair in this access has freed; `again` says the entry has parked before (R88). -/
def State.grantAbsent (s : State) (k : SetIdx) (e : EntryIdx) (r : Request) (freed : Option Way) (again : Bool) :
    State :=
  match (s.dirSet k).allocWay e freed with
  | some w =>
    let g := grantNew r.kind r.port r.fullWrite (tagOf r.line)
    (s.alloc k w g.record e).finishGrant k e r g
  | none => s.park e again

/-- The request that entry `e` carries, with its line, if an agent's (R45). -/
def State.requestOf (s : State) (e : EntryIdx) : Option Request :=
  match (s.entry e).requester, (s.entry e).request, (s.entry e).line with
  | .agent a, some (.agent k tag full), some l => some ⟨a, k, tag, l, full⟩
  | _, _, _ => none

/-- Entry `e`'s request resolved from the record as it stands and the answers received (R27, R34). -/
def State.resolve (s : State) (e : EntryIdx) (r : Request) (freed : Option Way) (again : Bool) : State :=
  let k := setOf r.line
  match s.findLine r.line with
  | some w =>
    match (s.dirSet k).record w with
    | some old => s.grantInPlace k w e r (grantOn r.kind r.port r.fullWrite old (s.entry e))
    | none => s
  | none => s.grantAbsent k e r freed again

/-- Entry `e`'s request decided by R27: repaired, probed, resolved or parked. -/
def State.decideRequest (s : State) (e : EntryIdx) (r : Request) (again : Bool) : State :=
  let k := setOf r.line
  match s.findLine r.line with
  | some w =>
    match (s.dirSet k).record w with
    | some old =>
      if old.state = .damaged then (s.bind k w e).startRepair e none
      else
        match probesNeeded r.kind r.port old with
        | some (kind, set) => (s.bind k w e).startRound e kind set false
        | none => s.resolve e r none again
    | none => s
  | none => s.resolve e r none again

/-- Entry `e`'s request at an access after a round or a recall: a DAMAGED record is repaired first (R54, R138). -/
def State.resolveHeld (s : State) (e : EntryIdx) (r : Request) (again : Bool) : State :=
  match s.findLine r.line with
  | some w =>
    match (s.dirSet (setOf r.line)).record w with
    | some old => if old.state = .damaged then s.startRepair e none else s.resolve e r none again
    | none => s
  | none => s.resolve e r none again

/-! ### Notices (R36 to R39) -/

/-- The record loses agent `a`: written in place, freed, or POISONED (R3, R38). -/
def State.removeHolder (s : State) (k : SetIdx) (w : Way) (r : Record) (a : Agent) : State :=
  if without r.holders a = 0 then s.freeOrPoison k w r
  else s.writeRec k w { r with holders := without r.holders a }

/-- The ACK of a notice (R36). -/
def State.ack (s : State) (r : Request) (stale : Bool) : State := s.reply r.port r.tag (.ack r.tag r.line stale)

/-- A notice decided on the record at way `w` (R37, R38, R39). -/
def State.noticeOn (s : State) (k : SetIdx) (w : Way) (old : Record) (r : Request) : State :=
  match old.state with
  | .shared =>
    if r.kind = .drop ∧ has old.holders r.port then (s.removeHolder k w old r.port).ack r false else s.ack r true
  | .owned => if old.holders = only r.port then (s.freeOrPoison k w old).ack r false else s.ack r true
  | .poisoned => s.ack r true
  | .damaged => s.ack r false

/-- A notice decided in an access on its line's set (R36): no record, ACK STALE. -/
def State.decideNotice (s : State) (r : Request) : State :=
  match s.findLine r.line with
  | some w =>
    match (s.dirSet (setOf r.line)).record w with
    | some old => s.noticeOn (setOf r.line) w old r
    | none => s.ack r true
  | none => s.ack r true

end Sys2Proof.Machine
end

