-- ==== Sys2Proof/Machine/Service.lean ====
section
/-! DEFINITION. The maintenance commands (sections 10.3 to 10.6): what a WRITE of the command register does, and the
accesses the commands make. -/

namespace Sys2Proof.Machine

/-! ### Completing a command (R181) -/

/-- The service port of the state changed by `f`. -/
def State.updSvc (s : State) (f : ServicePort → ServicePort) : State := { s with svc := f s.svc }

/-- The command completes DONE with this result (R181). -/
def State.complete (s : State) (r : Result) : State :=
  s.updSvc fun v => { v with status := .done, result := r, waiting := .nowhere }

/-- The command completes DONE with an outcome alone (R192). -/
def State.completeWith (s : State) (o : ResultOutcome) : State := s.complete { Result.clear with outcome := o }

/-- The command ends FAILED, its result registers clear (R181). -/
def State.fail (s : State) (why : FailReason) : State :=
  s.updSvc fun v => { v with status := .failed why, result := Result.clear, waiting := .nowhere }

/-- RECALL_LINE completes in an access of SERVICE entry `e` (R185): with the transaction number and the answers. -/
def State.completeRecall (s : State) (e : EntryIdx) (o : ResultOutcome) : State :=
  s.complete { Result.clear with outcome := o, txn := some (s.txn e), answers := (s.entry e).answers }

/-- The command is BUSY with a raised start claim (R181). -/
def State.raiseStart (s : State) : State := s.updSvc fun v => { v with status := .busy, waiting := .claim }

/-! ### Arguments (R181) -/

/-- The line that the argument copies name: A the low, B the high word (section 11.4). -/
def ServicePort.lineArg (v : ServicePort) : Line := BitVec.setWidth 38 (v.copyB ++ v.copyA)

/-- The line argument lies in 0 to 2^38 − 1. -/
def ServicePort.lineOk (v : ServicePort) : Bool := decide (v.copyB.toNat < 64)

/-- The set argument. -/
def ServicePort.setArg (v : ServicePort) : SetIdx := BitVec.setWidth 11 v.copyA

/-- The set argument lies in 0 to 2047. -/
def ServicePort.setOk (v : ServicePort) : Bool := decide (v.copyA.toNat < 2048)

/-- The way argument. -/
def ServicePort.wayArg (v : ServicePort) : Way := ⟨v.copyB.toNat % 16, Nat.mod_lt _ (by decide)⟩

/-- The way argument lies in 0 to 15. -/
def ServicePort.wayOk (v : ServicePort) : Bool := decide (v.copyB.toNat < 16)

/-- The port argument. -/
def ServicePort.portArg (v : ServicePort) : Agent := ⟨v.copyA.toNat % 8, Nat.mod_lt _ (by decide)⟩

/-- The port argument lies in 0 to 7. -/
def ServicePort.portOk (v : ServicePort) : Bool := decide (v.copyA.toNat < 8)

/-- The class argument: 0 FATAL, 1 NONFATAL (section 11.4). -/
def ServicePort.classArg (v : ServicePort) : ErrClass := if v.copyA = 0 then .fatal else .nonfatal

/-- The class argument is 0 or 1. -/
def ServicePort.classOk (v : ServicePort) : Bool := decide (v.copyA.toNat < 2)

/-! ### What a command does at its WRITE -/

/-- What INSPECT reports of a slot (R182). -/
def DirSet.view (d : DirSet) (k : SetIdx) (w : Way) : SlotView where
  way := w
  record := (d.record w).map fun r =>
    ⟨lineOf k r.tag, r.tag, r.state, r.poison, if r.state = .damaged then none else some r.holders⟩
  bound := if (d.record w).isSome then (d.slot w).bound else none
  reservation := if (d.record w).isSome then none else (d.slot w).reservation
  rank := if (d.record w).isSome then d.rank w else none
  health := (d.slot w).health
  mark := (d.slot w).mark
  lost := d.lost

/-- What INSPECT reports in INIT (R171): the slot free, its health count and mark as they stand. The LOST mark it reads
there is a free value (log 32). -/
def DirSet.viewInit (d : DirSet) (k : SetIdx) (w : Way) : SlotView :=
  ⟨w, none, none, none, none, (d.slot w).health, (d.slot w).mark, Config.lostInInit k.toNat⟩

/-- INSPECT at its WRITE (R182). -/
def State.startInspect (s : State) : State :=
  if s.svc.setOk ∧ s.svc.wayOk then
    if s.part = .init then
      s.complete { Result.clear with slot := some ((s.dirSet s.svc.setArg).viewInit s.svc.setArg s.svc.wayArg) }
    else s.raiseStart
  else s.fail .badArg

/-- LOOKUP and CLEAR_POISON at their WRITE (R183, R186). -/
def State.startLine (s : State) : State := if s.svc.lineOk then s.raiseStart else s.fail .badArg

/-- RECALL_LINE at its WRITE: a line outside the covered window ends it FAILED with RANGE (R181). -/
def State.startRecallLine (s : State) : State :=
  if s.svc.lineOk then (if s.cfg.covers s.svc.lineArg then s.raiseStart else s.fail .range) else s.fail .badArg

/-- CLEAR_SET at its WRITE (R184). -/
def State.startClearSet (s : State) : State := if s.svc.setOk then s.raiseStart else s.fail .badArg

/-- FENCE at its WRITE (R187). -/
def State.runFence (s : State) : State :=
  if s.svc.portOk then
    if s.member s.svc.portArg then (s.fence s.svc.portArg .service none none).completeWith .none
    else s.fail .state
  else s.fail .badArg

/-- UNFENCE at its WRITE (R117, R187). -/
def State.runUnfence (s : State) : State :=
  if s.svc.portOk then
    if (s.port s.svc.portArg).state = .fencedClean then
      ((s.updPort s.svc.portArg fun q => { q with state := .off }).bringUp s.svc.portArg).completeWith .none
    else s.fail .state
  else s.fail .badArg

/-- SCRUB_START at its WRITE (R147, R188): the claim for set 0 replaces any claim raised before. -/
def State.runScrubStart (s : State) : State :=
  { s with
    claims := s.claims.erase .scrub
    integ := { s.integ with
      scrubEn := true, scrubPos := 0, passComplete := false, scrubTimer := none, scrubClaim := some 0 } }.completeWith
    .none

/-- SCRUB_STOP at its WRITE (R147, R188). -/
def State.runScrubStop (s : State) : State :=
  { s with integ := { s.integ with
      scrubEn := false, scrubPos := 0, scrubTimer := none, scrubClaim := none } }.completeWith .none

/-- CLEAR_ERRORS at its WRITE (R160, R188): the result gives the capture as it stood. -/
def State.runClearErrors (s : State) : State :=
  if s.svc.classOk then
    let c := s.err.capture s.svc.classArg
    { s with err := s.err.setCapture s.svc.classArg ⟨none, 0⟩ }.complete
      { Result.clear with cleared := some (c.first.map Report.kind, c.later) }
  else s.fail .badArg

/-- A command that is taken in RUN alone (R181). -/
def State.gate (s : State) (run : State → State) : State :=
  match s.part with
  | .run => run s
  | .init => s.fail .init
  | .halted => s.fail .halted

/-- The command that a code names, carried out where the part state admits it (R181). -/
def State.runCommand (s : State) (code : Nat) : State :=
  match code with
  | 1 => s.startInspect
  | 2 => if s.part = .init then s.fail .init else s.startLine
  | 3 => s.gate State.startRecallLine
  | 4 => s.gate State.startLine
  | 5 => s.gate State.runFence
  | 6 => s.gate State.runUnfence
  | 7 => s.gate State.startClearSet
  | 8 => s.gate State.runScrubStart
  | 9 => s.gate State.runScrubStop
  | 10 => if s.part = .halted then s.fail .halted else s.runClearErrors
  | _ => s.fail .badArg

/-- A command is taken: its code and its arguments are recorded, the result registers cleared (R181). -/
def State.takeCommand (s : State) (v : Word) : State :=
  (s.updSvc fun p => { p with
    status := .idle, lastCode := BitVec.setWidth 8 v, copyA := p.argA, copyB := p.argB, result := Result.clear
    waiting := .nowhere }).runCommand (v.toNat % 256)

end Sys2Proof.Machine
end

