-- ==== Sys2Proof/Machine/RegisterWrites.lean ====
section
/-! DEFINITION. WRITE frames (sections 10.1 to 10.3, 11.3): the writable registers, their checks and their effects. A row
of the table is the event in which its frame is carried out (R177); Machine/Frames.lean has the frame bit by bit. -/

namespace Sys2Proof.Machine

/-! ### The writable registers (section 11.3) -/

/-- A register as a WRITE meets it; `readOnly` is every register that no WRITE is accepted for (R179, R191). -/
inductive Reg where
  | pendBaseLow
  | pendBaseHigh
  | pendCountLow
  | pendCountHigh
  | windowApply
  | reqCredits (p : Agent)
  | enables
  | protoFence
  | probeCredits
  | probeTmo
  | probeRetries
  | doneTmo
  | admission (m : AdmitMark)
  | recallBudget
  | retireTh
  | scrubInterval
  | scrubStarve
  | discards (p : Agent)
  | counter (k : Fin 16)
  | mask (k : Fin 16)
  | command
  | argA
  | argB
  | readOnly (a : Addr)
  deriving DecidableEq, Repr

/-- The address of a register (section 11.3). -/
def Reg.addr : Reg → Addr
  | .pendBaseLow => 0x10
  | .pendBaseHigh => 0x14
  | .pendCountLow => 0x18
  | .pendCountHigh => 0x1c
  | .windowApply => 0x20
  | .reqCredits p => BitVec.ofNat 16 (0x40 + 4 * p.val)
  | .enables => 0x60
  | .protoFence => 0x64
  | .probeCredits => 0x68
  | .probeTmo => 0x6c
  | .probeRetries => 0x70
  | .doneTmo => 0x74
  | .admission .high => 0x78
  | .admission .low => 0x7c
  | .recallBudget => 0x80
  | .retireTh => 0x84
  | .scrubInterval => 0x88
  | .scrubStarve => 0x8c
  | .discards p => BitVec.ofNat 16 (0x108 + 16 * p.val)
  | .counter k => BitVec.ofNat 16 (0xc00 + 4 * k.val)
  | .mask k => BitVec.ofNat 16 (0xc40 + 4 * k.val)
  | .command => 0xe00
  | .argA => 0xe04
  | .argB => 0xe08
  | .readOnly a => a

/-- The address lies in the register map (R191). -/
def inMap (a : Addr) : Bool := decide (a.toNat < 4096) && decide (a.toNat % 4 = 0)

/-- The port whose block of registers an address lies in, at this stride from this base. -/
def portAt (n base stride : Nat) : Agent := ⟨(n - base) / stride % 8, Nat.mod_lt _ (by decide)⟩

/-- The kind whose register an address lies in, from this base. -/
def kindAt (n base : Nat) : Fin 16 := ⟨(n - base) / 4 % 16, Nat.mod_lt _ (by decide)⟩

/-- The register at an address of the map (section 11.3). -/
def regOf (a : Addr) : Reg :=
  let n := a.toNat
  if n = 0x10 then .pendBaseLow
  else if n = 0x14 then .pendBaseHigh
  else if n = 0x18 then .pendCountLow
  else if n = 0x1c then .pendCountHigh
  else if n = 0x20 then .windowApply
  else if 0x40 ≤ n ∧ n < 0x60 then .reqCredits (portAt n 0x40 4)
  else if n = 0x60 then .enables
  else if n = 0x64 then .protoFence
  else if n = 0x68 then .probeCredits
  else if n = 0x6c then .probeTmo
  else if n = 0x70 then .probeRetries
  else if n = 0x74 then .doneTmo
  else if n = 0x78 then .admission .high
  else if n = 0x7c then .admission .low
  else if n = 0x80 then .recallBudget
  else if n = 0x84 then .retireTh
  else if n = 0x88 then .scrubInterval
  else if n = 0x8c then .scrubStarve
  else if 0x100 ≤ n ∧ n < 0x180 ∧ n % 16 = 8 then .discards (portAt n 0x108 16)
  else if 0xc00 ≤ n ∧ n < 0xc40 then .counter (kindAt n 0xc00)
  else if 0xc40 ≤ n ∧ n < 0xc80 then .mask (kindAt n 0xc40)
  else if n = 0xe00 then .command
  else if n = 0xe04 then .argA
  else if n = 0xe08 then .argB
  else .readOnly a

/-! ### The outcome of a WRITE (R178, R179) -/

/-- How a WRITE is taken: refused; accepted by a register that no block answers in the same event; or accepted with an
event of the blocks to settle. -/
inductive WriteOutcome where
  | refused (why : RefusalReason)
  | quiet (s : State)
  | live (s : State)

/-- The settings of the state changed by `f`. -/
def State.updCfg (s : State) (f : Settings → Settings) : State := { s with cfg := f s.cfg }

/-- The field of a setting: bits 15..0 (section 11.3). -/
def settingField (v : Word) : Nat := v.toNat % 65536

/-- A setting with a range of values (R179). -/
def State.writeSetting (s : State) (v : Word) (lo hi : Nat) (f : Nat → Settings → Settings) : WriteOutcome :=
  if lo ≤ settingField v ∧ settingField v ≤ hi then .quiet (s.updCfg (f (settingField v))) else .refused .range

/-- Every port is OFF (R180). -/
def State.allOff (s : State) : Bool := allAgents.all fun p => decide ((s.port p).state = .off)

/-- The window apply (R180). -/
def State.applyWindow (s : State) : WriteOutcome :=
  let c := s.cfg
  if !s.allOff then .refused .state
  else if c.pendCount.toNat = 0 ∨ 2 ^ 38 < c.pendBase.toNat + c.pendCount.toNat then .refused .range
  else .quiet (s.updCfg fun c => { c with winBase := c.pendBase, winCount := c.pendCount })

/-- The sum of the eight REQ_CREDITS values with `x` in place for port `p` (R111). -/
def State.creditSum (s : State) (p : Agent) (x : Nat) : Nat :=
  (allAgents.map fun q => if q = p then x else (s.port q).reqCredits).sum

/-- A WRITE of port `p`'s REQ_CREDITS, bits 3..0 (R111, R179). -/
def State.writeReqCredits (s : State) (p : Agent) (v : Word) : WriteOutcome :=
  let x := v.toNat % 16
  if x < 1 ∨ 8 < x then .refused .range
  else if (s.port p).state = .off ∨ (s.port p).state = .training ∨ (s.port p).state = .fenced
      ∨ (s.port p).state = .fencedClean then
    if s.creditSum p x ≤ Config.creditSum then .quiet (s.updPort p fun q => { q with reqCredits := x })
    else .refused .sum
  else .refused .state

/-- The enable of port `p` written with bit `p` of the data (R106): clearing it clears the hold and takes a TRAINING
port OFF; setting it may bring the port up. -/
def State.writeEnable (v : Word) (s : State) (p : Agent) : State :=
  if has v p then (s.updPort p fun q => { q with enable := true }).bringUp p
  else s.updPort p fun q => { q with
    enable := false
    rejoinHold := q.rejoinHold && !q.enable
    state := if q.state = .training then .off else q.state }

/-- A WRITE of the port enables (R106). -/
def State.writeEnables (s : State) (v : Word) : State := allAgents.foldl (State.writeEnable v) s

/-- The pause flag evaluated again after a WRITE of a mark (R64); in HALTED it is kept until the reset (R65, R163). -/
def State.pauseAgain (s : State) : State :=
  { s with pause :=
    if s.part = .halted then s.pause
    else if s.cfg.admitHigh ≤ s.inUseCount then true
    else if s.inUseCount ≤ s.cfg.admitLow then false
    else s.pause }

/-- A WRITE of an admission mark (R64, R65, R179). -/
def State.writeAdmit (s : State) (m : AdmitMark) (v : Word) : WriteOutcome :=
  let x := settingField v
  if x < 1 ∨ 31 < x then .refused .range
  else
    match m with
    | .high =>
      if s.cfg.admitLow < x then .live (s.updCfg fun c => { c with admitHigh := x }).pauseAgain else .refused .order
    | .low =>
      if x < s.cfg.admitHigh then .live (s.updCfg fun c => { c with admitLow := x }).pauseAgain else .refused .order

/-- The leave walker stops waiting for room at a WRITE of RECALL_BUDGET (R125); in HALTED it stays as it stands, since
the write has no effect there until the reset (R102, R163). -/
def State.wakeLeave (s : State) : State :=
  { s with leave := if s.part = .halted then s.leave else s.leave.wakeRoom }

/-- A WRITE of RECALL_BUDGET (R90, R102, R125). -/
def State.writeRecallBudget (s : State) (v : Word) : WriteOutcome :=
  let x := settingField v
  if 1 ≤ x ∧ x ≤ 8 then .live (s.updCfg fun c => { c with recallBudget := x }).wakeLeave else .refused .range

/-- A WRITE of PROBE_CREDITS (R72). -/
def State.writeProbeCredits (s : State) (v : Word) : WriteOutcome :=
  let x := settingField v
  if 1 ≤ x ∧ x ≤ 16 then .live (s.updCfg fun c => { c with probeCredits := x }) else .refused .range

/-- The routing that bits 1..0 code (section 11.3). -/
def routingOf (v : Word) : Routing :=
  if v.toNat % 4 = 0 then .none else if v.toNat % 4 = 1 then .notice else if v.toNat % 4 = 2 then .fault else .halt

/-- A WRITE of a kind's mask, bit 2, and routing, bits 1..0: both outputs are evaluated again (R159). -/
def State.writeMask (s : State) (k : Fin 16) (v : Word) : State :=
  { s with err := { s.err with
      masks := s.err.masks.set k.val (has v 2), routings := s.err.routings.set k.val (routingOf v) } }.evalOutputs

/-- A WRITE of an error counter, bits 7..0 (R153). -/
def State.writeCounter (s : State) (k : Fin 16) (v : Word) : WriteOutcome :=
  if v.toNat % 256 = 0 then .quiet { s with err := { s.err with counters := s.err.counters.set k.val 0 } }
  else .refused .range

/-- A WRITE of a discard counter, bits 15..0 (R107, R179). -/
def State.writeDiscards (s : State) (p : Agent) (v : Word) : WriteOutcome :=
  if settingField v = 0 then .quiet (s.updPort p fun q => { q with discards := 0 }) else .refused .range

/-- A WRITE of the command register (R181). -/
def State.writeCommand (s : State) (v : Word) : WriteOutcome :=
  if s.svc.status = .busy then .refused .busy else .live (s.takeCommand v)

/-- A WRITE of a register (R179). -/
def State.write (s : State) (r : Reg) (v : Word) : WriteOutcome :=
  match r with
  | .pendBaseLow => .quiet (s.updCfg fun c => { c with pendBase := c.pendBase.extractLsb' 32 6 ++ v })
  | .pendBaseHigh =>
    .quiet (s.updCfg fun c => { c with pendBase := v.extractLsb' 0 6 ++ c.pendBase.extractLsb' 0 32 })
  | .pendCountLow => .quiet (s.updCfg fun c => { c with pendCount := c.pendCount.extractLsb' 32 7 ++ v })
  | .pendCountHigh =>
    .quiet (s.updCfg fun c => { c with pendCount := v.extractLsb' 0 7 ++ c.pendCount.extractLsb' 0 32 })
  | .windowApply => s.applyWindow
  | .reqCredits p => s.writeReqCredits p v
  | .enables => .live (s.writeEnables v)
  | .protoFence => .quiet (s.updCfg fun c => { c with protoFence := has v 0 })
  | .probeCredits => s.writeProbeCredits v
  | .probeTmo => s.writeSetting v 1 1023 fun x c => { c with probeTmo := x }
  | .probeRetries => s.writeSetting v 0 3 fun x c => { c with probeRetries := x }
  | .doneTmo => s.writeSetting v 1 1023 fun x c => { c with doneTmo := x }
  | .admission m => s.writeAdmit m v
  | .recallBudget => s.writeRecallBudget v
  | .retireTh => s.writeSetting v 0 15 fun x c => { c with retireTh := x }
  | .scrubInterval => s.writeSetting v 1 1023 fun x c => { c with scrubInterval := x }
  | .scrubStarve => s.writeSetting v 1 255 fun x c => { c with scrubStarve := x }
  | .discards p => s.writeDiscards p v
  | .counter k => s.writeCounter k v
  | .mask k => .quiet (s.writeMask k v)
  | .command => s.writeCommand v
  | .argA => .quiet (s.updSvc fun p => { p with argA := v })
  | .argB => .quiet (s.updSvc fun p => { p with argB := v })
  | .readOnly _ => .refused .readOnly

/-- The SDO bits of a WRITE frame: zeros and the status byte (section 11.2, R190). -/
def sdoOk : BitVec 64 := 0
/-- The SDO bits of a WRITE answered BAD_ADDR. -/
def sdoBadAddr : BitVec 64 := 1
/-- The SDO bits of a WRITE answered REFUSED. -/
def sdoRefused : BitVec 64 := 2

/-- The event of a WRITE by its outcome: a refusal is recorded with its address and changes nothing else (R178, R179). The
event takes the frame's last data bit, its bit 56, and leaves the frame in progress with its status byte to come (R177). -/
def State.endWrite (s : State) (a : Addr) : WriteOutcome → State
  | .refused why => (s.updSvc fun p => { p with refusal := some (why, a) }).setFrame (some (.carried 56 sdoRefused))
  | .quiet t => t.setFrame (some (.carried 56 sdoOk))
  | .live t => t.finish.setFrame (some (.carried 56 sdoOk))

/-- A WRITE frame to a register of the map; without power the part answers none (R168). -/
def State.writeReg (s : State) (r : Reg) (v : Word) : State :=
  if s.pwrok then s.clearOutputs.endWrite r.addr (s.clearOutputs.write r v) else s.clearOutputs

/-- A WRITE frame to any address: outside the map it is answered BAD_ADDR and nothing changes (R178, R191). -/
def State.writeAddr (s : State) (a : Addr) (v : Word) : State :=
  if s.pwrok ∧ !inMap a then s.clearOutputs.setFrame (some (.carried 56 sdoBadAddr)) else s.writeReg (regOf a) v

/-! ### The rows of the table -/

/-- WINDOW_APPLY (R180). -/
def execWindowApply (v : Word) (s : State) : Host.Outcome State Fault Refusal := .next (s.writeReg .windowApply v)

/-- REQ_CREDITS_WRITE (R111). -/
def execReqCreditsWrite (p : Agent) (v : Word) (s : State) : Host.Outcome State Fault Refusal :=
  .next (s.writeReg (.reqCredits p) v)

/-- PORT_ENABLE_WRITE (R106). -/
def execPortEnableWrite (v : Word) (s : State) : Host.Outcome State Fault Refusal := .next (s.writeReg .enables v)

/-- PROBE_CREDITS_WRITE (R72). -/
def execProbeCreditsWrite (v : Word) (s : State) : Host.Outcome State Fault Refusal :=
  .next (s.writeReg .probeCredits v)

/-- ADMIT_WRITE (R64). -/
def execAdmitWrite (m : AdmitMark) (v : Word) (s : State) : Host.Outcome State Fault Refusal :=
  .next (s.writeReg (.admission m) v)

/-- RECALL_BUDGET_WRITE (R90). -/
def execRecallBudgetWrite (v : Word) (s : State) : Host.Outcome State Fault Refusal :=
  .next (s.writeReg .recallBudget v)

/-- MASK_ROUTING_WRITE (R159). -/
def execMaskRoutingWrite (k : ErrKind) (v : Word) (s : State) : Host.Outcome State Fault Refusal :=
  .next (s.writeReg (.mask (kindIdx k)) v)

/-- COUNTER_WRITE (R153). -/
def execCounterWrite (k : ErrKind) (v : Word) (s : State) : Host.Outcome State Fault Refusal :=
  .next (s.writeReg (.counter (kindIdx k)) v)

/-- DISCARD_COUNTER_WRITE (R107). -/
def execDiscardCounterWrite (p : Agent) (v : Word) (s : State) : Host.Outcome State Fault Refusal :=
  .next (s.writeReg (.discards p) v)

/-- REGISTER_WRITE (R179). -/
def execRegisterWrite (a : Addr) (v : Word) (s : State) : Host.Outcome State Fault Refusal := .next (s.writeAddr a v)

/-- INSPECT: a WRITE of code 1 to the command register (R181, R182). -/
def execInspect (s : State) : Host.Outcome State Fault Refusal := .next (s.writeReg .command 1)

/-- LOOKUP: code 2 (R183). -/
def execLookup (s : State) : Host.Outcome State Fault Refusal := .next (s.writeReg .command 2)

/-- RECALL_LINE: code 3 (R185). -/
def execRecallLine (s : State) : Host.Outcome State Fault Refusal := .next (s.writeReg .command 3)

/-- CLEAR_POISON: code 4 (R186). -/
def execClearPoison (s : State) : Host.Outcome State Fault Refusal := .next (s.writeReg .command 4)

/-- FENCE: code 5 (R187). -/
def execFence (s : State) : Host.Outcome State Fault Refusal := .next (s.writeReg .command 5)

/-- UNFENCE: code 6 (R187). -/
def execUnfence (s : State) : Host.Outcome State Fault Refusal := .next (s.writeReg .command 6)

/-- CLEAR_SET: code 7 (R184). -/
def execClearSet (s : State) : Host.Outcome State Fault Refusal := .next (s.writeReg .command 7)

/-- SCRUB_START: code 8 (R147, R188). -/
def execScrubStart (s : State) : Host.Outcome State Fault Refusal := .next (s.writeReg .command 8)

/-- SCRUB_STOP: code 9 (R147, R188). -/
def execScrubStop (s : State) : Host.Outcome State Fault Refusal := .next (s.writeReg .command 9)

/-- CLEAR_ERRORS: code 10 (R160, R188). -/
def execClearErrors (s : State) : Host.Outcome State Fault Refusal := .next (s.writeReg .command 10)

/-! ### Frames without a register access (R177, R190) -/

/-- The SDO bits of a frame of an invalid opcode: 02h at bits 25 to 32, zeros, 02h at bits 57 to 64 (R190). -/
def sdoInvalid : BitVec 64 := 0x0000000200000002

/-- INVALID_OPCODE_FRAME (R177): carried out at the last address bit, bit 24, with no effect; its answer is to come. -/
def execInvalidOpcodeFrame (s : State) : Host.Outcome State Fault Refusal :=
  .next (if s.pwrok then s.clearOutputs.setFrame (some (.carried 24 sdoInvalid)) else s.clearOutputs)

/-- FRAME_CUT_SHORT (R177): CS_N rises before the frame's carrying bit; the frame ends and has no effect. -/
def execFrameCutShort (s : State) : Host.Outcome State Fault Refusal := .next (s.clearOutputs.setFrame none)

end Sys2Proof.Machine
end

