-- ==== Sys2Proof/Machine/RegisterReads.lean ====
section
/-! DEFINITION. READ frames (sections 10.1, 11.2 to 11.4): the value of every register, and the answer on SDO. A READ is
no row of the table; Machine/Frames.lean carries it out at its last address bit (R177, R178). -/

namespace Sys2Proof.Machine

/-! ### Codes (section 11.3) -/

/-- The number of a bit. -/
def bit (b : Bool) : Nat := if b then 1 else 0

/-- The code of a part state. -/
def PartState.code : PartState → Nat
  | .init => 0
  | .run => 1
  | .halted => 2

/-- The code of a write refusal reason. -/
def RefusalReason.code : RefusalReason → Nat
  | .state => 1
  | .range => 2
  | .sum => 3
  | .order => 4
  | .busy => 5
  | .readOnly => 6

/-- The code of a port state. -/
def PortState.code : PortState → Nat
  | .off => 0
  | .training => 1
  | .active => 2
  | .leaving _ => 3
  | .fenced => 4
  | .fencedClean => 5

/-- The code of the phase of a LEAVING port, 0 DRAIN, 1 WALK; a port in another state has none (section 11.3). -/
def PortState.phaseCode : PortState → Option Nat
  | .leaving .walk => some 1
  | .leaving .drain => some 0
  | .off | .training | .active | .fenced | .fencedClean => none

/-- The code of a last fence cause. -/
def causeCode : Option FenceCause → Nat
  | none => 0
  | some .linkLoss => 1
  | some .probeTimeout => 2
  | some .service => 3
  | some .protocol => 4

/-- The code of a phase. -/
def Phase.code : Phase → Nat
  | .free => 0
  | .lookup => 1
  | .probing => 2
  | .awaitSlot => 3
  | .awaitDone => 4
  | .releasing => 5

/-- The code of an entry kind. -/
def EntryKind.code : EntryKind → Nat
  | .request => 0
  | .recallVictim => 1
  | .retire => 2
  | .repair => 3
  | .retract => 4
  | .service => 5

/-- The code of a requester: 8 for SERVICE, 15 for none (R191). -/
def Party.code : Party → Nat
  | .agent a => a.val
  | .service => 8
  | .none => 15

/-- The code of an answer. -/
def answerCode : Option Answer → Nat
  | none => 0
  | some .clean => 1
  | some .written => 2
  | some .gone => 3
  | some .fenceGone => 4

/-- The answers of the eight agents, 3 bits an agent, agent 0 lowest (log 19). -/
def answersWord (v : Vector (Option Answer) 8) : Word :=
  BitVec.ofNat 32 (allAgents.foldr (fun a n => answerCode (v.get a) + 8 * n) 0)

/-- The code of an error kind in a register: its number plus 1, and 0 for none (R191). -/
def errCode : Option ErrKind → Nat
  | none => 0
  | some k => (kindIdx k).val + 1

/-- The code of a routing. -/
def Routing.code : Routing → Nat
  | .none => 0
  | .notice => 1
  | .fault => 2
  | .halt => 3

/-- The code of a PROTOCOL cause. -/
def ProtoCause.code : ProtoCause → Nat
  | .tagInUse => 0
  | .creditOverrun => 1
  | .badDone => 2
  | .badKind => 3

/-- The code of a word. -/
def WordSel.code : WordSel → Nat
  | .tag => 0
  | .holder => 1

/-- The code of a record state. -/
def RecState.code : RecState → Nat
  | .shared => 0
  | .owned => 1
  | .poisoned => 2
  | .damaged => 3

/-- The code of a service mark. -/
def ServiceMark.code : ServiceMark → Nat
  | .inService => 0
  | .retired => 1
  | .quarantined => 2

/-- The code of a command status. -/
def CmdStatus.code : CmdStatus → Nat
  | .idle => 0
  | .busy => 1
  | .done => 2
  | .failed _ => 3

/-- The code of a FAILED reason (section 11.4); another status has none. -/
def CmdStatus.reasonCode : CmdStatus → Option Nat
  | .failed .badArg => some 1
  | .failed .state => some 2
  | .failed .init => some 3
  | .failed .halted => some 4
  | .failed .waitFull => some 5
  | .failed .range => some 6
  | .idle | .busy | .done => none

/-- The code of an outcome (section 11.4). -/
def ResultOutcome.code : ResultOutcome → Nat
  | .none => 0
  | .found => 1
  | .absent => 2
  | .lost => 3
  | .noHolders => 4
  | .recalled => 5
  | .poisoned => 6
  | .freed => 7
  | .cleared => 8
  | .notPoisoned => 9
  | .damaged => 10
  | .relost => 11
  | .wasClear => 12

/-- A field that may be absent: its valid bit and its value, 0 and 0 when absent (R191). Which fields may be absent is
read from their rules (log 19). -/
def optField (x : Option Nat) : List Nat :=
  match x with
  | some n => [1, n]
  | none => [0, 0]

/-- A register of several fields. Whatever their places, fields that are all 0 make the value 0, since reserved bits
read 0 (R191); otherwise the places the book does not give are a free value (log 19). -/
def pack (a : Nat) (fields : List Nat) : Word :=
  if fields.all fun n => decide (n = 0) then 0 else Config.packFields a fields

/-- Bits 31..0 of a line number; an absent one reads 0. -/
def lineLow (l : Option Line) : Word := (l.getD 0).extractLsb' 0 32

/-- Bits 37..32 of a line number and its valid bit. -/
def lineHigh (l : Option Line) : List Nat := optField (l.map fun x => x.toNat / 2 ^ 32)

/-- A number in the low bits of a register, the others 0 (R191). -/
def numWord (n : Nat) : Word := BitVec.ofNat 32 n

/-! ### Registers of the blocks -/

/-- The registers of port `p`, by offset (section 11.3). The phase is absent outside LEAVING (R191); the valid bit of a
purge start is the purge-set membership (R119). -/
def State.readPort (s : State) (a : Nat) (p : Agent) : Word :=
  let q := s.port p
  match a % 16 with
  | 0 => pack a ([q.state.code] ++ optField q.state.phaseCode
      ++ [bit q.enable, bit q.link, bit q.rejoinHold, q.credits, causeCode q.lastFence])
  | 4 => pack a [(s.intake.filter fun r => decide (r.port = p)).length, cardOf q.tags, q.probeQueue.length,
      q.sends.length]
  | 8 => numWord q.discards
  | 12 => pack a ([cardOf q.snapshot] ++ optField ((s.purge.starts.get p).map BitVec.toNat))
  | _ => 0

/-- The request field of an entry with its valid bit: kind, tag and full-write, or the command code; absent but for
REQUEST and SERVICE (section 11.3, R45, R191). -/
def requestFields : Option EntryRequest → List Nat
  | some (.agent k tag full) => [1, k.code.code.toNat, tag.val, bit full]
  | some .recallLine => [1, 3]
  | none => [0, 0]

/-- The code of a probe kind. -/
def ProbeKind.code : ProbeKind → Nat
  | .invalidate => 0
  | .downgrade => 1

/-- The registers of TT entry `e`, by offset (section 11.3); the kind is absent in FREE and has a valid bit (R45, R191). A
DONE timer that a halt has stopped still reads as running (log 41). -/
def State.readEntry (s : State) (a : Nat) (e : EntryIdx) : Word :=
  let x := s.entry e
  match a % 32 with
  | 0 => pack a ([x.phase.code] ++ optField (x.kind.map EntryKind.code)
      ++ [x.gen.toNat, x.requester.code, bit x.closePending, x.waiters.length])
  | 4 => pack a (requestFields x.request)
  | 8 => lineLow x.line
  | 12 => pack a (lineHigh x.line)
  | 16 => pack a (optField (x.line.map fun l => (setOf l).toNat) ++ optField (x.way.map Fin.val))
  | 20 => pack a (optField (x.probeKind.map ProbeKind.code) ++ [x.pendingSet.toNat]
      ++ optField (x.keep.map Fin.val))
  | 24 => answersWord x.answers
  | 28 => pack a (optField x.doneTimer ++ optField ((s.recallUnit.serves.get e).map Fin.val))
  | _ => 0

/-- The first word of an item of the recall start queue: valid, kind, entry index, set, way; a parked item has no set and
no way, a RETIRE no entry index, a REPAIR no entry index and no way (section 11.3, R89, R191). -/
def StartItem.fields : StartItem → List Nat
  | .parked e => [1, 0] ++ optField (some e.val) ++ optField none ++ optField none
  | .retire k w => [1, 1] ++ optField none ++ optField (some k.toNat) ++ optField (some w.val)
  | .repair k _ => [1, 2] ++ optField none ++ optField (some k.toNat) ++ optField none

/-- The second word of an item of the recall start queue: the tag of a REPAIR, absent in other items (section 11.3,
R191). -/
def StartItem.tagFields : StartItem → List Nat
  | .repair _ t => optField (some t.toNat)
  | .parked _ => optField none
  | .retire _ _ => optField none

/-- The registers of item `n` of the recall start queue; past its end they read 0 (R191). -/
def State.readItem (s : State) (a n : Nat) : Word :=
  match s.recallUnit.queue[n]? with
  | some x => pack a (if a % 8 = 0 then x.fields else x.tagFields)
  | none => 0

/-- The fields of an item of the retire list (section 11.3). -/
def RetireItem.fields (x : RetireItem) : List Nat :=
  [1, x.set.toNat, x.way.val, match x.status with
    | .waitUnbind => 0
    | .waitRoom => 1]

/-- The register of item `n` of the retire list; past its end it reads 0. -/
def State.readRetire (s : State) (a n : Nat) : Word :=
  match s.integ.retireList[n]? with
  | some x => pack a x.fields
  | none => 0

/-- The ports of the leave order list, 4 bits each, the front in bits 3..0 (section 11.3); past its end they read 0
(log 40). -/
def leaveOrderWord (l : List Agent) : Word := BitVec.ofNat 32 (l.foldr (fun p n => p.val + 16 * n) 0)

/-- The entry the leave walker waits for, if it has noted one (R125). -/
def LeaveWait.entry? : LeaveWait → Option EntryIdx
  | .noted e => some e
  | .ready => none
  | .room => none

/-- The registers of the walk unit (section 11.3). -/
def State.readWalks (s : State) (a : Nat) : Word :=
  if a = 0xb00 then pack a [s.purge.pos.toNat, (agentSet fun p => (s.purge.starts.get p).isSome).toNat]
  else if a < 0xb24 then pack a (optField ((s.purge.starts.get (portAt a 0xb04 4)).map BitVec.toNat))
  else if a = 0xb24 then
    pack a (optField (s.leave.port.map Fin.val) ++ [s.leave.pos.toNat, s.leave.retracts]
      ++ optField (s.leave.wait.entry?.map Fin.val))
  else if a = 0xb40 then numWord s.leave.order.length
  else if a = 0xb44 then leaveOrderWord s.leave.order
  else 0

/-- The registers of the integrity unit (section 11.3). -/
def State.readIntegrity (s : State) (a : Nat) : Word :=
  let u := s.integ
  if a = 0xb80 then pack a [u.damaged, bit u.fenceMark]
  else if a = 0xb84 then pack a [bit u.scrubEn, u.scrubPos.toNat, bit u.passComplete]
  else if a = 0xb88 then BitVec.setWidth 32 u.passCounter
  else if 0xbc0 ≤ a then s.readRetire a ((a - 0xbc0) / 4)
  else 0

/-- The optional fields of a first-error record (section 11.3). -/
def Report.optionals (r : Report) : List Nat :=
  optField (r.word.map WordSel.code) ++ optField (r.cause.map ProtoCause.code)
    ++ optField (r.msg.map fun m => 8 * bit m.channel + m.code.toNat) ++ [bit r.line.isSome, bit r.set.isSome,
      bit r.way.isSome, bit r.count.isSome, bit r.agent.isSome, bit r.txn.isSome]

/-- The further fields of a first-error record, at offset 0Ch. -/
def Report.places (r : Report) : List Nat :=
  lineHigh r.line ++ optField (r.set.map BitVec.toNat) ++ optField (r.way.map Fin.val) ++ optField r.count
    ++ optField (r.agent.map Fin.val)

/-- The registers of a capture, by offset (section 11.3). -/
def Capture.read (c : Capture) (a off : Nat) : Word :=
  if off = 0 then pack a [bit c.first.isSome, errCode (c.first.map Report.kind), c.later.toNat]
  else
    match c.first with
    | none => 0
    | some r =>
      if off = 4 then pack a r.optionals
      else if off = 8 then lineLow r.line
      else if off = 12 then pack a r.places
      else if off = 16 then numWord ((r.txn.map BitVec.toNat).getD 0)
      else 0

/-- The registers of the error reporting unit (section 11.3). -/
def State.readErrors (s : State) (a : Nat) : Word :=
  let u := s.err
  if a < 0xc40 then numWord (u.counters.get (kindAt a 0xc00))
  else if a < 0xc80 then
    numWord (4 * bit (u.masks.get (kindAt a 0xc40)) + (u.routings.get (kindAt a 0xc40)).code)
  else if a < 0xca0 then u.fatal.read a (a - 0xc80)
  else if a < 0xcc0 then u.nonfatal.read a (a - 0xca0)
  else if a = 0xcc0 then pack a [errCode u.haltKind, bit u.notice, bit u.fault]
  else 0

/-- The slot register of a result, at 0E24h (section 11.4). State, poison and rank are absent for a free slot (R182); after
LOOKUP has ended ABSENT or LOST the register holds the set's LOST mark alone and every other field is absent (R191, R192). -/
def Result.slotFields (r : Result) : List Nat :=
  let record := r.slot.bind SlotView.record
  optField (r.slot.map fun v => bit v.record.isSome) ++ optField (record.map fun x => x.state.code)
    ++ optField (record.map fun x => bit x.poison) ++ optField (r.slot.map fun v => v.mark.code)
    ++ [bit ((r.slot.map SlotView.lost).getD (r.lost.getD false))] ++ optField (r.slot.map SlotView.health)
    ++ optField (r.slot.bind SlotView.rank) ++ optField (r.slot.map fun v => v.way.val)

/-- The holders register of a result, at 0E34h (section 11.4). The holders are absent for a free slot; for a DAMAGED record
they are UNKNOWN, which has a bit of its own (R182, R191). -/
def Result.holderFields (r : Result) : List Nat :=
  let record := r.slot.bind SlotView.record
  optField (record.map fun x => (x.holders.getD 0).toNat)
    ++ [bit (record.any fun x => x.holders.isNone)]
    ++ optField (r.slot.bind fun v => v.bound.map Fin.val) ++ optField (r.slot.bind fun v => v.reservation.map Fin.val)

/-- The further results at 0E38h (section 11.4). -/
def Result.more (r : Result) : List Nat :=
  match r.cleared with
  | some (k, later) => [errCode k, later.toNat]
  | none => optField (r.entry.map Fin.val) ++ optField (r.txn.map BitVec.toNat)

/-- The result registers (section 11.4). -/
def Result.read (r : Result) (a : Nat) : Word :=
  let line := r.slot.bind fun v => v.record.map RecordView.line
  if a = 0xe20 then numWord r.outcome.code
  else if a = 0xe24 then pack a r.slotFields
  else if a = 0xe28 then lineLow line
  else if a = 0xe2c then pack a (lineHigh line)
  else if a = 0xe30 then
    pack a (optField (r.slot.bind fun v => v.record.map fun x => x.tag.toNat))
  else if a = 0xe34 then pack a r.holderFields
  else if a = 0xe38 then pack a r.more
  else answersWord r.answers

/-- The registers of the service port (section 11.3). The reason is absent unless the status is FAILED (R191). -/
def State.readService (s : State) (a : Nat) : Word :=
  let v := s.svc
  if a = 0xe00 then BitVec.setWidth 32 v.lastCode
  else if a = 0xe04 then v.argA
  else if a = 0xe08 then v.argB
  else if a = 0xe10 then pack a ([v.status.code] ++ optField v.status.reasonCode ++ [v.lastCode.toNat])
  else if 0xe20 ≤ a ∧ a < 0xe40 then v.result.read a
  else 0

/-- The settings, 0068h to 008Ch (section 11.3). -/
def Settings.read (c : Settings) (a : Nat) : Nat :=
  if a = 0x68 then c.probeCredits else if a = 0x6c then c.probeTmo else if a = 0x70 then c.probeRetries
  else if a = 0x74 then c.doneTmo else if a = 0x78 then c.admitHigh else if a = 0x7c then c.admitLow
  else if a = 0x80 then c.recallBudget else if a = 0x84 then c.retireTh else if a = 0x88 then c.scrubInterval
  else c.scrubStarve

/-- The write refusal register: the reason, 0 for none, and the address, absent where no write has been refused (R179,
R191). -/
def State.refusalFields (s : State) : List Nat :=
  [(s.svc.refusal.map fun x => x.1.code).getD 0] ++ optField (s.svc.refusal.map fun x => x.2.toNat)

/-- The registers below 0100h (section 11.3). -/
def State.readLow (s : State) (a : Nat) : Word :=
  let c := s.cfg
  if a = 0 then 0x2416#16 ++ (0#8 ++ Config.revision)
  else if a = 4 then numWord s.part.code
  else if a = 8 then pack a s.refusalFields
  else if a = 0x10 then lineLow (some c.pendBase)
  else if a = 0x14 then numWord (c.pendBase.toNat / 2 ^ 32)
  else if a = 0x18 then c.pendCount.extractLsb' 0 32
  else if a = 0x1c then numWord (c.pendCount.toNat / 2 ^ 32)
  else if a = 0x24 then lineLow (some c.winBase)
  else if a = 0x28 then numWord (c.winBase.toNat / 2 ^ 32)
  else if a = 0x2c then c.winCount.extractLsb' 0 32
  else if a = 0x30 then numWord (c.winCount.toNat / 2 ^ 32)
  else if 0x40 ≤ a ∧ a < 0x60 then numWord (s.port (portAt a 0x40 4)).reqCredits
  else if a = 0x60 then BitVec.setWidth 32 (agentSet fun p => (s.port p).enable)
  else if a = 0x64 then numWord (bit c.protoFence)
  else if 0x68 ≤ a ∧ a ≤ 0x8c then numWord (c.read a)
  else 0

/-- The items of the recall start queue by sort, and the recalls in flight (section 11.3). -/
def State.recallFields (s : State) : List Nat :=
  [(s.recallUnit.queue.filter fun x => !x.isStart).length, (s.recallUnit.queue.filter StartItem.isStart).length,
    s.recallUnit.inFlight]

/-- The value of the register at an address of the map; a reserved address reads 0 (R191). -/
def State.readValue (s : State) (a : Nat) : Word :=
  if a < 0x100 then s.readLow a
  else if a < 0x180 then s.readPort a (portAt a 0x100 16)
  else if a = 0x200 then pack a [s.inUseCount, bit s.pause, s.poolCount, s.intake.length]
  else if a < 0x400 then 0
  else if a < 0x800 then s.readEntry a ⟨(a - 0x400) / 32 % 32, Nat.mod_lt _ (by decide)⟩
  else if a = 0x800 then pack a s.recallFields
  else if a < 0x900 then 0
  else if a < 0xa80 then s.readItem a ((a - 0x900) / 8)
  else if a < 0xb00 then 0
  else if a < 0xb80 then s.readWalks a
  else if a < 0xc00 then s.readIntegrity a
  else if a < 0xe00 then s.readErrors a
  else s.readService a

/-! ### The READ frame (R177, R178, R190) -/

/-- How a READ is answered (R178). -/
inductive ReadStatus where
  | ok
  | badAddr
  | refused
  deriving DecidableEq, Repr

/-- The status byte of a READ (R190). -/
def ReadStatus.code : ReadStatus → BitVec 8
  | .ok => 0
  | .badAddr => 1
  | .refused => 2

/-- A result register (section 11.3). -/
def isResult (a : Addr) : Bool := decide (0xe20 ≤ a.toNat) && decide (a.toNat < 0xe40)

/-- The status of a READ: BAD_ADDR outside the map, REFUSED for a result register while a command is BUSY (R178). -/
def State.readStatus (s : State) (a : Addr) : ReadStatus :=
  if !inMap a then .badAddr else if isResult a ∧ s.svc.status = .busy then .refused else .ok

/-- The data of a READ: the register's value when the status is OK, else 0 (R178). -/
def State.readData (s : State) (a : Addr) : Word :=
  match s.readStatus a with
  | .ok => s.readValue a.toNat
  | .badAddr => 0
  | .refused => 0

/-- The SDO bits of a READ frame: status at bits 25 to 32, data at bits 33 to 64; zeros while PWROK is low stand for an
undriven SDO (R168, R190). -/
def State.readFrame (s : State) (a : Addr) : BitVec 64 :=
  if s.pwrok then BitVec.setWidth 64 ((s.readStatus a).code ++ s.readData a) else 0

end Sys2Proof.Machine
end

