-- ==== Sys2Proof/Machine/Formats.lean ====
section
/-! DEFINITION. The 64-bit formats (sections 11.1 and 11.2): the messages of a link in both directions and the frames of
the service port, as the commands of the table. -/

namespace Sys2Proof.Machine

/-! ### Messages from an agent (section 11.1, R189) -/

/-- A request-channel message: channel 0, kind, tag, full-write, line; reserved bits 0. -/
def requestWord (kind : BitVec 3) (tag : ReqTag) (full : Bool) (line : Line) : BitVec 64 :=
  0#1 ++ kind ++ BitVec.ofNat 4 tag.val ++ BitVec.ofBool full ++ 0#17 ++ line

/-- A response-channel message: channel 1, kind, transaction number, line; reserved bits 0. -/
def responseWord (kind : BitVec 3) (n : Txn) (line : Line) : BitVec 64 := 1#1 ++ kind ++ 0#4 ++ n ++ 0#10 ++ line

/-- The message that a link command is, with its port; the other commands are no messages. -/
def encodeMessage : Instr → Option (Agent × BitVec 64)
  | .rdShared p tag line => some (p, requestWord 0 tag false line)
  | .rdOwn p tag line full => some (p, requestWord 1 tag full line)
  | .upgrade p tag line => some (p, requestWord 2 tag false line)
  | .writeback p tag line => some (p, requestWord 3 tag false line)
  | .drop p tag line => some (p, requestWord 4 tag false line)
  | .leave p tag line => some (p, requestWord 5 tag false line)
  | .badKind p false code => some (p, requestWord code 0 false 0)
  | .badKind p true code => some (p, responseWord code 0 0)
  | .done p n => some (p, responseWord 0 n 0)
  | .ansClean p n line => some (p, responseWord 1 n line)
  | .ansWritten p n line => some (p, responseWord 2 n line)
  | .ansGone p n line => some (p, responseWord 3 n line)
  | .pwrokRise | .pwrokFall | .resetNFall | .resetNRise | .clearingWalkStep | .linkDetected _ | .linkLoss _
  | .probeTimerExpiry _ _ | .intakeLookup _ | .resolutionAccess _ | .parkedResolution _ | .doneTimeout _
  | .closeAccess _ | .lookupAfterHandOn _ | .releasingAccess _ | .recallStart _ | .recallResolution _
  | .retireStart _ | .retireResolution _ | .repairStart _ | .repairResolution _ | .purgeStep _ | .leaveStep _
  | .retractResolution _ | .scrubIntervalExpiry | .scrubAccess _ | .inspect | .inspectAccess _ | .lookup
  | .lookupAccess _ | .recallLine | .recallLineStart _ | .serviceResolution _ | .clearPoison | .clearPoisonAccess _
  | .fence | .unfence | .clearSet | .clearSetAccess _ | .scrubStart | .scrubStop | .clearErrors | .windowApply _
  | .reqCreditsWrite _ _ | .portEnableWrite _ | .probeCreditsWrite _ | .admitWrite _ _ | .recallBudgetWrite _
  | .maskRoutingWrite _ _ | .counterWrite _ _ | .discardCounterWrite _ _ | .registerWrite _ _
  | .invalidOpcodeFrame | .frameCutShort => none

/-- The request tag of a message. -/
def tagField (m : BitVec 64) : ReqTag := (m.extractLsb' 56 4).toFin

/-- The command that a message from agent `p` is: the part ignores reserved bits, the full-write bit of every kind but
RD_OWN and the line number of DONE (R189). -/
def decodeMessage (p : Agent) (m : BitVec 64) : Instr :=
  let kind := m.extractLsb' 60 3
  let line := m.extractLsb' 0 38
  let n := m.extractLsb' 48 8
  if has m 63 then
    match kind.toNat with
    | 0 => .done p n
    | 1 => .ansClean p n line
    | 2 => .ansWritten p n line
    | 3 => .ansGone p n line
    | _ => .badKind p true kind
  else
    match kind.toNat with
    | 0 => .rdShared p (tagField m) line
    | 1 => .rdOwn p (tagField m) line (has m 55)
    | 2 => .upgrade p (tagField m) line
    | 3 => .writeback p (tagField m) line
    | 4 => .drop p (tagField m) line
    | 5 => .leave p (tagField m) line
    | _ => .badKind p false kind

/-! ### Messages to an agent (section 11.1) -/

/-- The code of a NACK reason. -/
def NackReason.code : NackReason → BitVec 3
  | .range => 0
  | .noSlot => 1
  | .waitFull => 2
  | .leaving => 3
  | .lost => 4
  | .halted => 5

/-- The fields of a message to an agent, laid out; those its kind does not use are 0 (R189). -/
def partWord (kind : BitVec 4) (tag : BitVec 4) (n : Txn) (sub : BitVec 3) (line : Line) : BitVec 64 :=
  kind ++ tag ++ n ++ sub ++ 0#7 ++ line

/-- The 64 bits of a message to an agent (section 11.1). -/
def OutMsg.word : OutMsg → BitVec 64
  | .grant tag line n kind reread poison =>
    partWord 0 (BitVec.ofNat 4 tag.val) n
      (BitVec.ofBool (decide (kind = .own)) ++ BitVec.ofBool reread ++ BitVec.ofBool poison) line
  | .ack tag line stale => partWord 1 (BitVec.ofNat 4 tag.val) 0 (BitVec.ofBool stale ++ 0#2) line
  | .nack tag line why => partWord 2 (BitVec.ofNat 4 tag.val) 0 why.code line
  | .probe n line kind => partWord 3 0 n (BitVec.ofBool (decide (kind = .downgrade)) ++ 0#2) line
  | .leaveDone => partWord 4 0 0 0 0
  | .credit => partWord 5 0 0 0 0

/-! ### Frames of the service port (section 11.2) -/

/-- The kind of row `n` of R151. -/
def kindOf (n : Fin 16) : ErrKind := allKinds[n.val]'(by have h := n.isLt; simp [allKinds])

/-- The command that a WRITE of the command register is: codes 1 to 10 have rows of their own. -/
def commandRow (a : Addr) (v : Word) : Instr :=
  match v.toNat % 256 with
  | 1 => .inspect
  | 2 => .lookup
  | 3 => .recallLine
  | 4 => .clearPoison
  | 5 => .fence
  | 6 => .unfence
  | 7 => .clearSet
  | 8 => .scrubStart
  | 9 => .scrubStop
  | 10 => .clearErrors
  | _ => .registerWrite a v

/-- The row of the table that a WRITE to register `r` is. -/
def Reg.row (r : Reg) (a : Addr) (v : Word) : Instr :=
  match r with
  | .windowApply => .windowApply v
  | .reqCredits p => .reqCreditsWrite p v
  | .enables => .portEnableWrite v
  | .probeCredits => .probeCreditsWrite v
  | .admission m => .admitWrite m v
  | .recallBudget => .recallBudgetWrite v
  | .discards p => .discardCounterWrite p v
  | .counter k => .counterWrite (kindOf k) v
  | .mask k => .maskRoutingWrite (kindOf k) v
  | .command => commandRow a v
  | .pendBaseLow | .pendBaseHigh | .pendCountLow | .pendCountHigh | .protoFence | .probeTmo | .probeRetries | .doneTmo
  | .retireTh | .scrubInterval | .scrubStarve | .argA | .argB | .readOnly _ => .registerWrite a v

/-- The row of the table that a WRITE frame to address `a` is. -/
def writeRow (a : Addr) (v : Word) : Instr := if inMap a then (regOf a).row a v else .registerWrite a v

/-- The WRITE frame that a row of the table is: its address and its data (sections 11.3 and 11.4). -/
def encodeWrite : Instr → Option (Addr × Word)
  | .inspect => some (Reg.command.addr, 1)
  | .lookup => some (Reg.command.addr, 2)
  | .recallLine => some (Reg.command.addr, 3)
  | .clearPoison => some (Reg.command.addr, 4)
  | .fence => some (Reg.command.addr, 5)
  | .unfence => some (Reg.command.addr, 6)
  | .clearSet => some (Reg.command.addr, 7)
  | .scrubStart => some (Reg.command.addr, 8)
  | .scrubStop => some (Reg.command.addr, 9)
  | .clearErrors => some (Reg.command.addr, 10)
  | .windowApply v => some (Reg.windowApply.addr, v)
  | .reqCreditsWrite p v => some ((Reg.reqCredits p).addr, v)
  | .portEnableWrite v => some (Reg.enables.addr, v)
  | .probeCreditsWrite v => some (Reg.probeCredits.addr, v)
  | .admitWrite m v => some ((Reg.admission m).addr, v)
  | .recallBudgetWrite v => some (Reg.recallBudget.addr, v)
  | .maskRoutingWrite k v => some ((Reg.mask (kindIdx k)).addr, v)
  | .counterWrite k v => some ((Reg.counter (kindIdx k)).addr, v)
  | .discardCounterWrite p v => some ((Reg.discards p).addr, v)
  | .registerWrite a v => some (a, v)
  | .pwrokRise | .pwrokFall | .resetNFall | .resetNRise | .clearingWalkStep | .linkDetected _ | .linkLoss _
  | .rdShared _ _ _ | .rdOwn _ _ _ _ | .upgrade _ _ _ | .writeback _ _ _ | .drop _ _ _ | .leave _ _ _
  | .badKind _ _ _ | .done _ _ | .ansClean _ _ _ | .ansWritten _ _ _ | .ansGone _ _ _
  | .probeTimerExpiry _ _ | .intakeLookup _ | .resolutionAccess _ | .parkedResolution _ | .doneTimeout _
  | .closeAccess _ | .lookupAfterHandOn _ | .releasingAccess _ | .recallStart _ | .recallResolution _
  | .retireStart _ | .retireResolution _ | .repairStart _ | .repairResolution _ | .purgeStep _ | .leaveStep _
  | .retractResolution _ | .scrubIntervalExpiry | .scrubAccess _ | .inspectAccess _ | .lookupAccess _
  | .recallLineStart _ | .serviceResolution _ | .clearPoisonAccess _ | .clearSetAccess _ | .invalidOpcodeFrame
  | .frameCutShort => none

/-- The bits of a WRITE frame from the controller up to its last data bit: opcode, address, data (section 11.2). -/
def writeFrame (a : Addr) (v : Word) : BitVec 56 := 0x5c#8 ++ a ++ v

/-- The bits of a frame from the controller up to its last address bit: opcode and address (section 11.2). -/
def headFrame (opcode : BitVec 8) (a : Addr) : BitVec 24 := opcode ++ a

/-- The first `n` bits of a word, the most significant first: how they come in on SDI (R190). -/
def firstBits {w : Nat} (x : BitVec w) (n : Nat) : List Bool := (List.range n).map x.getMsbD

/-- The number that bits spell, the most significant first (R190). -/
def bitsValue (l : List Bool) : Nat := l.foldl (fun n b => 2 * n + b.toNat) 0

/-- What a frame comes to in the event that carries it out: a READ of an address, which is no row of the table, or a row. -/
inductive Carry where
  | read (a : Addr)
  | row (c : Instr)
  deriving DecidableEq, Repr

/-- What the frame comes to when the last of these bits is taken (R177, section 11.2): a READ and a frame of an invalid
opcode are carried out at the last address bit, bit 24, and a WRITE at its last data bit, bit 56; no other bit carries a
frame out. -/
def carryOf (bits : List Bool) : Option Carry :=
  let x := bitsValue bits
  if bits.length = 24 then
    if x / 2 ^ 16 = 0x3a then some (.read (BitVec.ofNat 16 x))
    else if x / 2 ^ 16 = 0x5c then none
    else some (.row .invalidOpcodeFrame)
  else if bits.length = 56 ∧ x / 2 ^ 48 = 0x5c then
    some (.row (writeRow (BitVec.ofNat 16 (x / 2 ^ 32)) (BitVec.ofNat 32 x)))
  else none

end Sys2Proof.Machine
end

