-- ==== Sys2Proof/Machine/Resets.lean ====
section
/-! DEFINITION. Power, warm reset and the clearing walk (chapter 9, section 1.6). -/

namespace Sys2Proof.Machine

/-- Every port changed by `f`. -/
def State.mapPorts (s : State) (f : Port → Port) : State := { s with ports := mapVec f s.ports }

/-- `f` applied for each port in turn. -/
def State.eachPort (s : State) (f : State → Agent → State) : State := allAgents.foldl f s

/-! ### Power (R168) -/

/-- Every piece of state at its power-on value; the clearing walk starts at once when RESET_N is high (R168, R175). -/
def State.powerOn (s : State) : State :=
  { State.reset with
    resetN := s.resetN, walk := if s.resetN then some 0 else none, spi := ⟨none, s.spi.pins⟩, pending := s.pending }

/-- PWROK low: no state is kept, the outputs are released, SDO is undriven (R168). -/
def State.powerOff (s : State) : State :=
  { State.reset with
    pwrok := false, resetN := s.resetN, walk := none, spi := ⟨none, s.spi.pins⟩, pending := s.pending }

/-- PWROK_RISE (R168). -/
def execPwrokRise (s : State) : Host.Outcome State Fault Refusal :=
  .next (if s.pwrok then s.clearOutputs else s.powerOn)

/-- PWROK_FALL (R168). -/
def execPwrokFall (s : State) : Host.Outcome State Fault Refusal :=
  .next (if s.pwrok then s.powerOff else s.clearOutputs)

/-! ### Warm reset (R169, R170) -/

/-- A port at the fall of RESET_N: OFF, with its enable, its link and its REQ_CREDITS kept (R129, R169). -/
def Port.warmReset (q : Port) : Port :=
  { Port.powerOn with enable := q.enable, link := q.link, reqCredits := q.reqCredits }

/-- A BUSY command ends FAILED with INIT; every other status is kept (R176). -/
def ServicePort.warmReset (v : ServicePort) : ServicePort :=
  { v with waiting := .nowhere, status := if v.status = .busy then .failed .init else v.status }

/-- The integrity unit at the fall of RESET_N: its pass counter is kept (R150). -/
def IntegrityUnit.warmReset (u : IntegrityUnit) : IntegrityUnit :=
  { IntegrityUnit.powerOn with passCounter := u.passCounter }

/-- The fall of RESET_N: all work in progress is discarded, the part enters INIT with the walk not started (R169). A frame
in progress runs on (R176). -/
def State.warmReset (s : State) : State :=
  { s.mapPorts Port.warmReset with
    part := .init
    walk := none
    tt := Vector.replicate 32 (Entry.freeOf 0)
    pool := Vector.replicate 64 none
    pause := false
    intake := []
    recallUnit := RecallUnit.idle
    purge := PurgeWalker.idle
    leave := LeaveWalker.idle
    integ := s.integ.warmReset
    svc := s.svc.warmReset
    claims := [] }

/-- RESET_N_FALL (R169). While PWROK is low the level alone changes (R175). -/
def execResetNFall (s : State) : Host.Outcome State Fault Refusal :=
  let s1 := { s.clearOutputs with resetN := false }
  .next (if s.pwrok ∧ s.resetN then s1.warmReset.evalOutputs else s1)

/-- RESET_N_RISE (R170). -/
def execResetNRise (s : State) : Host.Outcome State Fault Refusal :=
  let s1 := { s.clearOutputs with resetN := true }
  .next (if s.pwrok ∧ !s.resetN then { s1 with walk := some 0 }.eachPort State.bringUp else s1)

/-! ### The clearing walk (R20, R172) -/

/-- One access of the clearing walk on set `k` (R20, R134). -/
def State.clearSet (s : State) (k : SetIdx) : State :=
  { s.updSet k DirSet.clear with integ := { s.integ with damaged := 0, fenceMark := false } }

/-- The entry to RUN: every port in TRAINING enters ACTIVE (R172). -/
def State.enterRun (s : State) : State :=
  { s with part := .run, walk := none }.eachPort State.trainUp

/-- The walk has cleared set `k`: the next set is next, and after set 2047 the part enters RUN (R20, R172). -/
def State.walkOn (s : State) (k : SetIdx) : State :=
  if k.toNat = 2047 then s.enterRun else { s with walk := some (k + 1) }

/-- CLEARING_WALK_STEP (R20). -/
def execClearingWalkStep (s : State) : Host.Outcome State Fault Refusal :=
  .next (match s.walk with
    | some k => ((s.clearOutputs.clearSet k).walkOn k).finish
    | none => s.clearOutputs)

end Sys2Proof.Machine
end

