-- ==== Sys2Proof/Machine/Links.lean ====
section
/-! DEFINITION. The links and the request channel (chapters 2 and 6): presence and loss of a link, the checks of a
request at its arrival, and messages of no kind. -/

namespace Sys2Proof.Machine

/-! ### Presence and loss of the link (R106, R114) -/

/-- A link detected: recorded as present, and the port may come up (R106). -/
def State.linkUp (s : State) (p : Agent) : State := (s.updPort p fun q => { q with link := true }).bringUp p

/-- A link lost: the hold is cleared, an ACTIVE or LEAVING port is fenced, a TRAINING port goes OFF (R106, R114). -/
def State.linkDown (s : State) (p : Agent) : State :=
  let s1 := s.updPort p fun q => { q with link := false, rejoinHold := false }
  if (s.port p).state = .training then s1.updPort p fun q => { q with state := .off }
  else s1.fence p .linkLoss none none

/-- LINK_DETECTED (R106). -/
def execLinkDetected (p : Agent) (s : State) : Host.Outcome State Fault Refusal :=
  .next (if s.pwrok ∧ !(s.port p).link then (s.clearOutputs.linkUp p).finish else s.clearOutputs)

/-- LINK_LOSS (R106, R114). -/
def execLinkLoss (p : Agent) (s : State) : Host.Outcome State Fault Refusal :=
  .next (if s.pwrok ∧ (s.port p).link then (s.clearOutputs.linkDown p).finish else s.clearOutputs)

/-! ### Arrival of a message (R105, R107) -/

/-- A message discarded at a port that takes none: counted, unless it arrives while RESET_N is low (R107, R169). -/
def State.discard (s : State) (p : Agent) : State :=
  if s.resetN then s.updPort p fun q => { q with discards := min Config.discardMax (q.discards + 1) } else s

/-- A message arrives at port `p`: taken in ACTIVE and LEAVING, discarded in every other state; without power nothing
arrives (R105, R107, R168). -/
def State.arrive (s : State) (p : Agent) (take : State → State) : State :=
  if s.pwrok then
    if s.member p then (take s.clearOutputs).finish else s.clearOutputs.discard p
  else s.clearOutputs

/-! ### The request channel (R25, R109) -/

/-- The credit the request spends (R109). -/
def State.spendCredit (s : State) (p : Agent) : State := s.updPort p fun q => { q with credits := q.credits - 1 }

/-- A request answered at its arrival: its credit returns with the reply (R25, R110). That the reply goes out before the
credit is log 35. -/
def State.answerNow (s : State) (p : Agent) (m : OutMsg) : State := (s.send p m).returnCredit p

/-- A request-channel message without a credit (R109). -/
def State.creditOverrun (s : State) (p : Agent) (m : MsgCode) (l : Option Line) : State :=
  s.protocolError p .creditOverrun m l none

/-- The RANGE report of a request (R155). -/
def rangeReport (r : Request) : Report :=
  { kind := .range, agent := some r.port, line := some r.line, msg := some r.kind.code }

/-- A request whose line lies outside the covered window (R25, step 5). -/
def State.refuseRange (s : State) (r : Request) : State :=
  (s.answerNow r.port (if r.kind.needsGrant then .nack r.tag r.line .range else .ack r.tag r.line true)).report
    (rangeReport r)

/-- A request that passes every check joins the end of the intake queue, its tag the outstanding set (R25, step 6). -/
def State.joinIntake (s : State) (r : Request) : State :=
  { s.updPort r.port (fun q => { q with tags := addTo q.tags r.tag }) with intake := s.intake ++ [r] }

/-- The checks of a request that has spent a credit, in the order of R25. -/
def State.checkRequest (s : State) (r : Request) : State :=
  if has (s.port r.port).tags r.tag then
    (s.returnCredit r.port).protocolError r.port .tagInUse r.kind.code (some r.line) none
  else if s.part = .halted then s.answerNow r.port (.nack r.tag r.line .halted)
  else if r.kind.needsGrant ∧ (s.port r.port).state ≠ .active then s.answerNow r.port (.nack r.tag r.line .leaving)
  else if r.kind ≠ .leave ∧ !s.cfg.covers r.line then s.refuseRange r
  else s.joinIntake r

/-- A request arrives at a port that takes messages (R109, R25). -/
def State.takeRequest (s : State) (r : Request) : State :=
  if (s.port r.port).credits = 0 then s.creditOverrun r.port r.kind.code (some r.line)
  else (s.spendCredit r.port).checkRequest r

/-- The arrival of a request. -/
def State.requestArrives (s : State) (r : Request) : State := s.arrive r.port fun s => s.takeRequest r

/-- RD_SHARED (R22, R25). -/
def execRdShared (p : Agent) (tag : ReqTag) (line : Line) (s : State) : Host.Outcome State Fault Refusal :=
  .next (s.requestArrives ⟨p, .rdShared, tag, line, false⟩)

/-- RD_OWN (R22, R25). -/
def execRdOwn (p : Agent) (tag : ReqTag) (line : Line) (fullWrite : Bool) (s : State) :
    Host.Outcome State Fault Refusal :=
  .next (s.requestArrives ⟨p, .rdOwn, tag, line, fullWrite⟩)

/-- UPGRADE (R22, R25). -/
def execUpgrade (p : Agent) (tag : ReqTag) (line : Line) (s : State) : Host.Outcome State Fault Refusal :=
  .next (s.requestArrives ⟨p, .upgrade, tag, line, false⟩)

/-- WRITEBACK (R22, R25). -/
def execWriteback (p : Agent) (tag : ReqTag) (line : Line) (s : State) : Host.Outcome State Fault Refusal :=
  .next (s.requestArrives ⟨p, .writeback, tag, line, false⟩)

/-- DROP (R22, R25). -/
def execDrop (p : Agent) (tag : ReqTag) (line : Line) (s : State) : Host.Outcome State Fault Refusal :=
  .next (s.requestArrives ⟨p, .drop, tag, line, false⟩)

/-- LEAVE (R22, R25). -/
def execLeave (p : Agent) (tag : ReqTag) (line : Line) (s : State) : Host.Outcome State Fault Refusal :=
  .next (s.requestArrives ⟨p, .leave, tag, line, false⟩)

/-! ### Messages of no kind (R189) -/

/-- A message that fails the kind check: a request-channel message is checked for its credit first, and gets it back
(R109, R189). -/
def State.takeBadKind (s : State) (p : Agent) (m : MsgCode) : State :=
  if m.channel then s.protocolError p .badKind m none none
  else if (s.port p).credits = 0 then s.creditOverrun p m none
  else ((s.spendCredit p).returnCredit p).protocolError p .badKind m none none

/-- BAD_KIND (R189). -/
def execBadKind (p : Agent) (channel : Bool) (code : BitVec 3) (s : State) : Host.Outcome State Fault Refusal :=
  .next (s.arrive p fun s => s.takeBadKind p ⟨channel, code⟩)

end Sys2Proof.Machine
end

