-- ==== Sys2Proof/Machine/Responses.lean ====
section
/-! DEFINITION. The response channel and the timers of the table and the probe engine (chapters 2, 3 and 4). -/

namespace Sys2Proof.Machine

/-! ### DONE (R41) -/

/-- The DONE of agent `p` with number `n` is accepted (R41, R55). -/
def State.doneAccepted (s : State) (p : Agent) (n : Txn) : Bool :=
  let x := s.entry (txnIndex n)
  decide (x.phase = .awaitDone) && !x.closePending && decide (x.gen = txnGen n) && decide (x.kind = some .request)
    && decide (x.requester = .agent p)

/-- The wait for a DONE ends: the timer stops, the close claim is raised (R55). -/
def State.endWait (s : State) (e : EntryIdx) : State :=
  s.updEntry e fun x => { x with doneTimer := none, closePending := true }

/-- A DONE at a port that takes messages; discarded in HALTED (R41, R162). -/
def State.takeDone (s : State) (p : Agent) (n : Txn) : State :=
  if s.part = .halted then s
  else if s.doneAccepted p n then s.endWait (txnIndex n)
  else s.protocolError p .badDone ⟨true, 0⟩ none (some n)

/-- DONE (R41). -/
def execDone (p : Agent) (n : Txn) (s : State) : Host.Outcome State Fault Refusal :=
  .next (s.arrive p fun s => s.takeDone p n)

/-! ### Answers (R73, R74, R76) -/

/-- The STRAY_ANSWER report (R155). -/
def strayReport (p : Agent) (n : Txn) (l : Line) (m : MsgCode) : Report :=
  { kind := .strayAnswer, agent := some p, txn := some n, line := some l, msg := some m }

/-- An answer at a port that takes messages: its credit returns with the oldest send of its number, and it matches when
that send is of the current round and R74 holds; discarded in HALTED (R86). -/
def State.takeAnswer (s : State) (p : Agent) (n : Txn) (l : Line) (m : MsgCode) (ans : Answer) : State :=
  if s.part = .halted then s
  else
    match takeSend n (s.port p).sends with
    | none => s.report (strayReport p n l m)
    | some (x, rest) =>
      let s1 := s.updPort p fun q => { q with sends := rest }
      if !x.earlier && s1.answerMatches p n l then s1.endProbe (txnIndex n) p ans
      else s1.report (strayReport p n l m)

/-- ANS_CLEAN (R74). -/
def execAnsClean (p : Agent) (n : Txn) (line : Line) (s : State) : Host.Outcome State Fault Refusal :=
  .next (s.arrive p fun s => s.takeAnswer p n line ⟨true, 1⟩ .clean)

/-- ANS_WRITTEN (R74). -/
def execAnsWritten (p : Agent) (n : Txn) (line : Line) (s : State) : Host.Outcome State Fault Refusal :=
  .next (s.arrive p fun s => s.takeAnswer p n line ⟨true, 2⟩ .written)

/-- ANS_GONE (R74). -/
def execAnsGone (p : Agent) (n : Txn) (line : Line) (s : State) : Host.Outcome State Fault Refusal :=
  .next (s.arrive p fun s => s.takeAnswer p n line ⟨true, 3⟩ .gone)

/-! ### The probe timer (R78, R79) -/

/-- The probe of entry `e` to agent `a` written. -/
def State.setProbe (s : State) (e : EntryIdx) (a : Agent) (b : Probe) : State :=
  s.updEntry e fun x => { x with probes := x.probes.set a.val (some b) }

/-- What becomes of the message at an expiry that uses a retry (R78): a SENT probe is sent again, or its repeat joins
the front of the port's queue. -/
def State.repeatProbe (s : State) (e : EntryIdx) (a : Agent) (b : Probe) : State :=
  match b.status with
  | .sent =>
    if s.probeCredit a then s.sendProbe a e
    else (s.setProbe e a { b with status := .resendQueued }).updPort a fun q => { q with probeQueue := e :: q.probeQueue }
  | .queued => s
  | .resendQueued => s

/-- The PROBE_RETRY report (R155). -/
def State.retryReport (s : State) (e : EntryIdx) (a : Agent) (count : Nat) : Report :=
  { kind := .probeRetry, agent := some a, txn := some (s.txn e), line := (s.entry e).line, count := some count }

/-- The timer of probe `b` of entry `e` to agent `a` expires (R78, R79). -/
def State.probeExpires (s : State) (e : EntryIdx) (a : Agent) (b : Probe) : State :=
  if b.retries < s.cfg.probeRetries then
    let b1 := { b with retries := b.retries + 1, timer := Config.probeStep * s.cfg.probeTmo }
    ((s.setProbe e a b1).repeatProbe e a b1).report (s.retryReport e a b1.retries)
  else s.fence a .probeTimeout (some (s.txn e)) (s.entry e).line

/-- PROBE_TIMER_EXPIRY (R78). -/
def execProbeTimerExpiry (e : EntryIdx) (a : Agent) (s : State) : Host.Outcome State Fault Refusal :=
  .next (match (s.entry e).probes.get a with
    | some b => if s.part = .run then (s.clearOutputs.probeExpires e a b).finish else s.clearOutputs
    | none => s.clearOutputs)

/-! ### The DONE timer (R56) -/

/-- The DONE_TIMEOUT report (R155). -/
def State.doneTimeoutReport (s : State) (e : EntryIdx) : Report :=
  let x := s.entry e
  { kind := .doneTimeout, agent := x.agent?, txn := some (s.txn e), line := x.line, set := x.line.map setOf
    way := x.way }

/-- The DONE timer of entry `e` runs. -/
def State.doneTimerRuns (s : State) (e : EntryIdx) : Bool :=
  decide (s.part = .run) && decide ((s.entry e).phase = .awaitDone) && (s.entry e).doneTimer.isSome

/-- DONE_TIMEOUT (R56). -/
def execDoneTimeout (e : EntryIdx) (s : State) : Host.Outcome State Fault Refusal :=
  .next (if s.doneTimerRuns e then ((s.clearOutputs.endWait e).report (s.doneTimeoutReport e)).finish
    else s.clearOutputs)

end Sys2Proof.Machine
end

