-- ==== Sys2Proof/Machine/Scrub.lean ====
section
/-! DEFINITION. The patrol scrub (section 7.6) and the passing of time. -/

namespace Sys2Proof.Machine

/-! ### SCRUB_ACCESS (R148) -/

/-- What a completed pass does (R148): the flag, the counter, and every nonzero health count less 1. -/
def State.passDone (s : State) : State :=
  { s with
    dir := s.dir.mapSets DirSet.decay
    integ := { s.integ with passComplete := true, passCounter := s.integ.passCounter + 1 } }

/-- The end of the scrub access on set `k` (R147, R148): the claim is gone, the position advances, the timer starts. -/
def State.scrubOn (s : State) (k : SetIdx) : State :=
  let s1 := { s with integ := { s.integ with
    scrubClaim := none, scrubPos := k + 1, scrubTimer := some s.cfg.scrubInterval } }
  if k.toNat = 2047 then s1.passDone else s1

/-- SCRUB_ACCESS (R148): the checks, repairs and retirements of any access, and nothing more on the set. -/
def execScrubAccess (f : List CellFault) (s : State) : Host.Outcome State Fault Refusal :=
  .next (match s.due with
    | some .scrub => ((s.takeClaim.access s.integ.scrubPos f fun a => a.s).scrubOn s.integ.scrubPos).finish
    | _ => s.clearOutputs)

/-! ### SCRUB_INTERVAL_EXPIRY (R147) -/

/-- The interval timer expires: the next scrub claim is raised (R147). -/
def State.scrubRaise (s : State) : State :=
  { s with integ := { s.integ with scrubTimer := none, scrubClaim := some 0 } }

/-- SCRUB_INTERVAL_EXPIRY (R147). -/
def execScrubIntervalExpiry (s : State) : Host.Outcome State Fault Refusal :=
  .next (if s.part = .run ∧ s.integ.scrubTimer.isSome then s.clearOutputs.scrubRaise.finish else s.clearOutputs)

/-! ### The passing of 1 µs (log 1) -/

/-- One microsecond less. -/
def tickTimer (t : Nat) : Nat := t - 1

/-- A probe 1 µs later (R77). -/
def Probe.tick (b : Probe) : Probe := { b with timer := tickTimer b.timer }

/-- An entry 1 µs later (R55, R77). -/
def Entry.tick (x : Entry) : Entry :=
  { x with
    doneTimer := x.doneTimer.map tickTimer
    probes := mapVec (fun b => b.map Probe.tick) x.probes }

/-- The state 1 µs later: in RUN the running timers have 1 µs less left and a raised scrub claim is 1 µs older
(R19, R55, R77, R147); in INIT and HALTED time does nothing (R163, R167). -/
def State.tick (s : State) : State :=
  match s.part with
  | .run =>
    { s.clearOutputs with
      tt := mapVec Entry.tick s.tt
      integ := { s.integ with
        scrubTimer := s.integ.scrubTimer.map tickTimer
        scrubClaim := s.integ.scrubClaim.map fun t => t + 1 } }
  | .init => s.clearOutputs
  | .halted => s.clearOutputs

end Sys2Proof.Machine
end

