-- ==== Sys2Proof/Machine/Transactions.lean ====
section
/-! DEFINITION. The accesses of the intake head and of transactions with a requester (chapters 2 and 3): lookup,
resolution, close, hand-on lookup and RELEASING. -/

namespace Sys2Proof.Machine

/-! ### The lookup at the intake head (R26) -/

/-- The head request leaves the intake queue, its credit returns (R26, R110), ahead of the lookup's reply (log 35). -/
def State.leaveIntake (s : State) (r : Request) : State := { s with intake := s.intake.tail }.returnCredit r.port

/-- The WAIT_FULL report of an agent's request (R155). -/
def waitFullReport (r : Request) : Report :=
  { kind := .waitFull, agent := some r.port, line := some r.line, msg := some r.kind.code }

/-- The LOST_REFUSAL report of an agent's request (R137, R155). -/
def lostReport (r : Request) : Report :=
  { kind := .lostRefusal, agent := some r.port, line := some r.line, set := some (setOf r.line)
    msg := some r.kind.code }

/-- A request whose line is bound to entry `e` (R26, R51). -/
def State.waitOn (s : State) (r : Request) (e : EntryIdx) : State :=
  match s.freePool with
  | some i => s.joinWaiters e i (.request r)
  | none => (s.reply r.port r.tag (.nack r.tag r.line .waitFull)).report (waitFullReport r)

/-- A request whose unbound line misses in a LOST set (R13, R26). -/
def State.refuseLost (s : State) (r : Request) : State :=
  (s.reply r.port r.tag (.nack r.tag r.line .lost)).report (lostReport r)

/-- A request that needs a grant takes a FREE entry and is decided (R26, R27). -/
def State.beginRequest (s : State) (r : Request) (e : EntryIdx) : State :=
  (s.takeEntry e r.line .request (.agent r.port) (some (.agent r.kind r.tag r.fullWrite))).decideRequest e r false

/-- The outcome of the lookup of the head request (R26). Without a FREE entry a request that needs one stays (R49). -/
def intakeOutcome (r : Request) (a : Access) : State :=
  let s := a.s
  match s.boundEntry r.line with
  | some e => (s.leaveIntake r).waitOn r e
  | none =>
    if (s.findLine r.line).isNone ∧ (s.dirSet (setOf r.line)).lost then (s.leaveIntake r).refuseLost r
    else if r.kind.needsGrant then
      match s.freeEntry with
      | some e => (s.leaveIntake r).beginRequest r e
      | none => s
    else (s.leaveIntake r).decideNotice r

/-- INTAKE_LOOKUP (R26). -/
def execIntakeLookup (f : List CellFault) (s : State) : Host.Outcome State Fault Refusal :=
  .next (match s.due with
    | some (.intake r) => s.serve (setOf r.line) f (intakeOutcome r)
    | _ => s.clearOutputs)

/-! ### Resolutions of a REQUEST (R34, R97) -/

/-- The outcome of the resolution access of entry `e` (R34, R54). -/
def resolutionOutcome (e : EntryIdx) (a : Access) : State :=
  match a.s.requestOf e with
  | some r => a.s.resolveHeld e r false
  | none => a.s

/-- RESOLUTION_ACCESS (R34). -/
def execResolutionAccess (f : List CellFault) (s : State) : Host.Outcome State Fault Refusal :=
  .next (match s.due with
    | some (.resolution e) => s.serve (setOf (s.lineOfEntry e)) f (resolutionOutcome e)
    | _ => s.clearOutputs)

/-- The outcome of the resolution access of a parked entry: for a FENCED requester nothing is allocated and the access
is the close (R97, log 14). -/
def parkedOutcome (e : EntryIdx) (a : Access) : State :=
  if a.s.requesterFenced e then a.s.closeEntry (setOf (a.s.lineOfEntry e)) e
  else
    match a.s.requestOf e with
    | some r => a.s.resolveHeld e r true
    | none => a.s

/-- PARKED_RESOLUTION (R97). -/
def execParkedResolution (f : List CellFault) (s : State) : Host.Outcome State Fault Refusal :=
  .next (match s.due with
    | some (.parked e) => s.serve (setOf (s.lineOfEntry e)) f (parkedOutcome e)
    | _ => s.clearOutputs)

/-! ### The close (R58) -/

/-- The state of the record of entry `e`'s line, if it has one. -/
def State.recordState (s : State) (e : EntryIdx) : Option RecState :=
  match s.findLine (s.lineOfEntry e) with
  | some w => ((s.dirSet (setOf (s.lineOfEntry e))).record w).map Record.state
  | none => none

/-- The outcome of the close access of entry `e`: a granted REQUEST on a DAMAGED record repairs with its requester as
keep agent, every other entry closes (R58). -/
def closeOutcome (e : EntryIdx) (a : Access) : State :=
  let x := a.s.entry e
  if x.kind = some .request ∧ x.grantSent.isSome ∧ a.s.recordState e = some .damaged then
    a.s.startRepair e x.agent?
  else a.s.closeEntry (setOf (a.s.lineOfEntry e)) e

/-- CLOSE_ACCESS (R58). -/
def execCloseAccess (f : List CellFault) (s : State) : Host.Outcome State Fault Refusal :=
  .next (match s.due with
    | some (.close e) => s.serve (setOf (s.lineOfEntry e)) f (closeOutcome e)
    | _ => s.clearOutputs)

/-! ### The lookup after a hand-on (R53, R100) -/

/-- The SERVICE entry closes and RECALL_LINE completes with outcome `o` (R57, R100). -/
def State.closeRecall (s : State) (e : EntryIdx) (o : ResultOutcome) : State :=
  (s.completeRecall e o).closeEntry (setOf (s.lineOfEntry e)) e

/-- A SERVICE entry `e` on the record at way `w`: an INVALIDATE round, a repair, or no holders (R100). That a handed-on
RECALL_LINE which finds its line POISONED closes its entry in this access is log 36. -/
def State.serveRecall (s : State) (e : EntryIdx) (w : Way) (old : Record) : State :=
  match old.state with
  | .shared => (s.bind (setOf (s.lineOfEntry e)) w e).startRound e .invalidate old.holders false
  | .owned => (s.bind (setOf (s.lineOfEntry e)) w e).startRound e .invalidate old.holders false
  | .damaged => (s.bind (setOf (s.lineOfEntry e)) w e).startRepair e none
  | .poisoned => s.closeRecall e .noHolders

/-- A handed-on RECALL_LINE looks up its line (R100). -/
def State.handedRecall (s : State) (e : EntryIdx) : State :=
  match s.findLine (s.lineOfEntry e) with
  | some w =>
    match (s.dirSet (setOf (s.lineOfEntry e))).record w with
    | some old => s.serveRecall e w old
    | none => s
  | none => s.closeRecall e .absent

/-- The outcome of the lookup access of a handed-on entry (R53). -/
def handedOnOutcome (e : EntryIdx) (a : Access) : State :=
  if (a.s.entry e).kind = some .service then a.s.handedRecall e
  else if a.s.requesterFenced e then a.s.closeEntry (setOf (a.s.lineOfEntry e)) e
  else
    match a.s.requestOf e with
    | some r => a.s.decideRequest e r false
    | none => a.s

/-- LOOKUP_AFTER_HAND_ON (R53). -/
def execLookupAfterHandOn (f : List CellFault) (s : State) : Host.Outcome State Fault Refusal :=
  .next (match s.due with
    | some (.handedOn e) => s.serve (setOf (s.lineOfEntry e)) f (handedOnOutcome e)
    | _ => s.clearOutputs)

/-! ### RELEASING (R61) and CLEAR_POISON (R186) -/

/-- CLEAR_POISON decided on the record at way `w` (R186). -/
def State.clearPoisonOn (s : State) (k : SetIdx) (w : Way) (old : Record) : State :=
  match old.state with
  | .poisoned => (s.freeRec k w).completeWith .freed
  | .damaged => s.completeWith .damaged
  | .shared | .owned =>
    if old.poison then (s.writeRec k w { old with poison := false }).completeWith .cleared
    else s.completeWith .notPoisoned

/-- CLEAR_POISON decided on its line in an access (R186). -/
def State.decideClearPoison (s : State) (l : Line) : State :=
  match s.findLine l with
  | some w =>
    match (s.dirSet (setOf l)).record w with
    | some old => s.clearPoisonOn (setOf l) w old
    | none => s.completeWith .absent
  | none => s.completeWith .absent

/-- The one-access waiter in pool slot `i` leaves entry `e`'s list and is decided on the line of the entry it waits on
(R50, R61). -/
def State.decideWaiter (s : State) (e : EntryIdx) (i : PoolIdx) (rest : List PoolIdx) (w : Waiter) : State :=
  let s1 := (s.setWaiter i none).updEntry e fun x => { x with waiters := rest }
  match w with
  | .request r => s1.decideNotice { r with line := s.lineOfEntry e }
  | .clearPoison _ => s1.decideClearPoison (s.lineOfEntry e)
  | .recallLine _ => s1

/-- The waiter is decided in an access of its own (R50). -/
def Waiter.oneAccess : Waiter → Bool
  | .request r => r.kind.isNotice
  | .clearPoison _ => true
  | .recallLine _ => false

/-- The outcome of a RELEASING access of entry `e` (R61): the one-access waiter at the front, then the hand-on step. -/
def releasingOutcome (e : EntryIdx) (a : Access) : State :=
  let s := a.s
  let s1 :=
    match (s.entry e).waiters with
    | i :: rest =>
      match s.waiter i with
      | some w => if w.oneAccess then s.decideWaiter e i rest w else s
      | none => s
    | [] => s
  s1.handOn (setOf (s.lineOfEntry e)) e

/-- RELEASING_ACCESS (R61). -/
def execReleasingAccess (f : List CellFault) (s : State) : Host.Outcome State Fault Refusal :=
  .next (match s.due with
    | some (.releasing e) => s.serve (setOf (s.lineOfEntry e)) f (releasingOutcome e)
    | _ => s.clearOutputs)

end Sys2Proof.Machine
end

