-- ==== Sys2Proof/Machine/ServiceAccess.lean ====
section
/-! DEFINITION. The class 3 accesses that the maintenance commands make (sections 10.4 and 10.5). -/

namespace Sys2Proof.Machine

/-! ### INSPECT_ACCESS (R182) -/

/-- INSPECT's result, from the slot as the access has left it (R182, log 33). -/
def State.fillInspect (s : State) : State :=
  s.complete { Result.clear with slot := some ((s.dirSet s.svc.setArg).view s.svc.setArg s.svc.wayArg) }

/-- INSPECT_ACCESS (R182): the checks and the end of any access, then the result. -/
def execInspectAccess (f : List CellFault) (s : State) : Host.Outcome State Fault Refusal :=
  .next (if s.due = some (.service 1) then ((s.takeClaim.access s.svc.setArg f fun a => a.s).fillInspect).finish
    else s.clearOutputs)

/-! ### LOOKUP_ACCESS (R183) -/

/-- The LOST_REFUSAL report of a service command: no agent (R137, R155). -/
def lostServiceReport (l : Line) : Report := { kind := .lostRefusal, line := some l, set := some (setOf l) }

/-- The miss of a service command on line `l` is refused LOST: the line unbound, its set LOST (R13). -/
def State.missLost (s : State) (l : Line) : Bool := (s.boundEntry l).isNone && (s.dirSet (setOf l)).lost

/-- The result of LOOKUP on line `l` (R183, R192). -/
def State.lookupResult (s : State) (l : Line) : Result :=
  match s.findLine l with
  | some w => { Result.clear with
      outcome := .found, slot := some ((s.dirSet (setOf l)).view (setOf l) w), entry := s.boundEntry l }
  | none => { Result.clear with
      outcome := if s.missLost l then .lost else .absent, lost := some (s.dirSet (setOf l)).lost, entry := s.boundEntry l }

/-- What LOOKUP's access does before its end: a refused miss is reported (R137, R183). -/
def lookupOutcome (a : Access) : State :=
  if (a.s.findLine a.s.svc.lineArg).isNone ∧ a.s.missLost a.s.svc.lineArg then
    a.s.report (lostServiceReport a.s.svc.lineArg)
  else a.s

/-- LOOKUP's result, from the set as the access has left it (R183, log 33). -/
def State.fillLookup (s : State) : State := s.complete (s.lookupResult s.svc.lineArg)

/-- LOOKUP_ACCESS (R183): the checks and the end of any access, then the result. -/
def execLookupAccess (f : List CellFault) (s : State) : Host.Outcome State Fault Refusal :=
  .next (if s.due = some (.service 2) then
    ((s.takeClaim.access (setOf s.svc.lineArg) f lookupOutcome).fillLookup).finish
    else s.clearOutputs)

/-! ### RECALL_LINE_START (R100, R185) -/

/-- A service command joins the list of the entry that binds its line, or fails with WAIT_FULL (R51). -/
def State.serviceWaits (s : State) (e : EntryIdx) (w : Waiter) : State :=
  match s.freePool with
  | some i => (s.joinWaiters e i w).updSvc fun v => { v with waiting := .listed e }
  | none => s.fail .waitFull

/-- The miss of a service command ends it: LOST with its report, or ABSENT (R100, R186). -/
def State.serviceMiss (s : State) (l : Line) : State :=
  if s.missLost l then (s.completeWith .lost).report (lostServiceReport l) else s.completeWith .absent

/-- RECALL_LINE on a record that it must take back: the FREE entry with the lowest index runs it, or the command waits
for one (R100, R185). -/
def State.beginService (s : State) (l : Line) (w : Way) (r : Record) : State :=
  match s.freeEntry with
  | some e =>
    ((s.takeEntry e l .service .service (some .recallLine)).updSvc fun v => { v with waiting := .entry e }).serveRecall
      e w r
  | none => s.updSvc fun v => { v with waiting := .freeEntry }

/-- The outcome of RECALL_LINE's start access (R100). -/
def recallLineOutcome (a : Access) : State :=
  let s := a.s
  let l := s.svc.lineArg
  match s.boundEntry l with
  | some e => s.serviceWaits e (.recallLine l)
  | none =>
    match s.findLine l with
    | none => s.serviceMiss l
    | some w =>
      match (s.dirSet (setOf l)).record w with
      | some r => if r.state = .poisoned then s.completeWith .noHolders else s.beginService l w r
      | none => s

/-- RECALL_LINE_START (R100). -/
def execRecallLineStart (f : List CellFault) (s : State) : Host.Outcome State Fault Refusal :=
  .next (if s.due = some (.service 3) then s.serve (setOf s.svc.lineArg) f recallLineOutcome else s.clearOutputs)

/-! ### SERVICE_RESOLUTION (R101) -/

/-- The outcome of a SERVICE recall's resolution on its record (R101, log 26). -/
def State.resolveService (s : State) (k : SetIdx) (w : Way) (r : Record) (e : EntryIdx) : State :=
  match r.state with
  | .damaged => s.startRepair e none
  | .shared | .owned | .poisoned =>
    match r.lostOwner (s.entry e) with
    | some o =>
      ((s.writePoisoned k w r).reportPoison k w (lineOf k r.tag) (some o) (some (s.txn e))).closeRecall e .poisoned
    | none =>
      if r.poison then (s.writePoisoned k w r).closeRecall e .poisoned else (s.freeRec k w).closeRecall e .recalled

/-- The outcome of the resolution access of SERVICE entry `e`. -/
def serviceOutcome (e : EntryIdx) (a : Access) : State :=
  let s := a.s
  let k := setOf (s.lineOfEntry e)
  match s.findLine (s.lineOfEntry e) with
  | some w =>
    match (s.dirSet k).record w with
    | some r => s.resolveService k w r e
    | none => s
  | none => s.closeRecall e .absent

/-- SERVICE_RESOLUTION (R101). -/
def execServiceResolution (f : List CellFault) (s : State) : Host.Outcome State Fault Refusal :=
  .next (match s.due with
    | some (.serviceResolution e) => s.serve (setOf (s.lineOfEntry e)) f (serviceOutcome e)
    | _ => s.clearOutputs)

/-! ### CLEAR_POISON_ACCESS (R186) -/

/-- The outcome of CLEAR_POISON's first access (R186). -/
def clearPoisonOutcome (a : Access) : State :=
  let s := a.s
  let l := s.svc.lineArg
  match s.boundEntry l with
  | some e => s.serviceWaits e (.clearPoison l)
  | none => if (s.findLine l).isNone then s.serviceMiss l else s.decideClearPoison l

/-- CLEAR_POISON_ACCESS (R186). -/
def execClearPoisonAccess (f : List CellFault) (s : State) : Host.Outcome State Fault Refusal :=
  .next (if s.due = some (.service 4) then s.serve (setOf s.svc.lineArg) f clearPoisonOutcome else s.clearOutputs)

/-! ### CLEAR_SET_ACCESS (R184) -/

/-- The outcome of CLEAR_SET's access (R184): a mark that this access has set stays. -/
def clearSetOutcome (a : Access) : State :=
  let k := a.s.svc.setArg
  if a.marked then a.s.completeWith .relost
  else if (a.s.dirSet k).lost then (a.s.updSet k fun d => { d with lost := false }).completeWith .cleared
  else a.s.completeWith .wasClear

/-- CLEAR_SET_ACCESS (R184). -/
def execClearSetAccess (f : List CellFault) (s : State) : Host.Outcome State Fault Refusal :=
  .next (if s.due = some (.service 7) then s.serve s.svc.setArg f clearSetOutcome else s.clearOutputs)

end Sys2Proof.Machine
end

