-- ==== Sys2Proof/Machine/Recall.lean ====
section
/-! DEFINITION. The recall unit (chapter 5) and retirement by transaction (section 7.5): the start accesses of parked
and RETIRE items, and the resolutions of RECALL and RETIRE. -/

namespace Sys2Proof.Machine

/-! ### The unit's queue and its pending accesses -/

/-- The item leaves the recall start queue (R89). -/
def State.dropItem (s : State) (x : StartItem) : State :=
  { s with recallUnit := { s.recallUnit with queue := s.recallUnit.queue.erase x } }

/-- The pending access of entry `e` leaves the list, taken (R91). -/
def State.dropAccess (s : State) (e : EntryIdx) : State :=
  { s with recallUnit := { s.recallUnit with accesses := s.recallUnit.accesses.erase e } }

/-- An INVALIDATE round to the holders of the record at way `w`, or its repair (R68, R94, R138, R144). -/
def State.takeBack (s : State) (k : SetIdx) (w : Way) (r : Record) (e : EntryIdx) : State :=
  if r.state = .damaged then (s.bind k w e).startRepair e none
  else (s.bind k w e).startRound e .invalidate r.holders false

/-! ### RECALL_START (R92 to R95) -/

/-- Slot (`k`, `w`) is reserved for parked entry `p`, whose resolution claim is raised (R92, R97). -/
def State.reserveFor (s : State) (k : SetIdx) (w : Way) (p : EntryIdx) : State :=
  (s.updSet k fun d => d.setReservation w (some p)).updEntry p fun x => { x with slotClaim := true }

/-- The record may be a victim (R93): unbound, poison no. -/
def Slot.isVictim (x : Slot) : Bool :=
  match x.content with
  | some r => decide (x.bound = none) && !r.poison
  | none => false

/-- The victim: the first that may be one, from the end of the recency order (R93). -/
def DirSet.victim (d : DirSet) : Option Way := d.recency.reverse.find? fun w => (d.slot w).isVictim

/-- The NO_SLOT report (R95, R155). -/
def State.noSlotReport (s : State) (e : EntryIdx) (r : Request) : Report :=
  { kind := .noSlot, agent := some r.port, line := some r.line, set := some (setOf r.line), txn := some (s.txn e) }

/-- The parked request of entry `p` is refused and the entry closes (R95). -/
def State.refuseNoSlot (s : State) (k : SetIdx) (p : EntryIdx) : State :=
  match s.requestOf p with
  | some r =>
    (((s.reply r.port r.tag (.nack r.tag r.line .noSlot)).report (s.noSlotReport p r))).closeEntry k p
  | none => s.closeEntry k p

/-- A RECALL begun in entry `e` for parked entry `p`, on the victim at way `w` (R94). -/
def State.beginRecall (s : State) (k : SetIdx) (w : Way) (r : Record) (p e : EntryIdx) : State :=
  let s1 := s.takeEntry e (lineOf k r.tag) .recallVictim .none none
  { s1 with recallUnit := { s1.recallUnit with
    inFlight := s1.recallUnit.inFlight + 1
    serves := s1.recallUnit.serves.set e.val (some p) } }.takeBack k w r e

/-- The outcome of the start access of the parked item of entry `p` (R92). Without a FREE entry a start that needs one
stays (R49). -/
def recallStartOutcome (p : EntryIdx) (a : Access) : State :=
  let s := a.s
  let k := setOf (s.lineOfEntry p)
  let s1 := s.dropItem (.parked p)
  if s.requesterFenced p then s1.closeEntry k p
  else
    match (s.dirSet k).usableWay p with
    | some w => s1.reserveFor k w p
    | none =>
      match (s.dirSet k).victim with
      | some w =>
        match (s.dirSet k).record w, s.freeEntry with
        | some r, some e => s1.beginRecall k w r p e
        | some _, none => s
        | none, _ => s
      | none => s1.refuseNoSlot k p

/-- RECALL_START (R92). -/
def execRecallStart (f : List CellFault) (s : State) : Host.Outcome State Fault Refusal :=
  .next (match s.due with
    | some (.recallStart p) => s.serve (setOf (s.lineOfEntry p)) f (recallStartOutcome p)
    | _ => s.clearOutputs)

/-! ### RECALL_RESOLUTION (R96) -/

/-- The victim slot of RECALL `e` is freed with a reservation for the parked entry it serves (R96, R97). -/
def State.freeVictim (s : State) (k : SetIdx) (w : Way) (e : EntryIdx) : State :=
  match s.recallUnit.serves.get e with
  | some p => (s.freeRec k w).reserveFor k w p
  | none => s.freeRec k w

/-- The victim slot is withheld: the parked entry's item joins the front of the queue (R97). -/
def State.withhold (s : State) (e : EntryIdx) : State :=
  match s.recallUnit.serves.get e with
  | some p => s.queueParked p true
  | none => s

/-- A record written POISONED because its owner `o` was lost, and reported (R96, R101, R145). -/
def State.poisonLost (s : State) (k : SetIdx) (w : Way) (r : Record) (o : Agent) (e : EntryIdx) : State :=
  (s.writePoisoned k w r).reportPoison k w (lineOf k r.tag) (some o) (some (s.txn e))

/-- The outcome of a RECALL's resolution on the victim record (R96). -/
def State.resolveRecall (s : State) (k : SetIdx) (w : Way) (r : Record) (e : EntryIdx) : State :=
  if r.state = .damaged then s.startRepair e none
  else
    match r.lostOwner (s.entry e) with
    | some o => ((s.poisonLost k w r o e).withhold e).closeEntry k e
    | none => (s.freeVictim k w e).closeEntry k e

/-- The record of entry `e`'s line, with its way (R12). -/
def State.heldRecord (s : State) (e : EntryIdx) : Option (Way × Record) :=
  match s.findLine (s.lineOfEntry e) with
  | some w => ((s.dirSet (setOf (s.lineOfEntry e))).record w).map fun r => (w, r)
  | none => none

/-- The outcome of the resolution access of RECALL `e`. -/
def recallOutcome (e : EntryIdx) (a : Access) : State :=
  let s := a.s.dropAccess e
  let k := setOf (s.lineOfEntry e)
  match s.heldRecord e with
  | some (w, r) => s.resolveRecall k w r e
  | none => s.closeEntry k e

/-- RECALL_RESOLUTION (R96). -/
def execRecallResolution (f : List CellFault) (s : State) : Host.Outcome State Fault Refusal :=
  .next (match s.due with
    | some (.recallResolution e) => s.serve (setOf (s.lineOfEntry e)) f (recallOutcome e)
    | _ => s.clearOutputs)

/-! ### RETIRE_START (R144) -/

/-- A RETIRE or REPAIR begun in entry `e` on the record at way `w` (R99, R141, R144). -/
def State.beginStart (s : State) (k : SetIdx) (w : Way) (r : Record) (kind : EntryKind) (e : EntryIdx) : State :=
  (s.takeEntry e (lineOf k r.tag) kind .none none).takeBack k w r e

/-- A retirement that the full map denies (R144). -/
def State.denyRetire (s : State) (k : SetIdx) (w : Way) : State := s.report (s.slotReport .retireDenied k w)

/-- A poisoned record moved, or its slot put on the retire list to wait for room (R144 to R146). What is reported of a full
retired map when the entry is handed on, or when the retire list is full too, is log 15. -/
def State.moveOrWait (s : State) (k : SetIdx) (w : Way) : State :=
  match (s.dirSet k).moveTarget with
  | some v => s.moveRecord k w v
  | none => s.joinRetireList k w .waitRoom

/-- The outcome of a RETIRE start on a slot that holds record `r` (R144). -/
def State.retireRecord (s s1 : State) (k : SetIdx) (w : Way) (r : Record) : State :=
  if (s.slot k w).bound.isSome then s1.joinRetireList k w .waitUnbind
  else if r.retireByProbe then
    match s.freeEntry with
    | some e => s1.beginStart k w r .retire e
    | none => s
  else s1.moveOrWait k w

/-- The outcome of the start access of a RETIRE item (R144). -/
def retireStartOutcome (k : SetIdx) (w : Way) (a : Access) : State :=
  let s := a.s
  let s1 := s.dropItem (.retire k w)
  if (s.slot k w).mark ≠ .inService then s1
  else if !(s.dirSet k).mapHasRoom then s1.denyRetire k w
  else
    match (s.slot k w).content with
    | none => let y := s1.retireFree k w; y.1.report y.2
    | some r => s.retireRecord s1 k w r

/-- RETIRE_START (R144). -/
def execRetireStart (f : List CellFault) (s : State) : Host.Outcome State Fault Refusal :=
  .next (match s.due with
    | some (.retireStart k w) => s.serve k f (retireStartOutcome k w)
    | _ => s.clearOutputs)

/-! ### RETIRE_RESOLUTION (R145) -/

/-- The slot that a RETIRE has freed is withdrawn, or stays in service when the map has filled (R145). -/
def State.withdrawFreed (s : State) (k : SetIdx) (w : Way) : State :=
  let y := s.retireFree k w
  y.1.report y.2

/-- The outcome of a RETIRE's resolution on its record (R145). -/
def State.resolveRetire (s : State) (k : SetIdx) (w : Way) (r : Record) (e : EntryIdx) : State :=
  if r.state = .damaged then s.startRepair e none
  else
    match r.lostOwner (s.entry e) with
    | some o => ((s.poisonLost k w r o e).moveOrWait k w).closeEntry k e
    | none => ((s.freeRec k w).withdrawFreed k w).closeEntry k e

/-- The outcome of the resolution access of RETIRE `e`. -/
def retireOutcome (e : EntryIdx) (a : Access) : State :=
  let s := a.s.dropAccess e
  let k := setOf (s.lineOfEntry e)
  match s.heldRecord e with
  | some (w, r) => s.resolveRetire k w r e
  | none => s.closeEntry k e

/-- RETIRE_RESOLUTION (R145). -/
def execRetireResolution (f : List CellFault) (s : State) : Host.Outcome State Fault Refusal :=
  .next (match s.due with
    | some (.retireResolution e) => s.serve (setOf (s.lineOfEntry e)) f (retireOutcome e)
    | _ => s.clearOutputs)

end Sys2Proof.Machine
end

