-- ==== Sys2Proof/Machine/Repair.lean ====
section
/-! DEFINITION. The repair of DAMAGED records (section 7.4): the start of a REPAIR and the resolution of a repair round
for every kind of entry. -/

namespace Sys2Proof.Machine

/-! ### REPAIR_START (R141) -/

/-- The outcome of the start access of a REPAIR item (R141). -/
def repairStartOutcome (k : SetIdx) (t : Tag) (a : Access) : State :=
  let s := a.s
  let s1 := s.dropItem (.repair k t)
  match (s.dirSet k).findTag t with
  | none => s1
  | some w =>
    match s.wantsRepair k w, (s.dirSet k).record w, s.freeEntry with
    | some _, some r, some e => s1.beginStart k w r .repair e
    | some _, some _, none => s
    | some _, none, _ => s1
    | none, _, _ => s1

/-- REPAIR_START (R141). -/
def execRepairStart (f : List CellFault) (s : State) : Host.Outcome State Fault Refusal :=
  .next (match s.due with
    | some (.repairStart k t) => s.serve k f (repairStartOutcome k t)
    | _ => s.clearOutputs)

/-! ### REPAIR_RESOLUTION (R140) -/

/-- The result of a repair is poisoned (R140). -/
def State.repairPoisoned (s : State) (r : Record) (e : EntryIdx) : Bool :=
  r.poison || decide ((s.entry e).fenceGoneSet ≠ 0) || s.integ.fenceMark

/-- The POISON_CREATED report of a poisoned repair: the lowest fenced probed agent, if one caused it (R140, R155). That the
agent is supplied when the damage fence mark is set as well is log 39. -/
def State.repairReport (s : State) (k : SetIdx) (w : Way) (r : Record) (e : EntryIdx) : State :=
  s.reportPoison k w (lineOf k r.tag) (lowestAgent (s.entry e).fenceGoneSet) (some (s.txn e))

/-- The record that a repair with keep agent `a` writes (R140). -/
def keepRecord (r : Record) (a : Agent) (g : Option GrantKind) (poison : Bool) : Record :=
  ⟨r.tag, if g = some .own then .owned else .shared, only a, poison⟩

/-- The repair of a granted REQUEST: the keep agent's record, its way to the front, and the close (R140). -/
def State.repairKeep (s : State) (k : SetIdx) (w : Way) (r : Record) (e : EntryIdx) (a : Agent) (poison : Bool) :
    State :=
  let s1 := (s.writeRec k w (keepRecord r a (s.entry e).grantSent poison)).updSet k fun d => d.toFront w
  (if poison then s1.repairReport k w r e else s1).closeEntry k e

/-- The record written POISONED by a repair, and reported (R140). -/
def State.repairToPoison (s : State) (k : SetIdx) (w : Way) (r : Record) (e : EntryIdx) : State :=
  (s.writePoisoned k w r).repairReport k w r e

/-- A repair whose result is poisoned, by the entry's kind (R140). -/
def State.repairBad (s : State) (k : SetIdx) (w : Way) (r : Record) (e : EntryIdx) : State :=
  let s1 := s.repairToPoison k w r e
  match (s.entry e).kind with
  | some .request =>
    match s.requestOf e with
    | some q => s1.resolve e q none false
    | none => s1
  | some .recallVictim => (s1.withhold e).closeEntry k e
  | some .retire => (s1.moveOrWait k w).closeEntry k e
  | some .repair => s1.closeEntry k e
  | some .retract => s1.closeEntry k e
  | some .service => s1.closeRecall e .poisoned
  | none => s1

/-- A repair whose result is not poisoned, by the entry's kind (R140): the slot is freed. -/
def State.repairGood (s : State) (k : SetIdx) (w : Way) (e : EntryIdx) : State :=
  let s1 := s.freeRec k w
  match (s.entry e).kind with
  | some .request =>
    match s.requestOf e with
    | some q => s1.resolve e q (some w) false
    | none => s1
  | some .recallVictim => (s.freeVictim k w e).closeEntry k e
  | some .retire => (s1.withdrawFreed k w).closeEntry k e
  | some .repair => s1.closeEntry k e
  | some .retract => s1.closeEntry k e
  | some .service => s1.closeRecall e .recalled
  | none => s1

/-- A repair round of entry `e` resolves on the DAMAGED record at way `w` (R140). -/
def State.resolveRepair (s : State) (k : SetIdx) (w : Way) (r : Record) (e : EntryIdx) : State :=
  let poison := s.repairPoisoned r e
  let s1 := s.endDamage k w
  match (s.entry e).keep with
  | some a => s1.repairKeep k w r e a poison
  | none => if poison then s1.repairBad k w r e else s1.repairGood k w e

/-- The outcome of the resolution access of a repair round (R140): a tag rebuilt in this access starts a new round. -/
def repairOutcome (e : EntryIdx) (a : Access) : State :=
  let s := a.s.dropAccess e
  let k := setOf (s.lineOfEntry e)
  match s.heldRecord e with
  | some (w, r) => if a.rebuilt.contains w then s.startRepair e (s.entry e).keep else s.resolveRepair k w r e
  | none => s.closeEntry k e

/-- REPAIR_RESOLUTION (R140). -/
def execRepairResolution (f : List CellFault) (s : State) : Host.Outcome State Fault Refusal :=
  .next (match s.due with
    | some (.repairResolution e) => s.serve (setOf (s.lineOfEntry e)) f (repairOutcome e)
    | _ => s.clearOutputs)

end Sys2Proof.Machine
end

