-- ==== Sys2Proof/Machine/Walks.lean ====
section
/-! DEFINITION. The walk unit (sections 6.5 and 6.6): the purge walker's step, the leave walker's step, and the
resolution of a RETRACT. -/

namespace Sys2Proof.Machine

/-! ### PURGE_STEP (R120, R121) -/

/-- The members of the purge set (R119). -/
def State.purgeSet (s : State) : AgentSet := agentSet fun a => (s.purge.starts.get a).isSome

/-- What a purge step does to an unbound record (R120). -/
def State.purgeRecord (s : State) (k : SetIdx) (w : Way) (r : Record) : State :=
  match r.state with
  | .shared =>
    let h := r.holders &&& ~~~s.purgeSet
    if h = r.holders then s else if h = 0 then s.freeOrPoison k w r else s.writeRec k w { r with holders := h }
  | .owned =>
    match r.owner with
    | some o =>
      if has s.purgeSet o then (s.writePoisoned k w r).reportPoison k w (lineOf k r.tag) (some o) none else s
    | none => s
  | .poisoned => s
  | .damaged => s

/-- What a purge step does to one slot (R120): a bound record is left to its close. -/
def State.purgeSlot (k : SetIdx) (s : State) (w : Way) : State :=
  let x := s.slot k w
  match x.content with
  | some r => if x.bound = none then s.purgeRecord k w r else s
  | none => s

/-- The purge of agent `a` has visited all sets when the position reaches its start again (R121). -/
def State.purgeEnd (s : State) (a : Agent) : State :=
  if s.purge.starts.get a = some s.purge.pos then
    { s with purge := { s.purge with starts := s.purge.starts.set a.val none } }.updPort a fun q => { q with
      state := .fencedClean }
  else s

/-- The position advances by 1, and the members that have been walked leave the purge set (R120, R121). -/
def State.purgeOn (s : State) : State :=
  allAgents.foldl State.purgeEnd { s with purge := { s.purge with pos := s.purge.pos + 1 } }

/-- The outcome of a purge step on set `k` (R120). That it takes the records from way 0 to way 15, and so reports them in
that order, is log 42. -/
def purgeOutcome (k : SetIdx) (a : Access) : State := (allWays.foldl (State.purgeSlot k) a.s).purgeOn

/-- PURGE_STEP (R120). -/
def execPurgeStep (f : List CellFault) (s : State) : Host.Outcome State Fault Refusal :=
  .next (match s.due with
    | some .purge => s.serve s.purge.pos f (purgeOutcome s.purge.pos)
    | _ => s.clearOutputs)

/-! ### LEAVE_STEP (R125, R126) -/

/-- The record may hold agent `p` (R125). -/
def Record.mayHold (r : Record) (p : Agent) : Bool :=
  match r.state with
  | .shared => has r.holders p
  | .owned => has r.holders p
  | .poisoned => false
  | .damaged => true

/-- Slot (`k`, `w`) holds a record that may hold agent `p`. -/
def DirSet.mayHold (d : DirSet) (p : Agent) (w : Way) : Bool :=
  match d.record w with
  | some r => r.mayHold p
  | none => false

/-- The lowest way whose record may hold agent `p` and is unbound (R125). -/
def DirSet.leaveWay (d : DirSet) (p : Agent) : Option Way :=
  allWays.find? fun w => d.mayHold p w && decide ((d.slot w).bound = none)

/-- Entry `e` runs a RETRACT for agent `p` (R125). -/
def State.retractsFor (s : State) (p : Agent) (e : EntryIdx) : Bool :=
  let x := s.entry e
  x.inUse && decide (x.kind = some .retract) && decide (x.target = some p)

/-- The lowest entry, not a RETRACT of this walk, that binds a record that may hold agent `p` (R125). -/
def State.leaveBlocker (s : State) (d : DirSet) (p : Agent) : Option EntryIdx :=
  allEntries.find? fun e => !s.retractsFor p e
    && allWays.any fun w => d.mayHold p w && decide ((d.slot w).bound = some e)

/-- The leave walker waits (R125). -/
def State.leaveWaits (s : State) (x : LeaveWait) : State := { s with leave := { s.leave with wait := x } }

/-- The position advances by 1; after set 2047 the walk is complete (R125), and the position then shows 0 (log 37). -/
def State.leaveOn (s : State) : State :=
  { s with leave := { s.leave with pos := s.leave.pos + 1, complete := decide (s.leave.pos.toNat = 2047) } }

/-- A RETRACT begun in entry `e` for agent `p` on the record at way `w` (R125, R126). -/
def State.beginRetract (s : State) (k : SetIdx) (w : Way) (r : Record) (p : Agent) (e : EntryIdx) : State :=
  let s1 := (s.takeEntry e (lineOf k r.tag) .retract .none none).updEntry e fun x => { x with target := some p }
  let s2 := { s1 with
    recallUnit := { s1.recallUnit with inFlight := s1.recallUnit.inFlight + 1 }
    leave := { s1.leave with retracts := s1.leave.retracts + 1 } }
  if r.state = .damaged then (s2.bind k w e).startRepair e none
  else (s2.bind k w e).startRound e .invalidate (only p) false

/-- The outcome of a leave step on set `k` for agent `p` (R125). -/
def leaveOutcome (k : SetIdx) (p : Agent) (a : Access) : State :=
  let s := a.s
  let d := s.dirSet k
  match d.leaveWay p with
  | some w =>
    match d.record w, s.freeEntry with
    | some r, some e =>
      if s.recallUnit.inFlight < s.cfg.recallBudget then s.beginRetract k w r p e else s.leaveWaits .room
    | some _, none => s.leaveWaits .room
    | none, _ => s
  | none =>
    match s.leaveBlocker d p with
    | some e => s.leaveWaits (.noted e)
    | none => s.leaveOn

/-- LEAVE_STEP (R125). -/
def execLeaveStep (f : List CellFault) (s : State) : Host.Outcome State Fault Refusal :=
  .next (match s.due with
    | some (.leave p) => s.serve s.leave.pos f (leaveOutcome s.leave.pos p)
    | _ => s.clearOutputs)

/-! ### RETRACT_RESOLUTION (R126) -/

/-- A RETRACT's resolution on its record, the leaving agent `p` having answered (R126). -/
def State.retractFrom (s : State) (k : SetIdx) (w : Way) (r : Record) (p : Agent) : State :=
  match r.state with
  | .shared => if has r.holders p then s.removeHolder k w r p else s
  | .owned => if r.holders = only p then s.freeOrPoison k w r else s
  | .poisoned => s
  | .damaged => s

/-- The outcome of a RETRACT's resolution for agent `p` (R126): with fence GONE the close filter alone acts. -/
def State.resolveRetract (s : State) (k : SetIdx) (w : Way) (r : Record) (e : EntryIdx) (p : Agent) : State :=
  if r.state = .damaged then s.startRepair e none
  else if (s.entry e).fenceGoneOf p then s.closeEntry k e
  else (s.retractFrom k w r p).closeEntry k e

/-- The outcome of the resolution access of RETRACT `e`. -/
def retractOutcome (e : EntryIdx) (a : Access) : State :=
  let s := a.s
  let k := setOf (s.lineOfEntry e)
  match s.heldRecord e, (s.entry e).target with
  | some (w, r), some p => s.resolveRetract k w r e p
  | some _, none => s.closeEntry k e
  | none, _ => s.closeEntry k e

/-- RETRACT_RESOLUTION (R126). -/
def execRetractResolution (f : List CellFault) (s : State) : Host.Outcome State Fault Refusal :=
  .next (match s.due with
    | some (.retractResolution e) => s.serve (setOf (s.lineOfEntry e)) f (retractOutcome e)
    | _ => s.clearOutputs)

end Sys2Proof.Machine
end

