-- ==== Sys2Proof/Machine/Dispatch.lean ====
section
/-! DEFINITION. The meaning of every command, one arm a command. -/

namespace Sys2Proof.Machine

/-- What a command does to the state, its queue left alone. -/
def exec (i : Instr) (s : State) : Host.Outcome State Fault Refusal :=
  match i with
  | .pwrokRise => Sys2Proof.Machine.execPwrokRise s
  | .pwrokFall => Sys2Proof.Machine.execPwrokFall s
  | .resetNFall => Sys2Proof.Machine.execResetNFall s
  | .resetNRise => Sys2Proof.Machine.execResetNRise s
  | .clearingWalkStep => Sys2Proof.Machine.execClearingWalkStep s
  | .linkDetected p => Sys2Proof.Machine.execLinkDetected p s
  | .linkLoss p => Sys2Proof.Machine.execLinkLoss p s
  | .rdShared p tag line => Sys2Proof.Machine.execRdShared p tag line s
  | .rdOwn p tag line fullWrite => Sys2Proof.Machine.execRdOwn p tag line fullWrite s
  | .upgrade p tag line => Sys2Proof.Machine.execUpgrade p tag line s
  | .writeback p tag line => Sys2Proof.Machine.execWriteback p tag line s
  | .drop p tag line => Sys2Proof.Machine.execDrop p tag line s
  | .leave p tag line => Sys2Proof.Machine.execLeave p tag line s
  | .badKind p channel code => Sys2Proof.Machine.execBadKind p channel code s
  | .done p n => Sys2Proof.Machine.execDone p n s
  | .ansClean p n line => Sys2Proof.Machine.execAnsClean p n line s
  | .ansWritten p n line => Sys2Proof.Machine.execAnsWritten p n line s
  | .ansGone p n line => Sys2Proof.Machine.execAnsGone p n line s
  | .probeTimerExpiry e a => Sys2Proof.Machine.execProbeTimerExpiry e a s
  | .intakeLookup f => Sys2Proof.Machine.execIntakeLookup f s
  | .resolutionAccess f => Sys2Proof.Machine.execResolutionAccess f s
  | .parkedResolution f => Sys2Proof.Machine.execParkedResolution f s
  | .doneTimeout e => Sys2Proof.Machine.execDoneTimeout e s
  | .closeAccess f => Sys2Proof.Machine.execCloseAccess f s
  | .lookupAfterHandOn f => Sys2Proof.Machine.execLookupAfterHandOn f s
  | .releasingAccess f => Sys2Proof.Machine.execReleasingAccess f s
  | .recallStart f => Sys2Proof.Machine.execRecallStart f s
  | .recallResolution f => Sys2Proof.Machine.execRecallResolution f s
  | .retireStart f => Sys2Proof.Machine.execRetireStart f s
  | .retireResolution f => Sys2Proof.Machine.execRetireResolution f s
  | .repairStart f => Sys2Proof.Machine.execRepairStart f s
  | .repairResolution f => Sys2Proof.Machine.execRepairResolution f s
  | .purgeStep f => Sys2Proof.Machine.execPurgeStep f s
  | .leaveStep f => Sys2Proof.Machine.execLeaveStep f s
  | .retractResolution f => Sys2Proof.Machine.execRetractResolution f s
  | .scrubIntervalExpiry => Sys2Proof.Machine.execScrubIntervalExpiry s
  | .scrubAccess f => Sys2Proof.Machine.execScrubAccess f s
  | .inspect => Sys2Proof.Machine.execInspect s
  | .inspectAccess f => Sys2Proof.Machine.execInspectAccess f s
  | .lookup => Sys2Proof.Machine.execLookup s
  | .lookupAccess f => Sys2Proof.Machine.execLookupAccess f s
  | .recallLine => Sys2Proof.Machine.execRecallLine s
  | .recallLineStart f => Sys2Proof.Machine.execRecallLineStart f s
  | .serviceResolution f => Sys2Proof.Machine.execServiceResolution f s
  | .clearPoison => Sys2Proof.Machine.execClearPoison s
  | .clearPoisonAccess f => Sys2Proof.Machine.execClearPoisonAccess f s
  | .fence => Sys2Proof.Machine.execFence s
  | .unfence => Sys2Proof.Machine.execUnfence s
  | .clearSet => Sys2Proof.Machine.execClearSet s
  | .clearSetAccess f => Sys2Proof.Machine.execClearSetAccess f s
  | .scrubStart => Sys2Proof.Machine.execScrubStart s
  | .scrubStop => Sys2Proof.Machine.execScrubStop s
  | .clearErrors => Sys2Proof.Machine.execClearErrors s
  | .windowApply v => Sys2Proof.Machine.execWindowApply v s
  | .reqCreditsWrite p v => Sys2Proof.Machine.execReqCreditsWrite p v s
  | .portEnableWrite v => Sys2Proof.Machine.execPortEnableWrite v s
  | .probeCreditsWrite v => Sys2Proof.Machine.execProbeCreditsWrite v s
  | .admitWrite m v => Sys2Proof.Machine.execAdmitWrite m v s
  | .recallBudgetWrite v => Sys2Proof.Machine.execRecallBudgetWrite v s
  | .maskRoutingWrite k v => Sys2Proof.Machine.execMaskRoutingWrite k v s
  | .counterWrite k v => Sys2Proof.Machine.execCounterWrite k v s
  | .discardCounterWrite p v => Sys2Proof.Machine.execDiscardCounterWrite p v s
  | .registerWrite a v => Sys2Proof.Machine.execRegisterWrite a v s
  | .invalidOpcodeFrame => Sys2Proof.Machine.execInvalidOpcodeFrame s
  | .frameCutShort => Sys2Proof.Machine.execFrameCutShort s

end Sys2Proof.Machine
end

