-- ==== Sys2Proof/Machine/Frames.lean ====
section
/-! DEFINITION. The frames of the service port bit by bit (R177, R178, R190): what each event on its pins does. -/

namespace Sys2Proof.Machine

/-- A bit is taken from SDI (R177). The bit that carries its frame out is the event of the frame's row, or of a READ, which
fixes the answer and changes no state of the part (R178); every bit after it is ignored. -/
def State.takeBit (s : State) (b : Bool) : Host.Outcome State Fault Refusal :=
  match s.spi.frame with
  | none => .next s.clearOutputs
  | some (.carried n sdo) => .next (s.clearOutputs.setFrame (some (.carried (n + 1) sdo)))
  | some (.taking bits) =>
    match carryOf (bits ++ [b]) with
    | none => .next (s.clearOutputs.setFrame (some (.taking (bits ++ [b]))))
    | some (.read a) => .next (s.clearOutputs.setFrame (some (.carried 24 (s.readFrame a))))
    | some (.row c) => exec c s

/-- One event on the pins of the service port (R177); while PWROK is low the part answers none (R168). -/
def State.pinStep (s : State) (p : Pin) : Host.Outcome State Fault Refusal :=
  if s.pwrok then
    match p with
    | .csFall => .next (s.clearOutputs.setFrame (some (.taking [])))
    | .bit b => s.takeBit b
    | .csRise => .next (s.clearOutputs.setFrame none)
  else .next s.clearOutputs

/-- The bit that the frame drives on SDO for the controller's next sample: zeros until it is carried out and past its bit 64
(R177, R190). -/
def Frame.sdoBit : Frame → Bool
  | .taking _ => false
  | .carried n sdo => sdo.getMsbD n

/-- The level of SDO; none where the port does not drive it: while PWROK is low (R168), and with no frame in progress
(log 43). -/
def State.sdo (s : State) : Option Bool := if s.pwrok then s.spi.frame.map Frame.sdoBit else none

end Sys2Proof.Machine
end

