-- ==== Sys2Proof/Machine/Step.lean ====
section
/-! DEFINITION. One step: the command at the front of the queue, or the next event on the service port's pins, or 1 µs. -/

namespace Sys2Proof.Machine

/-- One step (logs 1 and 29): the front command is taken from the queue and carried out on what is left; on an empty queue
the next event on the pins of the service port takes place, and where none waits 1 µs passes. -/
def step (s : State) : Host.Outcome State Fault Refusal :=
  match s.pending with
  | c :: rest => exec c { s with pending := rest }
  | [] =>
    match s.spi.pins with
    | p :: rest => ({ s with spi := { s.spi with pins := rest } } : State).pinStep p
    | [] => .next s.tick

/-- The state with the command that a table word spells at the front of its queue; no word spells one (log 31). -/
def State.withFetchWord (s : State) (nbits w : Nat) : State :=
  match decodeTableWord nbits w with
  | some c => { s with pending := c :: s.pending }
  | none => s

end Sys2Proof.Machine
end

