-- ==== Sys2Proof/Safety.lean ====
section
/-! DEFINITION. The laws of the part that its state keeps (section 0.7): what the invariants of the certificates say. -/

namespace Sys2Proof.Machine

/-- The law of R3: a SHARED record has a holder, an OWNED record exactly one, a POISONED record none and its flag set;
the holders of a DAMAGED record are disregarded. -/
def Record.lawful (r : Record) : Prop :=
  match r.state with
  | .shared => r.holders ≠ 0
  | .owned => ∃ a : Agent, r.holders = only a
  | .poisoned => r.holders = 0 ∧ r.poison = true
  | .damaged => True

/-- Every record of the set keeps the law of R3. -/
def DirSet.lawful (d : DirSet) : Prop := ∀ (w : Way) (r : Record), d.record w = some r → r.lawful

/-- A port but for its probe queue and its outstanding sends. -/
def Port.still (x : Port) : Port := { x with probeQueue := [], sends := [] }

/-- An entry but for its probes. -/
def Entry.still (x : Entry) : Entry := { x with probes := Vector.replicate 8 none }

/-- An entry but for its list of waiters and its probes' statuses. -/
def Entry.core (x : Entry) : Entry := { x with waiters := [], probes := Vector.replicate 8 none }

/-- Every record of the directory keeps the law of R3, and the directory is in its canonical form. -/
def State.lawful (s : State) : Prop := s.dir.wf = true ∧ ∀ j : Nat, (s.dir.find j).lawful

/-- Every setting lies in its range (R1, R19, R56, R64, R72, R77, R90, R142, R147). -/
def Settings.legal (c : Settings) : Bool :=
  decide (1 ≤ c.winCount.toNat) && decide (c.winBase.toNat + c.winCount.toNat ≤ 2 ^ 38)
    && decide (1 ≤ c.probeCredits) && decide (c.probeCredits ≤ 16)
    && decide (1 ≤ c.probeTmo) && decide (c.probeTmo ≤ 1023) && decide (c.probeRetries ≤ 3)
    && decide (1 ≤ c.doneTmo) && decide (c.doneTmo ≤ 1023)
    && decide (1 ≤ c.admitLow) && decide (c.admitLow < c.admitHigh) && decide (c.admitHigh ≤ 31)
    && decide (1 ≤ c.recallBudget) && decide (c.recallBudget ≤ 8) && decide (c.retireTh ≤ 15)
    && decide (1 ≤ c.scrubInterval) && decide (c.scrubInterval ≤ 1023)
    && decide (1 ≤ c.scrubStarve) && decide (c.scrubStarve ≤ 255)

/-- The two alert outputs follow the capture, the routings and the part state (R157, R158). -/
def State.outputsLawful (s : State) : Prop :=
  s.err.notice = s.err.noticeLevel ∧ s.err.fault = (decide (s.part = .halted) || s.err.faultLevel)

/-- The number of items of port `p` in the intake queue (R113). -/
def State.queuedOf (s : State) (p : Agent) : Nat := (s.intake.filter fun r => decide (r.port = p)).length

/-- The law of R111: in ACTIVE and LEAVING the agent's credits plus its items in the intake queue are its REQ_CREDITS
value. Outside HALTED, a port in any other state has no item in the queue (R113). A member of the purge set is FENCED
(R116, R121), and outside HALTED the leave walker serves a port in WALK (R124, R127, R128). The clearing walk runs in INIT
alone, with power good and RESET_N high (R168, R169, R172), and while RESET_N is low the part is in INIT (R169). -/
def State.creditsLawful (s : State) : Prop :=
  (∀ p : Agent, s.member p = true → (s.port p).credits + s.queuedOf p = (s.port p).reqCredits)
    ∧ (s.part ≠ .halted → ∀ p : Agent, s.member p = false → s.queuedOf p = 0)
    ∧ (∀ a : Agent, (s.purge.starts.get a).isSome = true → (s.port a).state = .fenced)
    ∧ (s.part ≠ .halted → ∀ p : Agent, s.leave.port = some p → (s.port p).state = .leaving .walk)
    ∧ (s.walk ≠ none → s.part = .init ∧ s.pwrok = true ∧ s.resetN = true)
    ∧ (s.pwrok = true → s.resetN = false → s.part = .init)

/-- The sum of the REQ_CREDITS values (R111). -/
def State.creditTotal (s : State) : Nat := (allAgents.map fun p => (s.port p).reqCredits).sum

/-- The state of an access on set `k` after its integrity checks, as the claimant's outcome finds it (R11, R131). -/
def State.checked (s : State) (k : SetIdx) (f : List CellFault) : State := (s.takeClaim.beginAccess k f).s

/-- The access on set `k` judges no occupied slot for retirement and no item of the retire list lies in the set, so what
the claimant writes is what the access leaves (R142, R143). -/
def State.undisturbed (s : State) (k : SetIdx) (f : List CellFault) : Prop :=
  (s.takeClaim.beginAccess k f).judge = [] ∧ ∀ i ∈ s.integ.retireList, i.set ≠ k

/-- No port of the domain has a probe in its queue and a free probe credit: what can be sent has been sent (R72). -/
def State.pumped (s : State) : Prop :=
  ∀ p : Agent, s.member p = true → (s.port p).probeQueue ≠ [] → s.probeCredit p = false

/-- In RUN nothing is left over that a block does at once: no queued probe finds a free credit, no LEAVE stands at a
served head of the intake queue, no finished departure waits for its LEAVE_DONE, and no drained port waits for the idle
leave walker (R72, R112, R124, R127). -/
def State.calm (s : State) : Prop :=
  s.part = .run → s.pumped ∧
    (∀ r : Request, s.intake.head? = some r → r.kind = .leave → s.pause = true)
      ∧ (∀ p : Agent, s.leave.port = some p → s.leaveDoneReady p = false)
      ∧ (∀ p : Agent, s.leave.order.head? = some p → s.leave.port = none → (s.port p).state = .leaving .drain →
        s.hasTransaction p = true)

/-- No LEAVE waits in the intake queue. -/
def State.noLeave (s : State) : Prop := ∀ r ∈ s.intake, r.kind ≠ .leave

/-- The port that a message command arrives at. -/
def messagePort : Instr → Option Agent := fun i => (encodeMessage i).map Prod.fst

/-- The command that a request arrives by. -/
def Request.command (r : Request) : Instr :=
  match r.kind with
  | .rdShared => .rdShared r.port r.tag r.line
  | .rdOwn => .rdOwn r.port r.tag r.line r.fullWrite
  | .upgrade => .upgrade r.port r.tag r.line
  | .writeback => .writeback r.port r.tag r.line
  | .drop => .drop r.port r.tag r.line
  | .leave => .leave r.port r.tag r.line

/-- Only RD_OWN carries a full-write flag (R22). -/
def Request.spelled (r : Request) : Prop := r.kind ≠ .rdOwn → r.fullWrite = false

/-- The record of slot (`k`, `w`), if the slot holds one. -/
def State.recordAt (s : State) (k : SetIdx) (w : Way) : Option Record := (s.dirSet k).record w

/-- `r` at way `w` is the record of line `l`, the only one of its set with that tag (R1, R12). -/
def State.onLine (s : State) (l : Line) (w : Way) (r : Record) : Prop :=
  s.findLine l = some w ∧ s.recordAt (setOf l) w = some r
    ∧ ∀ v q, s.recordAt (setOf l) v = some q → q.tag = tagOf l → v = w

/-- The record of line `l`, if there is one, is bound as `b` says (R6). -/
def State.lineBound (s : State) (l : Line) (b : Option EntryIdx) : Prop :=
  ∀ w, s.findLine l = some w → (s.slot (setOf l) w).bound = b

/-- A POISONED record with this tag (R3). -/
def poisonedRecord (t : Tag) : Record := ⟨t, .poisoned, 0, true⟩

/-- A record that loses holders and keeps `h`: written with them, and with none left freed, or POISONED when its flag is
set (R3). -/
def Record.leftWith (r : Record) (h : AgentSet) : Option Record :=
  if h ≠ 0 then some { r with holders := h } else if r.poison then some (poisonedRecord r.tag) else none

/-- The tables of notices (R36 to R39): whether the ACK is STALE, and what becomes of the record. -/
def noticeTable (kind : ReqKind) (a : Agent) : Option Record → Bool × Option Record
  | none => (true, none)
  | some r =>
    match r.state with
    | .shared =>
      if kind = .drop ∧ has r.holders a = true then (false, r.leftWith (without r.holders a)) else (true, some r)
    | .owned => if r.holders = only a then (false, r.leftWith 0) else (true, some r)
    | .poisoned => (true, some r)
    | .damaged => (false, some r)

/-- The table of CLEAR_POISON (R186): its outcome, and what becomes of the record. -/
def clearPoisonTable : Option Record → ResultOutcome × Option Record
  | none => (.absent, none)
  | some r =>
    match r.state with
    | .poisoned => (.freed, none)
    | .damaged => (.damaged, some r)
    | .shared | .owned => if r.poison then (.cleared, some { r with poison := false }) else (.notPoisoned, some r)

/-- What the close filter makes of a record, `fenced` being the agents cut off (R58). -/
def closeTable (fenced : AgentSet) (r : Record) : Option Record :=
  match r.state with
  | .shared => r.leftWith (r.holders &&& ~~~fenced)
  | .owned => if (r.owner.any fun a => has fenced a) then some (poisonedRecord r.tag) else some r
  | .poisoned => some r
  | .damaged => some r

/-- The POISON_CREATED report of a record (R155). -/
def poisonReport (k : SetIdx) (w : Way) (t : Tag) (a : Option Agent) (n : Option Txn) : Report :=
  { kind := .poisonCreated, line := some (lineOf k t), set := some k, way := some w, agent := a, txn := n }

/-- What a fence of port `p` for cause `c` leaves in RUN, from the state `s` before it (R115): the port FENCED without
tags, credits, queued probes or sends, its snapshot the entries then in use; none of its requests queued or waiting; each
of its pending probes ended with fence GONE; its leave abandoned (R128). An agent with an empty snapshot joins the purge
set at the walker's position (R119), and DAMAGED records set the damage fence mark (R134). -/
def State.cutOff (s t : State) (p : Agent) (c : FenceCause) : Prop :=
  (t.port p).state = .fenced ∧ (t.port p).tags = 0 ∧ (t.port p).credits = 0 ∧ (t.port p).probeQueue = []
    ∧ (t.port p).sends = [] ∧ (t.port p).lastFence = some c ∧ (t.port p).snapshot = s.inUseSet
    ∧ (∀ r ∈ t.intake, r.port ≠ p) ∧ (∀ i r, t.waiter i = some (.request r) → r.port ≠ p)
    ∧ (∀ e, has (s.entry e).pendingSet p = true →
        has (t.entry e).pendingSet p = false ∧ (t.entry e).answers.get p = some .fenceGone)
    ∧ t.leave.port ≠ some p
    ∧ (s.inUseSet = 0 → t.purge.starts.get p = some s.purge.pos ∧ t.purge.pos = s.purge.pos
        ∧ ∀ a, a ≠ p → t.purge.starts.get a = s.purge.starts.get a)
    ∧ (s.inUseSet ≠ 0 → t.purge = s.purge)
    ∧ t.integ.fenceMark = (s.integ.fenceMark || decide (0 < s.integ.damaged))

/-- What a fence of port `p` for cause `c` leaves in HALTED, where the table, the queue and the walkers stand still
(R86, R118; log 18). -/
def State.cutOffHalted (s t : State) (p : Agent) (c : FenceCause) : Prop :=
  (t.port p).state = .fenced ∧ (t.port p).tags = 0 ∧ (t.port p).credits = 0 ∧ (t.port p).probeQueue = []
    ∧ (t.port p).sends = [] ∧ (t.port p).lastFence = some c ∧ (t.port p).snapshot = s.inUseSet
    ∧ t.tt = s.tt ∧ t.pool = s.pool ∧ t.intake = s.intake ∧ t.leave = s.leave ∧ t.purge = s.purge

/-- What a PROTOCOL report of agent `p` comes to when PROTO_FENCE is set (R43, R114): the port is fenced in the same
event, and AGENT_FENCED follows the report `r`. -/
def State.protoFenced (s t : State) (p : Agent) (r : Report) : Prop :=
  t.reports = [r, { kind := .agentFenced, agent := some p }] ∧ (s.part = .run → s.cutOff t p .protocol)
    ∧ (s.part = .halted → s.cutOffHalted t p .protocol)

/-- What an event in RUN that starts a probe round of entry `e` leaves of it, from the calm state `s` before the event (R69
to R72): each agent of `set` in the domain has a probe with no retry used and its whole time, the earlier sends of the number
`n` to that agent are marked as of an earlier round, and the PROBE is sent at once where its port has a free probe credit;
else its item joins the end of the port's queue. -/
def State.probesStarted (s t : State) (e : EntryIdx) (n : Txn) (l : Line) (kind : ProbeKind) (set : AgentSet) : Prop :=
  ∀ a : Agent, has set a = true → s.member a = true →
    let marked := (s.port a).sends.map fun x => if x.txn = n then { x with earlier := true } else x
    (t.entry e).probes.get a =
        some ⟨if s.probeCredit a then .sent else .queued, 0, Config.probeStep * s.cfg.probeTmo⟩
      ∧ (s.probeCredit a = true → ⟨a, .probe n l kind⟩ ∈ t.outbox ∧ (t.port a).sends = marked ++ [⟨n, false⟩]
          ∧ (t.port a).probeQueue = [])
      ∧ (s.probeCredit a = false →
          (t.port a).sends = marked ∧ (t.port a).probeQueue = (s.port a).probeQueue ++ [e])

/-- What the hand-on step makes of entry `e` whose waiter list is `l`, from the state `s` before the event (R60, R62): FREE
without waiters, handed on to an entry waiter at the front, RELEASING for a one-access waiter there. -/
def State.handOnStep (s t : State) (e : EntryIdx) (l : List PoolIdx) : Prop :=
  (l = [] → (t.entry e).core = (Entry.freeOf (s.entry e).gen).core)
    ∧ (∀ i rest q, l = i :: rest → s.waiter i = some (.request q) → q.kind.needsGrant = true →
      (t.entry e).phase = .lookup ∧ (t.entry e).gen = (s.entry e).gen + 1 ∧ (t.entry e).requester = .agent q.port
      ∧ (t.entry e).request = some (.agent q.kind q.tag q.fullWrite) ∧ (t.entry e).kind = some .request
      ∧ (t.entry e).line = (s.entry e).line ∧ (t.entry e).grantSent = none ∧ t.waiter i = none
      ∧ (s.noLeave → (t.entry e).waiters = rest))
    ∧ (∀ i rest m, l = i :: rest → s.waiter i = some (.recallLine m) →
      (t.entry e).phase = .lookup ∧ (t.entry e).gen = (s.entry e).gen + 1 ∧ (t.entry e).requester = .service
      ∧ (t.entry e).request = some .recallLine ∧ (t.entry e).kind = some .service
      ∧ (t.entry e).line = (s.entry e).line ∧ t.waiter i = none ∧ (s.noLeave → (t.entry e).waiters = rest))
    ∧ (∀ i rest x, l = i :: rest → s.waiter i = some x → x.oneAccess = true →
      (t.entry e).phase = .releasing ∧ (t.entry e).line = (s.entry e).line ∧ (t.entry e).gen = (s.entry e).gen
      ∧ (s.noLeave → (t.entry e).waiters = l))

/-! ### The checks of an access (R131 to R136) -/

/-- What the errors of a slot's two words come to: corrected words alone, a record written DAMAGED, or a slot
withdrawn. -/
inductive WordVerdict where
  | corrected
  | damaged (tag : Tag) (poison : Bool) (word : WordSel) (txn : Option Txn)
  | withdrawn
  deriving DecidableEq, Repr

/-- An access checks slot (`k`, `w`) and finds a word in error (R131). -/
def State.inError (s : State) (k : SetIdx) (w : Way) : Bool :=
  decide ((s.slot k w).mark = .inService) && decide ((s.slot k w).errors ≠ 0)

/-- The verdict on a slot with a word in error: an unreadable tag is rebuilt from the bound entry (R135) or withdraws the
slot (R136), an unreadable holder word makes its record DAMAGED (R133), and all else is corrected (R131, R132). -/
def State.verdict (s : State) (k : SetIdx) (w : Way) : WordVerdict :=
  let x := s.slot k w
  if x.tagEcc = .uncorrectable then
    match s.boundLine k w with
    | some (e, l) => .damaged (tagOf l) true .tag (some (s.txn e))
    | none => .withdrawn
  else
    match x.content with
    | none => .corrected
    | some r =>
      if x.holderEcc = .uncorrectable ∧ r.state ≠ .damaged then .damaged r.tag r.poison .holder (x.bound.map s.txn)
      else .corrected

/-- The ways that the checks of an access on set `k` find in error. -/
def State.badWays (s : State) (k : SetIdx) : List Way := allWays.filter (s.inError k)

/-- The ways that they withdraw (R136). -/
def State.withdrawnWays (s : State) (k : SetIdx) : List Way :=
  (s.badWays k).filter fun w => decide (s.verdict k w = .withdrawn)

/-- The ways of `l` that become RETIRED when the slots of `l` are withdrawn in order: as many as the retired map of 8 has
room for (R8, R136, R142). -/
def DirSet.retiring (d : DirSet) (l : List Way) : List Way := l.take (8 - d.retiredCount)

/-- A slot that leaves service with this mark: free, good words, no reservation, no bound field (R136, R142). -/
def Slot.outOfService (x : Slot) (m : ServiceMark) : Slot :=
  { x with content := none, tagEcc := .good, holderEcc := .good, bound := none, reservation := none, mark := m }

/-- Slot (`k`, `w`) as the checks leave it (R131 to R136). -/
def State.slotAfterCheck (s : State) (k : SetIdx) (w : Way) : Slot :=
  if s.inError k w then
    let x := (s.slot k w).worn
    match s.verdict k w with
    | .corrected => { x with tagEcc := .good, holderEcc := .good }
    | .damaged t p _ _ =>
      { x with content := some ⟨t, .damaged, 0, p⟩, tagEcc := .good, holderEcc := .good, damageMark := true }
    | .withdrawn =>
      { x.outOfService (if w ∈ (s.dirSet k).retiring (s.withdrawnWays k) then .retired else .quarantined) with
        damageMark := false }
  else s.slot k w

/-- The CORRECTED report of a word (R131). -/
def correctedReport (k : SetIdx) (w : Way) (sel : WordSel) (l : Option Line) : Report :=
  { kind := .corrected, set := some k, way := some w, word := some sel, line := l }

/-- The reports of the checks of slot (`k`, `w`), in their order (R131 to R136, R152; of two bad words logs 12 and 13). -/
def State.checkReports (s : State) (k : SetIdx) (w : Way) : List Report :=
  let x := s.slot k w
  let l := x.content.map fun r => lineOf k r.tag
  match s.verdict k w with
  | .corrected =>
    (if x.tagEcc = .good then [] else [correctedReport k w .tag l])
      ++ if x.holderEcc = .good then [] else [correctedReport k w .holder l]
  | .damaged t _ sel n =>
    (if sel = .holder ∧ x.tagEcc ≠ .good then [correctedReport k w .tag l] else [])
      ++ { kind := .holderUncorrectable, line := some (lineOf k t), set := some k, way := some w, word := some sel
           txn := n }
      :: if sel = .tag ∧ x.holderEcc ≠ .good then [correctedReport k w .holder (some (lineOf k t))] else []
  | .withdrawn =>
    { kind := .tagUncorrectable, set := some k, way := some w, word := some .tag }
      :: if w ∈ (s.dirSet k).retiring (s.withdrawnWays k) then
          [{ kind := .slotRetired, set := some k, way := some w, count := some x.worn.health }]
        else []

/-- The count of DAMAGED records and the damage fence mark after the checks of slot (`k`, `w`) (R134). -/
def State.damageAfter (s : State) (k : SetIdx) (d : Nat × Bool) (w : Way) : Nat × Bool :=
  match s.verdict k w with
  | .corrected => d
  | .damaged _ _ _ _ => (if (s.slot k w).damageMark then d.1 else d.1 + 1, d.2 || s.anyFenced)
  | .withdrawn => if (s.slot k w).damageMark then (d.1 - 1, d.2 && decide (d.1 - 1 ≠ 0)) else d

/-- What becomes of slot (`k`, `w`) when a retirement leaves its record `r` POISONED and closes, `d` being the set before
(R143, R145, R146; log 15): the record moves to the lowest usable free slot, its way takes the old way's place in the order
and the old slot is RETIRED; or, without room, the slot joins the retire list unless the list holds 16, and a full retired
map is reported. -/
def State.poisonMoves (s : State) (k : SetIdx) (w : Way) (d : DirSet) (r : Record) (t : State) : Prop :=
  (∀ v, d.moveTarget = some v →
      t.recordAt k v = some (poisonedRecord r.tag) ∧ t.recordAt k w = none ∧ ((t.dirSet k).slot w).mark = .retired
      ∧ (t.dirSet k).recency = d.recency.map (fun x => if x = w then v else x)
      ∧ (∀ u, u ≠ w → u ≠ v → t.recordAt k u = d.record u)
      ∧ { kind := .slotRetired, set := some k, way := some w, count := some (d.slot w).health } ∈ t.reports
      ∧ t.integ.retireList = s.integ.retireList)
    ∧ (d.moveTarget = none →
      t.recordAt k w = some (poisonedRecord r.tag) ∧ (∀ u, u ≠ w → t.recordAt k u = d.record u)
      ∧ ((t.dirSet k).slot w).mark = (d.slot w).mark ∧ (t.dirSet k).recency = d.recency
      ∧ (s.integ.retireList.length < 16 → t.integ.retireList = s.integ.retireList ++ [⟨k, w, .waitRoom⟩]
          ∧ (d.mapHasRoom = false →
            { kind := .retireDenied, set := some k, way := some w, count := some (d.slot w).health } ∈ t.reports))
      ∧ (16 ≤ s.integ.retireList.length → t.integ.retireList = s.integ.retireList))

/-- The tables of R142 and R143: what becomes of slot (`k`, `w`) when it is judged for retirement, or examined as an item of
the retire list (`listed`). `y` is the state and the list of ways that need a RETIRE start, `s` and `l` the same before. -/
def State.retireTable (s : State) (k : SetIdx) (w : Way) (l : List Way) (y : State × List Way) (listed : Bool) : Prop :=
  let x := s.slot k w
  let d := s.dirSet k
  let off (u : State) : State := if listed then u.leaveRetireList k w else u
  let denied : State := s.report (s.slotReport .retireDenied k w)
  let waits (st : RetireStatus) (u : State) : State :=
    if listed then u.setRetireStatus k w st
    else if u.onRetireList k w ∨ 16 ≤ u.integ.retireList.length then u
    else { u with integ := { u.integ with retireList := u.integ.retireList ++ [⟨k, w, st⟩] } }
  (x.mark ≠ .inService → y = (off s, l))
    ∧ (x.mark = .inService →
      (x.content = none → d.mapHasRoom = true →
        y = (off ((s.putSet k { d.setSlot w (x.outOfService .retired) with recency := d.recency.erase w }).report
          (s.slotReport .slotRetired k w)), l))
      ∧ (x.content = none → d.mapHasRoom = false → y = (off denied, l))
      ∧ ∀ r, x.content = some r →
        (listed = false → d.mapHasRoom = false → y = (denied, l))
        ∧ (listed = true ∨ d.mapHasRoom = true →
          (x.bound ≠ none → y = (waits .waitUnbind s, l))
          ∧ (x.bound = none → r.poison = false ∨ r.state = .damaged → y = (s, l ++ [w]))
          ∧ (x.bound = none → r.poison = true → r.state ≠ .damaged →
            (∀ v, d.moveTarget = some v → y = (off (s.moveRecord k w v), l))
            ∧ (d.moveTarget = none →
              y = (waits .waitRoom (if d.mapHasRoom then s else denied), l)))))

/-- The code of the maintenance command that this WRITE is (section 11.4). -/
def commandCode (c : Instr) : Option Word :=
  match encodeWrite c with
  | some (a, v) => if a = Reg.command.addr ∧ c ≠ .registerWrite a v then some v else none
  | none => none

/-- The state of the service port's pins once a WRITE has been carried out: its frame in progress past its last data bit,
56 bits taken, with this answer to come on SDO (R177, R190). -/
def State.writeAnswered (s : State) (sdo : BitVec 64) : SpiTarget := { s.spi with frame := some (.carried 56 sdo) }

/-- The state after a WRITE that was refused: the refusal recorded, nothing else changed but the step's outputs and the
frame's answer (R179). -/
def State.refusedWrite (s : State) (why : RefusalReason) (a : Addr) : State :=
  { s.clearOutputs with svc := { s.svc with refusal := some (why, a) }, spi := s.writeAnswered sdoRefused }

/-- The state after a WRITE that was accepted and changed nothing yet but the step's outputs and the frame's answer. -/
def State.acceptedWrite (s : State) : State := { s.clearOutputs with spi := s.writeAnswered sdoOk }

/-- The state after an accepted WRITE that set these settings and nothing else. -/
def State.acceptedCfg (s : State) (c : Settings) : State := { s.acceptedWrite with cfg := c }

/-- The set that an access works on. -/
def State.dueSet (s : State) : Due → SetIdx
  | .intake r => setOf r.line
  | .resolution e | .parked e | .close e | .handedOn e | .releasing e | .serviceResolution e | .retractResolution e
  | .repairResolution e | .recallResolution e | .retireResolution e | .recallStart e => setOf (s.lineOfEntry e)
  | .retireStart k _ => k
  | .repairStart k _ => k
  | .service code => if code = 1 ∨ code = 7 then s.svc.setArg else setOf s.svc.lineArg
  | .purge => s.purge.pos
  | .leave _ => s.leave.pos
  | .scrub => s.integ.scrubPos

/-- The command that an access is; the service port's by its code. -/
def Due.command (f : List CellFault) : Due → Option Instr
  | .intake _ => some (.intakeLookup f)
  | .resolution _ => some (.resolutionAccess f)
  | .parked _ => some (.parkedResolution f)
  | .close _ => some (.closeAccess f)
  | .handedOn _ => some (.lookupAfterHandOn f)
  | .releasing _ => some (.releasingAccess f)
  | .serviceResolution _ => some (.serviceResolution f)
  | .retractResolution _ => some (.retractResolution f)
  | .repairResolution _ => some (.repairResolution f)
  | .recallResolution _ => some (.recallResolution f)
  | .retireResolution _ => some (.retireResolution f)
  | .recallStart _ => some (.recallStart f)
  | .retireStart _ _ => some (.retireStart f)
  | .repairStart _ _ => some (.repairStart f)
  | .service code =>
    if code = 1 then some (.inspectAccess f)
    else if code = 2 then some (.lookupAccess f)
    else if code = 3 then some (.recallLineStart f)
    else if code = 4 then some (.clearPoisonAccess f)
    else if code = 7 then some (.clearSetAccess f)
    else none
  | .purge => some (.purgeStep f)
  | .leave _ => some (.leaveStep f)
  | .scrub => some (.scrubAccess f)

/-- The recency order of each set lists the ways that hold records, each once (R9), and no two records of a set carry
one tag (R12). -/
def DirSet.ordered (d : DirSet) : Prop :=
  d.recency.Nodup ∧ (∀ w, w ∈ d.recency ↔ (d.record w).isSome = true)
    ∧ ∀ v w q r, d.record v = some q → d.record w = some r → q.tag = r.tag → v = w

/-- Entries and bound fields agree outside INIT (R6, R26, R45, R49): an entry in use carries a line, no two carry one
line, a bound field stands on the record of its entry's line, and the record of an entry's line is bound to it. A FREE
entry carries nothing. In INIT every entry is FREE, and the sets the walk has passed are empty (R20, R66). -/
def State.linked (s : State) : Prop :=
  s.dir.wf = true
    ∧ (∀ e, (s.entry e).inUse = false → (s.entry e).line = none ∧ (s.entry e).kind = none
        ∧ (s.entry e).waiters = [] ∧ (s.entry e).repairRound = false)
    ∧ (s.part = .init → (∀ e, (s.entry e).inUse = false) ∧ ∀ k j, s.walk = some k → j.toNat < k.toNat →
        (s.dirSet j).recency = [] ∧ ∀ w, s.recordAt j w = none ∧ (s.slot j w).bound = none)
    ∧ (s.part ≠ .init → (∀ k, (s.dirSet k).ordered)
        ∧ (∀ e, (s.entry e).inUse = true → (s.entry e).line.isSome = true)
        ∧ (∀ e i, (s.entry e).inUse = true → (s.entry i).inUse = true → (s.entry e).line = (s.entry i).line → e = i)
        ∧ (∀ k w e, (s.slot k w).bound = some e →
            (s.entry e).inUse = true ∧ ∃ r, s.recordAt k w = some r ∧ (s.entry e).line = some (lineOf k r.tag))
        ∧ ∀ e l w, (s.entry e).inUse = true → (s.entry e).line = some l → s.findLine l = some w →
            (s.slot (setOf l) w).bound = some e)

end Sys2Proof.Machine
end

