-- ==== Sys2Proof/Certificates/Slice0/Obligations.lean ====
section
/-! DEFINITION. The statements for the provers, family by family. -/

open Sys2Proof Sys2Proof.Machine

/-! ### Steps, power and reset -/

/-- A step carries out the command at the front of the queue on what is left of the queue; the queue is the model's own
(log 1). -/
def Obligations.StepRunsFrontCommand : Prop :=
  ∀ (s : State) (c : Instr) (rest : List Instr), s.pending = c :: rest → step s = exec c { s with pending := rest }

/-- A step with no command in the queue and no event on the pins of the service port is the passing of 1 µs (logs 1 and
29): in RUN the running timers lose 1 and a raised scrub claim is 1 older; nothing else changes but the step's outputs;
in INIT and HALTED no time passes (R163, R167). -/
def Obligations.EmptyQueuePassesOneMicrosecond : Prop :=
  ∀ s : State, s.pending = [] → s.spi.pins = [] → ∃ t, step s = .next t ∧ (s.part ≠ .run → t = s.clearOutputs)
    ∧ (s.part = .run →
      { t with tt := s.tt, integ := s.integ } = s.clearOutputs
      ∧ t.integ = { s.integ with
          scrubTimer := s.integ.scrubTimer.map (· - 1), scrubClaim := s.integ.scrubClaim.map (· + 1) }
      ∧ ∀ e : EntryIdx,
        t.entry e = { s.entry e with
          doneTimer := (s.entry e).doneTimer.map (· - 1), probes := (t.entry e).probes }
        ∧ ∀ a : Agent, (t.entry e).probes.get a =
            ((s.entry e).probes.get a).map fun b => { b with timer := b.timer - 1 })

/-- The state after power-on (R1, R21, R66, R103, R119, R129, R151, R165, R168, R176, R180 and section 9.10); the absent
links are log 6, the argument copies and the moment log 9, the free slots log 8. It has every invariant that a step
keeps. -/
def Obligations.ResetIsPowerOnState : Prop :=
  (let s := State.reset
   s.part = .init ∧ s.walk = some 0 ∧ (∀ k : SetIdx, s.dirSet k = DirSet.empty)
     ∧ s.cfg.winBase = 0 ∧ s.cfg.winCount.toNat = 2 ^ 38
     ∧ s.cfg.pendBase = 0 ∧ s.cfg.pendCount.toNat = 2 ^ 38 ∧ s.cfg.probeCredits = 8 ∧ s.cfg.probeTmo = 64
     ∧ s.cfg.probeRetries = 1 ∧ s.cfg.doneTmo = 64 ∧ s.cfg.admitHigh = 28 ∧ s.cfg.admitLow = 20
     ∧ s.cfg.recallBudget = 4 ∧ s.cfg.retireTh = 6 ∧ s.cfg.scrubInterval = 50 ∧ s.cfg.scrubStarve = 20
     ∧ s.cfg.protoFence = false
     ∧ (∀ e, s.entry e = Entry.freeOf 0) ∧ (∀ i, s.waiter i = none) ∧ s.pause = false ∧ s.intake = []
     ∧ (∀ p, (s.port p).state = .off ∧ (s.port p).enable = false ∧ (s.port p).reqCredits = 4 ∧ (s.port p).credits = 0
         ∧ (s.port p).tags = 0 ∧ (s.port p).probeQueue = [] ∧ (s.port p).sends = [] ∧ (s.port p).discards = 0
         ∧ (s.port p).rejoinHold = false ∧ (s.port p).lastFence = none ∧ (s.port p).snapshot = 0)
     ∧ s.recallUnit.queue = [] ∧ s.recallUnit.inFlight = 0 ∧ (∀ e, s.recallUnit.serves.get e = none)
     ∧ s.recallUnit.accesses = [] ∧ (∀ a, s.purge.starts.get a = none) ∧ s.purge.pos = 0 ∧ s.leave.port = none
     ∧ s.leave.pos = 0 ∧ s.leave.complete = false ∧ s.leave.retracts = 0 ∧ s.leave.wait = .ready ∧ s.leave.order = []
     ∧ s.integ.damaged = 0 ∧ s.integ.fenceMark = false ∧ s.integ.retireList = [] ∧ s.integ.scrubEn = false
     ∧ s.integ.scrubPos = 0 ∧ s.integ.scrubTimer = none ∧ s.integ.scrubClaim = none ∧ s.integ.passComplete = false
     ∧ s.integ.passCounter = 0 ∧ s.claims = [] ∧ s.err.haltKind = none
     ∧ (∀ k, s.err.counter k = 0)
     ∧ (∀ k, s.err.mask k = decide (k = .corrected ∨ k = .waitFull ∨ k = .range))
     ∧ (∀ k, s.err.routing k =
         if classOf k = .fatal ∨ k = .agentFenced then .fault
         else if k = .corrected ∨ k = .waitFull ∨ k = .range then .none else .notice)
     ∧ s.err.fatal = ⟨none, 0⟩ ∧ s.err.nonfatal = ⟨none, 0⟩ ∧ s.err.notice = false ∧ s.err.fault = false
     ∧ s.svc.status = .idle ∧ s.svc.refusal = none ∧ s.svc.lastCode = 0 ∧ s.svc.argA = 0 ∧ s.svc.argB = 0
     ∧ s.svc.copyA = 0 ∧ s.svc.copyB = 0 ∧ s.svc.result = Result.clear ∧ s.svc.waiting = .nowhere
     ∧ s.spi.frame = none ∧ s.spi.pins = [] ∧ s.pending = [])
  ∧ (State.reset.lawful ∧ State.reset.linked ∧ State.reset.creditsLawful ∧ State.reset.cfg.legal = true
      ∧ State.reset.creditTotal ≤ 48 ∧ (∀ p, (State.reset.port p).reqCredits = 4) ∧ State.reset.outputsLawful
      ∧ State.reset.calm)

/-- Power good sets every piece of state to its power-on value, no frame in progress, and the clearing walk begins at
set 0 while RESET_N is high; when power is lost no state is kept (what the pins do next, log 29, is no state of the
part). The fall of RESET_N discards all work in progress and takes the part to INIT; it keeps the directory's slots, the
settings, the port enables, links (log 7) and REQ_CREDITS, the pass counter, and the error counters, masks, routings and
captures; a frame in progress on the service port runs on. Its rise begins the clearing walk at set 0, and every enabled
port with a link enters TRAINING (R168 to R170, R175, R176). -/
def Obligations.PowerAndResetPins : Prop :=
  (∀ s : State,
      (s.pwrok = false → exec .pwrokRise s = .next { State.reset with
        resetN := s.resetN, walk := if s.resetN then some 0 else none, spi := ⟨none, s.spi.pins⟩
        pending := s.pending })
      ∧ (s.pwrok = true → exec .pwrokFall s = .next { State.reset with
        pwrok := false, resetN := s.resetN, walk := none, spi := ⟨none, s.spi.pins⟩, pending := s.pending }))
  ∧ (∀ s : State, s.pwrok = true → s.resetN = true → ∃ t, exec .resetNFall s = .next t
      ∧ t.resetN = false ∧ t.part = .init ∧ t.walk = none ∧ t.dir = s.dir ∧ t.cfg = s.cfg
      ∧ (∀ e, t.entry e = Entry.freeOf 0) ∧ (∀ i, t.waiter i = none) ∧ t.pause = false ∧ t.intake = [] ∧ t.claims = []
      ∧ (∀ p, t.port p =
          { Port.powerOn with enable := (s.port p).enable, link := (s.port p).link, reqCredits := (s.port p).reqCredits })
      ∧ t.recallUnit.queue = [] ∧ t.recallUnit.inFlight = 0 ∧ t.recallUnit.accesses = []
      ∧ (∀ a, t.purge.starts.get a = none) ∧ t.leave.port = none ∧ t.leave.order = []
      ∧ t.integ = { IntegrityUnit.powerOn with passCounter := s.integ.passCounter }
      ∧ t.err.counters = s.err.counters ∧ t.err.masks = s.err.masks ∧ t.err.routings = s.err.routings
      ∧ t.err.fatal = s.err.fatal ∧ t.err.nonfatal = s.err.nonfatal ∧ t.outputsLawful
      ∧ t.svc.status = (if s.svc.status = .busy then .failed .init else s.svc.status)
      ∧ t.svc.result = s.svc.result ∧ t.spi = s.spi ∧ t.outbox = [] ∧ t.reports = [])
  ∧ (∀ s : State, s.pwrok = true → s.resetN = false → s.part = .init → ∃ t, exec .resetNRise s = .next t
      ∧ t.resetN = true ∧ t.part = .init ∧ t.walk = some 0 ∧ t.dir = s.dir ∧ t.cfg = s.cfg ∧ t.err = s.err
      ∧ ∀ p, t.port p =
          if (s.port p).state = .off ∧ (s.port p).enable ∧ (s.port p).link ∧ !(s.port p).rejoinHold
          then { s.port p with state := .training } else s.port p)

/-- One access of the clearing walk writes every slot of its set free, empties the recency order and the LOST mark and
keeps health counts and service marks; after set 2047 the part enters RUN and every TRAINING port enters ACTIVE with its
credits (R20, R172). -/
def Obligations.ClearingWalkClearsSet : Prop :=
  ∀ (s : State) (k : SetIdx), s.part = .init → s.walk = some k → s.dir.wf = true → s.intake = [] →
    s.leave = LeaveWalker.idle → ∃ t, exec .clearingWalkStep s = .next t
      ∧ (∀ w : Way, (t.dirSet k).slot w = { (s.dirSet k).slot w with
          content := none, tagEcc := .good, holderEcc := .good, bound := none, reservation := none
          damageMark := false })
      ∧ (t.dirSet k).recency = [] ∧ (t.dirSet k).lost = false ∧ (∀ j, j ≠ k → t.dirSet j = s.dirSet j)
      ∧ t.integ = { s.integ with damaged := 0, fenceMark := false } ∧ t.cfg = s.cfg
      ∧ (k.toNat ≠ 2047 → t.part = .init ∧ t.walk = some (k + 1) ∧ t.ports = s.ports)
      ∧ (k.toNat = 2047 → t.part = .run ∧ t.walk = none
        ∧ ∀ p, (s.port p).state = .training → (t.port p).state = .active
          ∧ (t.port p).credits = (s.port p).reqCredits ∧ (t.port p).tags = 0)

/-! ### Links and fences -/

/-- The detection of a link records it, and an enabled OFF port without rejoin hold comes up: to ACTIVE with REQ_CREDITS
credits in RUN, to TRAINING elsewhere. The loss of a link clears the rejoin hold; it fences a port in ACTIVE or LEAVING with
cause LINK_LOSS and reports AGENT_FENCED, and takes a TRAINING port to OFF (R106, R114, R115, R118). -/
def Obligations.LinkMovesPort : Prop :=
  (∀ (s : State) (p : Agent), s.pwrok = true → (s.port p).link = false → s.calm →
      ∃ t, exec (.linkDetected p) s = .next t ∧ (t.port p).link = true
        ∧ (¬ ((s.port p).state = .off ∧ (s.port p).enable ∧ !(s.port p).rejoinHold ∧ s.resetN) →
            (t.port p).state = (s.port p).state ∧ (t.port p).credits = (s.port p).credits)
        ∧ ((s.port p).state = .off → (s.port p).enable → (s.port p).rejoinHold = false → s.resetN →
            (s.part ≠ .run → (t.port p).state = .training)
            ∧ (s.part = .run → (t.port p).state = .active ∧ (t.port p).credits = (s.port p).reqCredits
              ∧ (t.port p).tags = 0))
        ∧ t.dir = s.dir ∧ t.cfg = s.cfg ∧ ∀ q, q ≠ p → (t.port q).state = (s.port q).state)
  ∧ (∀ (s : State) (p : Agent), s.pwrok = true → (s.port p).link = true →
      ∃ t, exec (.linkLoss p) s = .next t ∧ t.dir = s.dir ∧ t.cfg = s.cfg
        ∧ (s.member p = true → (t.port p).link = false ∧ (t.port p).rejoinHold = false
            ∧ t.reports = [{ kind := .agentFenced, agent := some p }]
            ∧ (s.part = .run → s.cutOff t p .linkLoss)
            ∧ (s.part = .halted → (t.port p).state = .fenced ∧ (t.port p).tags = 0 ∧ (t.port p).credits = 0
              ∧ (t.port p).probeQueue = [] ∧ (t.port p).sends = [] ∧ (t.port p).lastFence = some .linkLoss
              ∧ (t.port p).snapshot = s.inUseSet ∧ t.tt = s.tt ∧ t.intake = s.intake))
        ∧ (s.calm → (s.port p).state = .training → (t.port p).state = .off ∧ (t.port p).link = false)
        ∧ (s.calm → s.member p = false → (s.port p).state ≠ .training →
            t.port p = { s.port p with link := false, rejoinHold := false } ∧ t.reports = []))

/-! ### Requests at their arrival -/

/-- A request that passes every check of R25 joins the end of the intake queue with its tag outstanding and one credit
spent; nothing is answered or reported (R25, R109, R112). A LEAVE is the next statement's. -/
def Obligations.RequestJoinsIntake : Prop :=
  ∀ (s : State) (r : Request), r.spelled → r.kind ≠ .leave → s.pwrok = true → s.part = .run → s.calm →
    s.member r.port = true → (s.port r.port).credits ≠ 0 → has (s.port r.port).tags r.tag = false →
    (r.kind.needsGrant = true → (s.port r.port).state = .active) → s.cfg.covers r.line = true →
    ∃ t, exec r.command s = .next t ∧ t.intake = s.intake ++ [r] ∧ t.outbox = [] ∧ t.reports = [] ∧ t.part = .run
      ∧ (t.port r.port).credits = (s.port r.port).credits - 1
      ∧ (t.port r.port).tags = addTo (s.port r.port).tags r.tag
      ∧ (t.port r.port).state = (s.port r.port).state
      ∧ (∀ q, q ≠ r.port → (t.port q).still = (s.port q).still)
      ∧ (∀ e, (t.entry e).still = (s.entry e).still) ∧ t.pool = s.pool ∧ t.dir = s.dir ∧ t.cfg = s.cfg
      ∧ t.integ = s.integ ∧ t.svc = s.svc

/-- A LEAVE that arrives behind other requests, or while the pause flag holds the head, waits its turn in the intake queue.
At an empty queue it is taken at once. Taken from an ACTIVE port, it returns its credit and takes the port into LEAVING;
each of the port's requests for a grant that waits in the pool is answered NACK LEAVING (in this order and behind the
credit: log 35), its tag released and its slot freed, while the notices stay; and the port joins the leave order list, from
where it enters WALK at once when it has drained and the walker is idle. Taken from a port that is LEAVING already, it
returns its credit and does no more. `State.takeLeave` does the same at every served head, where the port's requests for a
grant that stand in the queue are answered too, each with its credit (R25, R52, R112, R113, R122, R124). -/
def Obligations.LeaveJoinsOrIsTaken : Prop :=
  (∀ (s : State) (p : Agent) (tag : ReqTag) (line : Line), s.pwrok = true → s.part = .run → s.calm →
    s.member p = true → (s.port p).credits ≠ 0 → has (s.port p).tags tag = false →
    ∃ t, exec (.leave p tag line) s = .next t ∧ t.dir = s.dir ∧ t.cfg = s.cfg ∧ t.reports = []
      ∧ (s.intake ≠ [] ∨ s.pause = true →
          t.intake = s.intake ++ [⟨p, .leave, tag, line, false⟩] ∧ t.outbox = []
          ∧ (t.port p).credits = (s.port p).credits - 1 ∧ (t.port p).tags = addTo (s.port p).tags tag
          ∧ (t.port p).state = (s.port p).state)
      ∧ (s.intake = [] → s.pause = false → (s.port p).state = .active → s.leave.port ≠ some p →
          t.intake = [] ∧ (t.port p).credits = (s.port p).credits ∧ (∃ ph, (t.port p).state = .leaving ph)
          ∧ t.outbox = ⟨p, .credit⟩ :: (s.selectedWaiters (grantOf p)).map (fun r => ⟨p, .nack r.tag r.line .leaving⟩)
          ∧ (∀ r ∈ s.selectedWaiters (grantOf p), has (t.port p).tags r.tag = false)
          ∧ (∀ i r, s.waiter i = some (.request r) → grantOf p r = true → t.waiter i = none)
          ∧ (∀ i, (∀ r, s.waiter i = some (.request r) → grantOf p r = false) → t.waiter i = s.waiter i)
          ∧ (s.leave.order = [] → s.leave.port = none → s.hasTransaction p = false →
              t.leave = ⟨some p, 0, false, 0, .ready, []⟩ ∧ (t.port p).state = .leaving .walk)
          ∧ (s.leave.port ≠ none ∨ s.hasTransaction p = true ∨ (∃ q, s.leave.order.head? = some q ∧ q ≠ p) →
              t.leave = { s.leave with order := s.leave.order ++ [p] } ∧ (t.port p).state = .leaving .drain))
      ∧ (∀ ph, s.intake = [] → s.pause = false → (s.port p).state = .leaving ph →
          t.intake = [] ∧ t.outbox = [⟨p, .credit⟩] ∧ t.pool = s.pool ∧ t.tt = s.tt ∧ t.leave = s.leave
          ∧ t.port p = { s.port p with tags := addTo (s.port p).tags tag }))
  ∧ (∀ (s : State) (p : Agent), (s.port p).state = .active →
      let queued := s.intake.filter (grantOf p)
      let t := s.takeLeave p
      (t.port p).state = .leaving .drain ∧ t.intake = s.intake.filter (fun r => !grantOf p r)
      ∧ t.leave = { s.leave with order := s.leave.order ++ [p] }
      ∧ (t.port p).credits = (s.port p).credits + 1 + queued.length
      ∧ (∀ r ∈ queued ++ s.selectedWaiters (grantOf p), has (t.port p).tags r.tag = false)
      ∧ t.outbox = s.outbox ++ ⟨p, .credit⟩
          :: queued.flatMap (fun r => [⟨p, .nack r.tag r.line .leaving⟩, ⟨p, .credit⟩])
          ++ (s.selectedWaiters (grantOf p)).map fun r => ⟨p, .nack r.tag r.line .leaving⟩)
  ∧ ∀ (s : State) (p : Agent) (ph : LeavePhase), (s.port p).state = .leaving ph → s.takeLeave p = s.returnCredit p

/-- The checks of a request in their order (R25, R109, R162): no credit, a tag in use, HALTED, a port that leaves, a line
outside the window. That the report of a LEAVE refused for its credit or its tag carries the line number is the model's
reading, log 24. With PROTO_FENCE clear a PROTOCOL report has no further effect; with PROTO_FENCE set it fences the port in
the same event (R43, R114). The order of a reply and its credit is log 35. -/
def Obligations.RequestChecksInOrder : Prop :=
  (∀ (s : State) (r : Request), r.spelled → s.pwrok = true → s.member r.port = true → s.cfg.protoFence = false →
    s.calm →
    ∃ t, exec r.command s = .next t ∧
      (if (s.port r.port).credits = 0 then
        t.intake = s.intake ∧ (t.port r.port).still = (s.port r.port).still
        ∧ t.reports = [{ kind := .protocol, agent := some r.port, cause := some .creditOverrun
                         msg := some r.kind.code, line := some r.line }]
      else if has (s.port r.port).tags r.tag then
        t.intake = s.intake ∧ (t.port r.port).still = (s.port r.port).still
        ∧ (∃ more, t.outbox = ⟨r.port, .credit⟩ :: more)
        ∧ t.reports = [{ kind := .protocol, agent := some r.port, cause := some .tagInUse
                         msg := some r.kind.code, line := some r.line }]
      else if s.part = .halted then
        t.intake = s.intake ∧ (t.port r.port).still = (s.port r.port).still ∧ t.reports = []
        ∧ ∃ more, t.outbox = [⟨r.port, .nack r.tag r.line .halted⟩, ⟨r.port, .credit⟩] ++ more
      else if r.kind.needsGrant = true ∧ (s.port r.port).state ≠ .active then
        t.intake = s.intake ∧ (t.port r.port).still = (s.port r.port).still ∧ t.reports = []
        ∧ ∃ more, t.outbox = [⟨r.port, .nack r.tag r.line .leaving⟩, ⟨r.port, .credit⟩] ++ more
      else if r.kind ≠ .leave ∧ s.cfg.covers r.line = false then
        t.intake = s.intake ∧ (t.port r.port).still = (s.port r.port).still
        ∧ t.reports = [{ kind := .range, agent := some r.port, line := some r.line, msg := some r.kind.code }]
        ∧ ∃ more, t.outbox = [⟨r.port, if r.kind.needsGrant then .nack r.tag r.line .range
            else .ack r.tag r.line true⟩, ⟨r.port, .credit⟩] ++ more
      else r.kind ≠ .leave → t.intake = s.intake ++ [r]))
  ∧ ∀ (s : State) (r : Request), r.spelled → s.pwrok = true → s.member r.port = true → s.cfg.protoFence = true →
    (s.port r.port).credits = 0 ∨ has (s.port r.port).tags r.tag = true →
    ∃ t, exec r.command s = .next t
      ∧ s.protoFenced t r.port { kind := .protocol, agent := some r.port, msg := some r.kind.code, line := some r.line
                                 cause := some (if (s.port r.port).credits = 0 then .creditOverrun else .tagInUse) }

/-- A message that arrives at a port in OFF, TRAINING, FENCED or FENCED_CLEAN is discarded and counted, and does nothing
else; while RESET_N is low it is not counted (R107, R169). -/
def Obligations.ClosedPortDiscards : Prop :=
  ∀ (s : State) (c : Instr) (p : Agent), messagePort c = some p → s.pwrok = true → s.member p = false →
    ∃ t, exec c s = .next t
      ∧ t.port p = (if s.resetN then { s.port p with discards := min 65535 ((s.port p).discards + 1) } else s.port p)
      ∧ { t with ports := s.ports } = s.clearOutputs ∧ ∀ q, q ≠ p → t.port q = s.port q

/-- A message of no kind is reported PROTOCOL BAD_KIND with its agent and its kind as received; a request-channel one is
first checked for its credit, and gets it back. That one without credit is reported CREDIT_OVERRUN, with no line number, is
the model's reading, log 24. With PROTO_FENCE set the report fences the port in the same event (R43, R109, R114, R189). -/
def Obligations.BadKindIsReported : Prop :=
  (∀ (s : State) (p : Agent) (ch : Bool) (code : BitVec 3), s.pwrok = true → s.member p = true →
    s.cfg.protoFence = false → s.calm →
    ∃ t, exec (.badKind p ch code) s = .next t ∧ (t.port p).still = (s.port p).still ∧ t.intake = s.intake
      ∧ t.dir = s.dir ∧ t.cfg = s.cfg
      ∧ ((ch = true ∨ (s.port p).credits ≠ 0) →
          t.reports = [{ kind := .protocol, agent := some p, msg := some ⟨ch, code⟩, cause := some .badKind }])
      ∧ (ch = false → (s.port p).credits = 0 →
          t.reports = [{ kind := .protocol, agent := some p, msg := some ⟨ch, code⟩, cause := some .creditOverrun }]))
  ∧ ∀ (s : State) (p : Agent) (ch : Bool) (code : BitVec 3), s.pwrok = true → s.member p = true →
    s.cfg.protoFence = true → ∃ t, exec (.badKind p ch code) s = .next t ∧ t.dir = s.dir ∧ t.cfg = s.cfg
      ∧ s.protoFenced t p { kind := .protocol, agent := some p, msg := some ⟨ch, code⟩
                            cause := some (if ch = false ∧ (s.port p).credits = 0 then .creditOverrun else .badKind) }


/-! ### DONE, answers and timers -/

/-- A DONE that matches an entry waiting for it stops the DONE timer and raises the close claim, and does nothing else;
in HALTED a DONE is discarded; one that matches no waiting entry is reported PROTOCOL BAD_DONE and changes no entry, and
with PROTO_FENCE set the report fences the port in the same event. The expiry of a running DONE timer ends the wait as a
DONE does, and reports DONE_TIMEOUT (R41, R43, R55, R56, R114, R162). -/
def Obligations.DoneEndsWaitOrIsReported : Prop :=
  (∀ (s : State) (p : Agent) (n : Txn), s.pwrok = true → s.member p = true →
      (s.part = .run → (s.entry (txnIndex n)).phase = .awaitDone → (s.entry (txnIndex n)).closePending = false →
        (s.entry (txnIndex n)).gen = txnGen n → (s.entry (txnIndex n)).kind = some .request →
        (s.entry (txnIndex n)).requester = .agent p →
        ∃ t, exec (.done p n) s = .next t ∧ Claim.entry (txnIndex n) ∈ t.claims ∧ t.reports = [] ∧ t.part = .run
          ∧ (t.entry (txnIndex n)).core =
              { (s.entry (txnIndex n)).core with doneTimer := none, closePending := true }
          ∧ (∀ e, e ≠ txnIndex n → (t.entry e).core = (s.entry e).core)
          ∧ t.dir = s.dir ∧ t.cfg = s.cfg ∧ t.integ = s.integ ∧ t.svc = s.svc)
      ∧ (s.part = .halted → ∃ t, exec (.done p n) s = .next t ∧ t.tt = s.tt ∧ t.ports = s.ports ∧ t.reports = []))
  ∧ (∀ (s : State) (p : Agent) (n : Txn), s.pwrok = true → s.member p = true → s.part = .run →
      s.cfg.protoFence = false → s.calm →
      ¬ ((s.entry (txnIndex n)).phase = .awaitDone ∧ (s.entry (txnIndex n)).closePending = false
          ∧ (s.entry (txnIndex n)).gen = txnGen n ∧ (s.entry (txnIndex n)).kind = some .request
          ∧ (s.entry (txnIndex n)).requester = .agent p) →
      ∃ t, exec (.done p n) s = .next t ∧ (∀ e, (t.entry e).still = (s.entry e).still) ∧ t.dir = s.dir
        ∧ (∀ q, (t.port q).still = (s.port q).still)
        ∧ t.reports = [{ kind := .protocol, agent := some p, cause := some .badDone, msg := some ⟨true, 0⟩
                         txn := some n }])
  ∧ (∀ (s : State) (p : Agent) (n : Txn), s.pwrok = true → s.member p = true → s.part = .run →
      s.cfg.protoFence = true →
      ¬ ((s.entry (txnIndex n)).phase = .awaitDone ∧ (s.entry (txnIndex n)).closePending = false
          ∧ (s.entry (txnIndex n)).gen = txnGen n ∧ (s.entry (txnIndex n)).kind = some .request
          ∧ (s.entry (txnIndex n)).requester = .agent p) →
      ∃ t, exec (.done p n) s = .next t ∧ t.dir = s.dir ∧ t.cfg = s.cfg
        ∧ s.protoFenced t p { kind := .protocol, agent := some p, cause := some .badDone, msg := some ⟨true, 0⟩
                              txn := some n })
  ∧ ∀ (s : State) (e : EntryIdx), s.part = .run → (s.entry e).phase = .awaitDone → (s.entry e).doneTimer.isSome = true →
    ∃ t, exec (.doneTimeout e) s = .next t ∧ Claim.entry e ∈ t.claims
      ∧ (t.entry e).core = { (s.entry e).core with doneTimer := none, closePending := true }
      ∧ t.reports = [{ kind := .doneTimeout, agent := (s.entry e).agent?, txn := some (s.txn e)
                       line := (s.entry e).line, set := (s.entry e).line.map setOf, way := (s.entry e).way }]
      ∧ (∀ i, i ≠ e → (t.entry i).core = (s.entry i).core) ∧ t.dir = s.dir ∧ t.cfg = s.cfg

/-- An answer whose oldest send is of the current round, for an entry that waits for it, is recorded: its agent leaves the
pending-answer set, its probe ends, and its probe credit returns. Any other answer is reported STRAY_ANSWER and changes no
entry; its credit returns where a send of its number is outstanding, and no credit returns where none is. In HALTED an
answer is discarded (R73, R74, R76, R86). -/
def Obligations.AnswersMatchOrStray : Prop :=
  (∀ (s : State) (p : Agent) (n : Txn) (l : Line) (c : Instr) (ans : Answer) (x : Send) (rest : List Send),
      (c = .ansClean p n l ∧ ans = .clean ∨ c = .ansWritten p n l ∧ ans = .written ∨ c = .ansGone p n l ∧ ans = .gone) →
      s.pwrok = true → s.member p = true → s.part = .run → takeSend n (s.port p).sends = some (x, rest) →
      x.earlier = false → (s.entry (txnIndex n)).phase = .probing → (s.entry (txnIndex n)).gen = txnGen n →
      has (s.entry (txnIndex n)).pendingSet p = true → (s.entry (txnIndex n)).line = some l →
      ∃ t, exec c s = .next t ∧ t.reports = [] ∧ t.part = .run
        ∧ (t.entry (txnIndex n)).core =
            { (s.entry (txnIndex n)).core with
              answers := (s.entry (txnIndex n)).answers.set p.val (some ans)
              pendingSet := without (s.entry (txnIndex n)).pendingSet p }
        ∧ (t.entry (txnIndex n)).probes.get p = none
        ∧ (∀ e, e ≠ txnIndex n → (t.entry e).core = (s.entry e).core)
        ∧ (s.calm → s.leave.port ≠ some p → ∃ more, (t.port p).sends = rest ++ more)
        ∧ t.dir = s.dir ∧ t.cfg = s.cfg)
  ∧ (∀ (s : State) (p : Agent) (n : Txn) (l : Line) (c : Instr) (m : MsgCode),
      (c = .ansClean p n l ∧ m = ⟨true, 1⟩ ∨ c = .ansWritten p n l ∧ m = ⟨true, 2⟩ ∨ c = .ansGone p n l ∧ m = ⟨true, 3⟩) →
      s.pwrok = true → s.member p = true → s.part = .run → s.calm →
      (∀ x rest, takeSend n (s.port p).sends = some (x, rest) →
        x.earlier = true ∨ ¬ ((s.entry (txnIndex n)).phase = .probing ∧ (s.entry (txnIndex n)).gen = txnGen n
          ∧ has (s.entry (txnIndex n)).pendingSet p = true ∧ (s.entry (txnIndex n)).line = some l)) →
      ∃ t, exec c s = .next t ∧ (∀ e, (t.entry e).still = (s.entry e).still) ∧ t.dir = s.dir ∧ t.cfg = s.cfg
        ∧ t.reports = [{ kind := .strayAnswer, agent := some p, txn := some n, line := some l, msg := some m }]
        ∧ (∀ x rest, takeSend n (s.port p).sends = some (x, rest) → ∃ more, (t.port p).sends = rest ++ more)
        ∧ (takeSend n (s.port p).sends = none → (t.port p).sends = (s.port p).sends))
  ∧ (∀ (s : State) (p : Agent) (n : Txn) (l : Line) (c : Instr),
      c = .ansClean p n l ∨ c = .ansWritten p n l ∨ c = .ansGone p n l →
      s.pwrok = true → s.member p = true → s.part = .halted →
      ∃ t, exec c s = .next t ∧ t.tt = s.tt ∧ t.pool = s.pool ∧ t.ports = s.ports ∧ t.reports = [] ∧ t.outbox = []
        ∧ t.dir = s.dir ∧ t.cfg = s.cfg ∧ t.integ = s.integ)

/-- The expiry of a probe timer that uses a retry restarts the timer and reports PROBE_RETRY. By the table of R78, read
in a calm state, a SENT probe is sent again when its port has a free probe credit, and a new current instance joins the
end of the list of outstanding sends; with no free credit it becomes RESEND_QUEUED and its item joins the front of the
port's queue; a QUEUED or RESEND_QUEUED probe keeps its status and the queue stays. Without retries left the expiry
fences the agent's port with cause PROBE_TIMEOUT and reports AGENT_FENCED with the transaction and its line (R77 to R79,
R114, R115). That the PROBE sent again comes first among the messages is log 35. -/
def Obligations.ProbeTimerRetriesOrFences : Prop :=
  (∀ (s : State) (e : EntryIdx) (a : Agent) (b : Probe), s.part = .run → (s.entry e).probes.get a = some b →
      s.member a = true → b.retries < s.cfg.probeRetries →
      ∃ t, exec (.probeTimerExpiry e a) s = .next t
        ∧ (∃ b', (t.entry e).probes.get a = some b' ∧ b'.retries = b.retries + 1 ∧ b'.timer = 4 * s.cfg.probeTmo)
        ∧ t.reports = [{ kind := .probeRetry, agent := some a, txn := some (s.txn e), line := (s.entry e).line
                         count := some (b.retries + 1) }]
        ∧ (b.status = .sent → s.probeCredit a = true → ∃ more, t.outbox =
            ⟨a, .probe (s.txn e) (s.lineOfEntry e) ((s.entry e).probeKind.getD .invalidate)⟩ :: more)
        ∧ (s.calm →
          let probe (st : ProbeStatus) : Probe := ⟨st, b.retries + 1, 4 * s.cfg.probeTmo⟩
          (b.status = .sent → s.probeCredit a = true → (t.entry e).probes.get a = some (probe .sent)
              ∧ (t.port a).sends = (s.port a).sends ++ [⟨s.txn e, false⟩] ∧ (t.port a).probeQueue = (s.port a).probeQueue
              ∧ t.outbox = [⟨a, .probe (s.txn e) (s.lineOfEntry e) ((s.entry e).probeKind.getD .invalidate)⟩])
          ∧ (b.status = .sent → s.probeCredit a = false → (t.entry e).probes.get a = some (probe .resendQueued)
              ∧ (t.port a).probeQueue = e :: (s.port a).probeQueue ∧ (t.port a).sends = (s.port a).sends ∧ t.outbox = [])
          ∧ (b.status ≠ .sent → (t.entry e).probes.get a = some (probe b.status)
              ∧ (t.port a).probeQueue = (s.port a).probeQueue ∧ (t.port a).sends = (s.port a).sends ∧ t.outbox = [])
          ∧ (∀ i c, (i, c) ≠ (e, a) → (t.entry i).probes.get c = (s.entry i).probes.get c)
          ∧ (∀ p, p ≠ a → t.port p = s.port p))
        ∧ (∀ i, (t.entry i).core = (s.entry i).core) ∧ t.dir = s.dir ∧ t.cfg = s.cfg)
  ∧ (∀ (s : State) (e : EntryIdx) (a : Agent) (b : Probe), s.part = .run → (s.entry e).probes.get a = some b →
      s.member a = true → s.cfg.probeRetries ≤ b.retries →
      ∃ t, exec (.probeTimerExpiry e a) s = .next t ∧ s.cutOff t a .probeTimeout
        ∧ t.reports = [{ kind := .agentFenced, agent := some a, txn := some (s.txn e), line := (s.entry e).line }]
        ∧ t.dir = s.dir ∧ t.cfg = s.cfg)

/-! ### The arbiter and the tables of outcomes -/

/-- The arbiter gives the array, in RUN, to a waiting claim of the most preferred class, the one of that class that has
waited longest; a scrub claim older than SCRUB_STARVE comes before all (R16, R17, R19). In HALTED only INSPECT and
LOOKUP get it, in INIT nobody (R18). The classes are those of R16. A claim is kept while its work is wanted and
withdrawn when it is not; new claims join behind those that wait, claims of one event in the fixed order: by entry
index, the purge walker before the leave walker; and at the end of an event in RUN exactly the wanted claims stand
(R17). What is wanted is pinned block by block: an entry's class 1 access by its phase and kind (R46, R47); the recall
unit's while an access is pending, or while an item may start and an entry is FREE, a start item at any time and a
parked item while the recalls in flight are below RECALL_BUDGET (R91); the intake head's while requests wait and the
pause flag is clear (R63). The recall unit's access is the front pending access, and with none the start of the first
item in queue order that may start; at the end of an event in RUN the settled RECALL, RETIRE and REPAIR entries join the
pending accesses, the lower index first (R91, R140). The pause flag is set at a taking that brings the count of entries
in use to ADMIT_HIGH and cleared at a freeing that brings it to ADMIT_LOW, and keeps its value at any other and at a
hand-on (R63). -/
def Obligations.ArbiterGrantsInClassOrder : Prop :=
  (∀ s : State,
    (s.part = .init → s.granted = none)
    ∧ (s.part = .run → s.scrubOverdue = true → s.granted = some .scrub)
    ∧ (s.part = .run → s.scrubOverdue = false → ∀ c, s.granted = some c → ∃ before after,
        s.claims = before ++ c :: after ∧ (∀ d ∈ before, c.rank < d.rank) ∧ ∀ d ∈ after, c.rank ≤ d.rank)
    ∧ (s.part = .run → s.scrubOverdue = false → s.claims ≠ [] → s.granted ≠ none)
    ∧ (s.part = .halted → ∀ c, s.granted = some c → c = .service ∧ (s.svc.lastCode = 1 ∨ s.svc.lastCode = 2)))
  ∧ ((∀ e, (Claim.entry e).rank = 1) ∧ Claim.recallUnit.rank = 2 ∧ Claim.service.rank = 3 ∧ Claim.purge.rank = 4
    ∧ Claim.leave.rank = 4 ∧ Claim.intake.rank = 5 ∧ Claim.scrub.rank = 6)
  ∧ (∀ s : State, ∃ waiting new, s.refreshClaims.claims = waiting ++ new ∧ waiting.Sublist s.claims
      ∧ (∀ c ∈ s.claims, s.wants c = true → c ∈ waiting) ∧ (∀ c ∈ waiting, s.wants c = true)
      ∧ (∀ c, c ∈ new ↔ s.wants c = true ∧ c ∉ s.claims)
      ∧ new.Sublist (allEntries.map Claim.entry ++ [.recallUnit, .service, .purge, .leave, .intake, .scrub])
      ∧ { s.refreshClaims with claims := s.claims } = s)
  ∧ (∀ s : State, s.part = .run → ∀ c, c ∈ s.settle.claims ↔ s.settle.wants c = true)
  ∧ (∀ s : State,
    let free : Prop := ∃ e, (s.entry e).phase = .free
    let mayStart : StartItem → Prop := fun x => (∃ e, x = .parked e) → s.recallUnit.inFlight < s.cfg.recallBudget
    let classOne (k : Option EntryKind) : Prop := k = some .request ∨ k = some .service ∨ k = some .retract
    (s.wants .recallUnit = true ↔ s.recallUnit.accesses ≠ [] ∨ (∃ x ∈ s.recallUnit.queue, mayStart x) ∧ free)
    ∧ (s.wants .intake = true ↔ s.pause = false ∧ s.intake ≠ [])
    ∧ (∀ e, s.wants (.entry e) = true ↔ (s.entry e).phase = .lookup ∨ (s.entry e).phase = .releasing
        ∨ (s.entry e).phase = .probing ∧ (s.entry e).pendingSet = 0 ∧ classOne (s.entry e).kind
        ∨ (s.entry e).phase = .awaitSlot ∧ (s.entry e).slotClaim = true
        ∨ (s.entry e).phase = .awaitDone ∧ (s.entry e).closePending = true)
    ∧ (s.wants .service = true ↔ s.svc.waiting = .claim)
    ∧ (s.wants .purge = true ↔ ∃ a, s.purge.starts.get a ≠ none)
    ∧ (s.wants .leave = true ↔ s.leave.port ≠ none ∧ s.leave.complete = false ∧ s.leave.wait = .ready)
    ∧ (s.wants .scrub = true ↔ s.integ.scrubClaim ≠ none)
    ∧ (s.granted = some .recallUnit →
      (∀ e rest, s.recallUnit.accesses = e :: rest →
        ((s.entry e).repairRound = true ∨ (s.entry e).kind = some .repair → s.due = some (.repairResolution e))
        ∧ ((s.entry e).repairRound = false →
          ((s.entry e).kind = some .recallVictim → s.due = some (.recallResolution e))
          ∧ ((s.entry e).kind = some .retire → s.due = some (.retireResolution e))))
      ∧ (s.recallUnit.accesses = [] →
        (∀ before x after, s.recallUnit.queue = before ++ x :: after → mayStart x → (∀ y ∈ before, ¬ mayStart y) →
          s.due = some (match x with
            | .parked e => .recallStart e
            | .retire k w => .retireStart k w
            | .repair k t => .repairStart k t))
        ∧ ((∀ x ∈ s.recallUnit.queue, ¬ mayStart x) → s.due = none)))
    ∧ ∃ new, s.listAccesses.recallUnit = { s.recallUnit with accesses := s.recallUnit.accesses ++ new }
      ∧ new.Sublist allEntries ∧ { s.listAccesses with recallUnit := s.recallUnit } = s
      ∧ (s.part = .run → s.settle.recallUnit.accesses = s.recallUnit.accesses ++ new)
      ∧ ∀ e, (s.entry e).kind ≠ none → (e ∈ new ↔ (s.entry e).phase = .probing ∧ (s.entry e).pendingSet = 0
          ∧ ¬ classOne (s.entry e).kind ∧ e ∉ s.recallUnit.accesses))
  ∧ ∀ (s : State) (e : EntryIdx),
    (∀ l kind who req, (s.entry e).phase = .free →
      (s.takeEntry e l kind who req).inUseCount = s.inUseCount + 1
      ∧ (s.takeEntry e l kind who req).pause = (s.pause || decide (s.cfg.admitHigh ≤ s.inUseCount + 1)))
    ∧ (∀ k, (s.entry e).phase ≠ .free →
      (s.releaseEntry k e).inUseCount + 1 = s.inUseCount
      ∧ (s.releaseEntry k e).pause = (s.pause && !decide (s.inUseCount - 1 ≤ s.cfg.admitLow)))
    ∧ ∀ i rest who kind req, (s.entry e).phase ≠ .free →
      (s.handTo e i rest who kind req).inUseCount = s.inUseCount ∧ (s.handTo e i rest who kind req).pause = s.pause

/-- The outcomes of a request on a line with a SHARED, OWNED or POISONED record, when no probe is needed or its answers
are in: what is probed, and the record, the grant and the reports that the resolution gives; and its outcome on an absent
line (R28 to R33). -/
def Obligations.GrantTable : Prop :=
  (∀ (a : Agent) (r : Record) (x : Entry) (full : Bool),
    (r.state = .shared →
      probesNeeded .rdShared a r = none
      ∧ (∀ k, k = .rdOwn ∨ k = .upgrade → probesNeeded k a r =
          if without r.holders a = 0 then none else some (.invalidate, without r.holders a))
      ∧ grantOn .rdShared a full r x = ⟨{ r with holders := addTo r.holders a }, .shared, true, false, none⟩
      ∧ grantOn .rdOwn a full r x = ⟨⟨r.tag, .owned, only a, !full && r.poison⟩, .own, !full, false, none⟩
      ∧ grantOn .upgrade a full r x =
          ⟨⟨r.tag, .owned, only a, r.poison⟩, .own, !has r.holders a, false, none⟩)
    ∧ (r.state = .poisoned →
      (∀ k, probesNeeded k a r = none)
      ∧ grantOn .rdShared a full r x = ⟨⟨r.tag, .shared, only a, true⟩, .shared, true, false, none⟩
      ∧ grantOn .rdOwn a full r x = ⟨⟨r.tag, .owned, only a, !full && r.poison⟩, .own, !full, false, none⟩
      ∧ grantOn .upgrade a full r x = ⟨⟨r.tag, .owned, only a, r.poison⟩, .own, true, false, none⟩)
    ∧ (r.state = .owned → r.holders = only a →
      (∀ k, probesNeeded k a r = none) ∧ ∀ k, k = .rdShared ∨ k = .rdOwn ∨ k = .upgrade →
        grantOn k a full r x = ⟨r, .own, false, true, none⟩)
    ∧ (∀ o : Agent, r.state = .owned → r.holders = only o → o ≠ a →
      probesNeeded .rdShared a r = some (.downgrade, only o) ∧ probesNeeded .rdOwn a r = some (.invalidate, only o)
      ∧ probesNeeded .upgrade a r = some (.invalidate, only o)
      ∧ (x.answers.get o = some .clean ∨ x.answers.get o = some .written →
          grantOn .rdShared a full r x = ⟨⟨r.tag, .shared, addTo (only o) a, r.poison⟩, .shared, true, false, none⟩)
      ∧ (x.answers.get o = some .gone →
          grantOn .rdShared a full r x = ⟨⟨r.tag, .shared, only a, r.poison⟩, .shared, true, false, none⟩)
      ∧ (x.answers.get o = some .clean ∨ x.answers.get o = some .written ∨ x.answers.get o = some .gone →
          grantOn .rdOwn a full r x = ⟨⟨r.tag, .owned, only a, !full && r.poison⟩, .own, !full, false, none⟩
          ∧ grantOn .upgrade a full r x = ⟨⟨r.tag, .owned, only a, r.poison⟩, .own, true, false, none⟩)
      ∧ (x.answers.get o = some .fenceGone →
          grantOn .rdShared a full r x = ⟨⟨r.tag, .shared, only a, true⟩, .shared, true, false, some o⟩
          ∧ grantOn .rdOwn a false r x = ⟨⟨r.tag, .owned, only a, true⟩, .own, true, false, some o⟩
          ∧ grantOn .rdOwn a true r x = ⟨⟨r.tag, .owned, only a, false⟩, .own, false, false, none⟩
          ∧ grantOn .upgrade a full r x = ⟨⟨r.tag, .owned, only a, true⟩, .own, true, false, some o⟩)))
  ∧ ∀ (a : Agent) (full : Bool) (t : Tag),
    grantNew .rdShared a full t = ⟨⟨t, .shared, only a, false⟩, .shared, true, false, none⟩
    ∧ grantNew .rdOwn a full t = ⟨⟨t, .owned, only a, false⟩, .own, !full, false, none⟩
    ∧ grantNew .upgrade a full t = ⟨⟨t, .owned, only a, false⟩, .own, true, false, none⟩

/-- The victim of a recall is the unbound record with poison no that lies nearest the end of the recency order (R93). -/
def Obligations.VictimIsLeastRecentCandidate : Prop :=
  ∀ (d : DirSet),
    (∀ w, d.victim = some w → ∃ newer older r, d.recency = newer ++ w :: older ∧ d.record w = some r
      ∧ (d.slot w).bound = none ∧ r.poison = false
      ∧ ∀ v ∈ older, (d.slot v).bound ≠ none ∨ ∀ q, d.record v = some q → q.poison = true)
    ∧ (d.victim = none → ∀ v ∈ d.recency, (d.slot v).bound ≠ none ∨ ∀ q, d.record v = some q → q.poison = true)

/-! ### The lookup at the intake head -/

/-- A request whose line is bound waits at the end of that entry's list, in the lowest free slot of the wait pool, or is
refused WAIT_FULL; one whose unbound line misses in a LOST set is refused LOST. Its credit returns in each case, no entry is
taken, and a refusal is reported (R13, R26, R50, R51, R110). The order of the messages is log 35. -/
def Obligations.LookupQueuesOrRefuses : Prop :=
  (∀ (s : State) (f : List CellFault) (r : Request) (e : EntryIdx), s.due = some (.intake r) → s.noLeave →
      s.boundEntry r.line = some e → s.undisturbed (setOf r.line) f → s.member r.port = true →
      ∃ t, exec (.intakeLookup f) s = .next t ∧ t.intake = s.intake.tail
        ∧ t.dir = (s.checked (setOf r.line) f).dir ∧ (∀ i, (t.entry i).core = (s.entry i).core)
        ∧ (∃ more, t.outbox = ⟨r.port, .credit⟩ :: more)
        ∧ (∀ i, s.freePool = some i →
            t.waiter i = some (.request r) ∧ (t.entry e).waiters = (s.entry e).waiters ++ [i])
        ∧ (s.freePool = none →
            (∃ more, t.outbox = [⟨r.port, .credit⟩, ⟨r.port, .nack r.tag r.line .waitFull⟩] ++ more)
            ∧ { kind := .waitFull, agent := some r.port, line := some r.line, msg := some r.kind.code } ∈ t.reports
            ∧ t.pool = s.pool))
  ∧ (∀ (s : State) (f : List CellFault) (r : Request), s.due = some (.intake r) → s.noLeave →
      s.boundEntry r.line = none → s.undisturbed (setOf r.line) f → s.member r.port = true →
      (s.checked (setOf r.line) f).findLine r.line = none →
      ((s.checked (setOf r.line) f).dirSet (setOf r.line)).lost = true →
      ∃ t, exec (.intakeLookup f) s = .next t ∧ t.intake = s.intake.tail
        ∧ t.dir = (s.checked (setOf r.line) f).dir ∧ (∀ i, (t.entry i).core = (s.entry i).core)
        ∧ (∃ more, t.outbox = [⟨r.port, .credit⟩, ⟨r.port, .nack r.tag r.line .lost⟩] ++ more)
        ∧ { kind := .lostRefusal, agent := some r.port, line := some r.line, set := some (setOf r.line)
            msg := some r.kind.code } ∈ t.reports)

/-- A request on an unbound line whose record needs no probe takes the FREE entry with the lowest index and is granted
in its lookup access: the record is written by the tables, its way moves to the front, and the entry awaits DONE; the
pause flag is set when the count of entries in use comes to ADMIT_HIGH. A request of the line's owner is reported
OWNER_REREQUEST (R26, R27, R31, R34, R49, R55, R63, R155). The order of the messages is log 35. -/
def Obligations.LookupGrantsRecord : Prop :=
  ∀ (s : State) (f : List CellFault) (r : Request) (e : EntryIdx) (w : Way) (old : Record),
    s.due = some (.intake r) → s.lawful → s.undisturbed (setOf r.line) f → s.member r.port = true →
    r.kind.needsGrant = true → s.boundEntry r.line = none → s.freeEntry = some e →
    (s.checked (setOf r.line) f).onLine r.line w old → old.state ≠ .damaged →
    probesNeeded r.kind r.port old = none →
    let g := grantOn r.kind r.port r.fullWrite old (Entry.freeOf 0)
    ∃ t, exec (.intakeLookup f) s = .next t
      ∧ t.pause = (s.pause || decide (s.cfg.admitHigh ≤ s.inUseCount + 1))
      ∧ t.recordAt (setOf r.line) w = some g.record
      ∧ (∀ v, v ≠ w → t.recordAt (setOf r.line) v = (s.checked (setOf r.line) f).recordAt (setOf r.line) v)
      ∧ (t.dirSet (setOf r.line)).recency =
          w :: ((s.checked (setOf r.line) f).dirSet (setOf r.line)).recency.erase w
      ∧ ((t.dirSet (setOf r.line)).slot w).bound = some e
      ∧ (t.entry e).core = { Entry.freeOf ((s.entry e).gen + 1) with
          line := some r.line, way := some w, kind := some .request, requester := .agent r.port
          request := some (.agent r.kind r.tag r.fullWrite), phase := .awaitDone, grantSent := some g.kind
          doneTimer := some (16 * s.cfg.doneTmo) }
      ∧ (∀ i, i ≠ e → (t.entry i).core = (s.entry i).core)
      ∧ (∃ more, t.outbox = [⟨r.port, .credit⟩, ⟨r.port, .grant r.tag r.line (txnOf e ((s.entry e).gen + 1)) g.kind
          g.reread g.record.poison⟩] ++ more)
      ∧ (g.rerequest = true → { kind := .ownerRerequest, agent := some r.port, line := some r.line
                                set := some (setOf r.line), way := some w, txn := some (txnOf e ((s.entry e).gen + 1))
                                msg := some r.kind.code } ∈ t.reports)

/-- A request on an absent line of a set that is not LOST takes a slot and is granted with poison no, or parks at the end of
the recall start queue for want of a slot. The slot is the one reserved for the entry, else the lowest-numbered usable free
slot (R12, R14, R33, R88). The order of the messages is log 35. -/
def Obligations.LookupAllocatesOrParks : Prop :=
  (∀ (s : State) (f : List CellFault) (r : Request) (e : EntryIdx),
    s.due = some (.intake r) → s.lawful → s.undisturbed (setOf r.line) f → s.member r.port = true →
    r.kind.needsGrant = true → s.boundEntry r.line = none → s.freeEntry = some e →
    (s.checked (setOf r.line) f).findLine r.line = none →
    ((s.checked (setOf r.line) f).dirSet (setOf r.line)).lost = false →
    ∃ t, exec (.intakeLookup f) s = .next t ∧ (∀ i, i ≠ e → (t.entry i).core = (s.entry i).core)
      ∧ (∀ w, ((s.checked (setOf r.line) f).dirSet (setOf r.line)).allocWay e none = some w →
          let g := grantNew r.kind r.port r.fullWrite (tagOf r.line)
          t.recordAt (setOf r.line) w = some g.record ∧ g.record.poison = false
          ∧ (t.dirSet (setOf r.line)).slot w =
              { ((s.checked (setOf r.line) f).dirSet (setOf r.line)).slot w with
                content := some g.record, tagEcc := .good, holderEcc := .good, bound := some e, reservation := none }
          ∧ (t.dirSet (setOf r.line)).recency =
              w :: ((s.checked (setOf r.line) f).dirSet (setOf r.line)).recency.erase w
          ∧ (t.entry e).phase = .awaitDone ∧ (t.entry e).way = some w ∧ (t.entry e).grantSent = some g.kind
          ∧ (∃ more, t.outbox = [⟨r.port, .credit⟩, ⟨r.port, .grant r.tag r.line
              (txnOf e ((s.entry e).gen + 1)) g.kind g.reread false⟩] ++ more))
      ∧ (((s.checked (setOf r.line) f).dirSet (setOf r.line)).allocWay e none = none →
          (t.entry e).phase = .awaitSlot ∧ (t.entry e).line = some r.line ∧ (t.entry e).way = none
          ∧ t.dir = (s.checked (setOf r.line) f).dir
          ∧ (∃ starts, t.recallUnit.queue = starts ++ s.recallUnit.queue ++ [.parked e])))
  ∧ ∀ (d : DirSet) (e : EntryIdx),
    let usable : Way → Prop := fun w => d.record w = none ∧ (d.slot w).mark = .inService
      ∧ ((d.slot w).reservation = none ∨ (d.slot w).reservation = some e)
    (∀ w, d.allocWay e none = some w → usable w
      ∧ ((d.slot w).reservation ≠ some e → ∀ v, usable v → (d.slot v).reservation ≠ some e ∧ w ≤ v))
    ∧ (d.allocWay e none = none → ∀ v, ¬ usable v)

/-- A request whose record needs probes starts its round: the record is bound, the entry is PROBING, and each agent of the
probe set is waited for when its port is in the domain, and answers fence GONE at once when it is not. From a calm state each
agent waited for has a probe without retries and with its whole time, whose PROBE is sent at once on a free probe credit and
else joins the end of its port's queue, and the earlier sends of the transaction number are marked (`State.probesStarted`;
R27, R69 to R72, R77). -/
def Obligations.LookupStartsProbeRound : Prop :=
  ∀ (s : State) (f : List CellFault) (r : Request) (e : EntryIdx) (w : Way) (old : Record) (kind : ProbeKind)
    (set : AgentSet),
    s.due = some (.intake r) → s.lawful → s.undisturbed (setOf r.line) f → s.member r.port = true →
    r.kind.needsGrant = true → s.boundEntry r.line = none → s.freeEntry = some e →
    (s.checked (setOf r.line) f).onLine r.line w old →
    (old.state = .damaged ∧ kind = .invalidate ∧ set = s.memberSet
      ∨ old.state ≠ .damaged ∧ probesNeeded r.kind r.port old = some (kind, set)) →
    ∃ t, exec (.intakeLookup f) s = .next t ∧ (t.entry e).phase = .probing ∧ (t.entry e).probeKind = some kind
      ∧ (t.entry e).line = some r.line ∧ (t.entry e).way = some w ∧ (t.entry e).requester = .agent r.port
      ∧ (t.entry e).repairRound = decide (old.state = .damaged)
      ∧ (∀ a : Agent, has (t.entry e).pendingSet a = (has set a && s.member a)
          ∧ (t.entry e).answers.get a = if has set a ∧ s.member a = false then some .fenceGone else none)
      ∧ (s.calm → s.probesStarted t e (txnOf e ((s.entry e).gen + 1)) r.line kind set)
      ∧ ((t.dirSet (setOf r.line)).slot w).bound = some e
      ∧ (∀ v, t.recordAt (setOf r.line) v = (s.checked (setOf r.line) f).recordAt (setOf r.line) v)
      ∧ (∀ i, i ≠ e → (t.entry i).core = (s.entry i).core)

/-- A notice on an unbound line is decided in its lookup access by the tables of notices, and acknowledged; no entry is
taken (R36 to R39). The order of the messages is log 35. -/
def Obligations.LookupAnswersNotice : Prop :=
  ∀ (s : State) (f : List CellFault) (r : Request), s.due = some (.intake r) → s.lawful →
    s.undisturbed (setOf r.line) f → s.member r.port = true → r.kind = .writeback ∨ r.kind = .drop →
    s.boundEntry r.line = none → (s.checked (setOf r.line) f).lineBound r.line none →
    let c := s.checked (setOf r.line) f
    ∃ t, exec (.intakeLookup f) s = .next t ∧ (∀ i, (t.entry i).core = (s.entry i).core)
      ∧ (c.findLine r.line = none → (c.dirSet (setOf r.line)).lost = false →
          t.dir = c.dir ∧ ∃ more, t.outbox = [⟨r.port, .credit⟩, ⟨r.port, .ack r.tag r.line true⟩] ++ more)
      ∧ ∀ w old, c.onLine r.line w old →
          t.recordAt (setOf r.line) w = (noticeTable r.kind r.port (some old)).2
          ∧ (∀ v, v ≠ w → t.recordAt (setOf r.line) v = c.recordAt (setOf r.line) v)
          ∧ ∃ more, t.outbox = [⟨r.port, .credit⟩,
              ⟨r.port, .ack r.tag r.line (noticeTable r.kind r.port (some old)).1⟩] ++ more


/-! ### Resolutions, closes and hand-ons -/

/-- The resolution access of a settled request writes the record by the tables and the answers received, moves its way to
the front, sends GRANT to a requester in the domain and awaits DONE. A request of the line's owner is reported
OWNER_REREQUEST. For a FENCED requester the record is written by the tables, nothing is sent, and the access is the close:
the fenced agents leave the record just written, and an owner so lost is reported (R31, R34, R35, R54, R55, R58, R155). That
the GRANT comes first among the messages is log 35. -/
def Obligations.ResolutionGrants : Prop :=
  (∀ (s : State) (f : List CellFault) (e : EntryIdx) (r : Request) (w : Way) (old : Record),
    s.due = some (.resolution e) → s.lawful → s.undisturbed (setOf r.line) f → s.requestOf e = some r →
    s.member r.port = true → (s.checked (setOf r.line) f).onLine r.line w old → old.state ≠ .damaged →
    let g := grantOn r.kind r.port r.fullWrite old (s.entry e)
    ∃ t, exec (.resolutionAccess f) s = .next t
      ∧ t.recordAt (setOf r.line) w = some g.record
      ∧ (∀ v, v ≠ w → t.recordAt (setOf r.line) v = (s.checked (setOf r.line) f).recordAt (setOf r.line) v)
      ∧ (t.dirSet (setOf r.line)).recency =
          w :: ((s.checked (setOf r.line) f).dirSet (setOf r.line)).recency.erase w
      ∧ (t.entry e).phase = .awaitDone ∧ (t.entry e).grantSent = some g.kind ∧ (t.entry e).closePending = false
      ∧ (t.entry e).doneTimer = some (16 * s.cfg.doneTmo) ∧ (t.entry e).gen = (s.entry e).gen
      ∧ (∃ more, t.outbox = ⟨r.port, .grant r.tag r.line (s.txn e) g.kind g.reread g.record.poison⟩ :: more)
      ∧ (∀ o, g.lostOwner = some o → { kind := .poisonCreated, line := some r.line, set := some (setOf r.line)
                                       way := some w, agent := some o, txn := some (s.txn e) } ∈ t.reports)
      ∧ (g.rerequest = true → { kind := .ownerRerequest, agent := some r.port, line := some r.line
                                set := some (setOf r.line), way := some w, txn := some (s.txn e)
                                msg := some r.kind.code } ∈ t.reports)
      ∧ (∀ i, i ≠ e → (t.entry i).core = (s.entry i).core))
  ∧ ∀ (s : State) (f : List CellFault) (e : EntryIdx) (r : Request) (w : Way) (old : Record),
    s.due = some (.resolution e) → s.lawful → s.undisturbed (setOf r.line) f → s.requestOf e = some r →
    s.fenced r.port = true → (s.checked (setOf r.line) f).onLine r.line w old → old.state ≠ .damaged →
    (s.entry e).waiters = [] →
    let k := setOf r.line
    let g := grantOn r.kind r.port r.fullWrite old (s.entry e)
    ∃ t, exec (.resolutionAccess f) s = .next t
      ∧ t.recordAt k w = closeTable s.fencedSet g.record
      ∧ (∀ v, v ≠ w → t.recordAt k v = (s.checked k f).recordAt k v)
      ∧ (∀ m, ⟨r.port, m⟩ ∉ t.outbox) ∧ (t.entry e).core = (Entry.freeOf (s.entry e).gen).core
      ∧ (∀ a, g.record.state = .owned → g.record.owner = some a → has s.fencedSet a = true →
          poisonReport k w old.tag (some a) (some (s.txn e)) ∈ t.reports)
      ∧ (∀ i, i ≠ e → (t.entry i).core = (s.entry i).core)

/-- A parked request whose line is still absent takes the slot reserved for it, else the lowest usable free slot
(`DirSet.allocWay`, as the lookup's statement pins it), and is granted with poison no; the reservation is gone. Without a
slot it parks again, its item at the front of the queue. For a FENCED requester the access is the close: the reservation
ends, and that no record is allocated first is the model's reading, log 14 (R7, R14, R35, R58, R88, R97). That the GRANT
comes first among the messages is log 35. -/
def Obligations.ParkedTakesSlot : Prop :=
  (∀ (s : State) (f : List CellFault) (e : EntryIdx) (r : Request) (w : Way),
    s.due = some (.parked e) → s.lawful → s.undisturbed (setOf r.line) f → s.requestOf e = some r →
    s.member r.port = true → (s.checked (setOf r.line) f).findLine r.line = none →
    ((s.checked (setOf r.line) f).dirSet (setOf r.line)).allocWay e none = some w →
    let g := grantNew r.kind r.port r.fullWrite (tagOf r.line)
    ∃ t, exec (.parkedResolution f) s = .next t
      ∧ t.recordAt (setOf r.line) w = some g.record ∧ g.record.poison = false
      ∧ ((t.dirSet (setOf r.line)).slot w).reservation = none ∧ ((t.dirSet (setOf r.line)).slot w).bound = some e
      ∧ (t.dirSet (setOf r.line)).recency =
          w :: ((s.checked (setOf r.line) f).dirSet (setOf r.line)).recency.erase w
      ∧ (t.entry e).phase = .awaitDone ∧ (t.entry e).way = some w ∧ (t.entry e).grantSent = some g.kind
      ∧ (∃ more, t.outbox = ⟨r.port, .grant r.tag r.line (s.txn e) g.kind g.reread false⟩ :: more)
      ∧ (∀ i, i ≠ e → (t.entry i).core = (s.entry i).core))
  ∧ (∀ (s : State) (f : List CellFault) (e : EntryIdx) (r : Request),
    s.due = some (.parked e) → s.lawful → s.undisturbed (setOf r.line) f → s.requestOf e = some r →
    s.fenced r.port = false → (s.checked (setOf r.line) f).findLine r.line = none →
    ((s.checked (setOf r.line) f).dirSet (setOf r.line)).allocWay e none = none →
    ∃ t, exec (.parkedResolution f) s = .next t ∧ (t.entry e).phase = .awaitSlot ∧ (t.entry e).slotClaim = false
      ∧ t.dir = (s.checked (setOf r.line) f).dir
      ∧ (∃ starts, t.recallUnit.queue = starts ++ .parked e :: s.recallUnit.queue)
      ∧ (∀ i, i ≠ e → (t.entry i).core = (s.entry i).core))
  ∧ ∀ (s : State) (f : List CellFault) (e : EntryIdx),
    s.due = some (.parked e) → s.lawful → s.undisturbed (setOf (s.lineOfEntry e)) f → s.requesterFenced e = true →
    (s.checked (setOf (s.lineOfEntry e)) f).findLine (s.lineOfEntry e) = none → (s.entry e).waiters = [] →
    let k := setOf (s.lineOfEntry e)
    ∃ t, exec (.parkedResolution f) s = .next t
      ∧ (∀ v, t.recordAt k v = (s.checked k f).recordAt k v)
      ∧ (∀ v, ((t.dirSet k).slot v).reservation =
          if ((s.checked k f).slot k v).reservation = some e then none else ((s.checked k f).slot k v).reservation)
      ∧ (t.entry e).core = (Entry.freeOf (s.entry e).gen).core
      ∧ (∀ i, i ≠ e → (t.entry i).core = (s.entry i).core)

/-- The close access takes fenced agents out of its record (`closeTable`), reports an owner so lost as POISON_CREATED, and
ends the reservation and the bound field that name the entry. A granted request on a DAMAGED record is the exception
below (R58, R60). -/
def Obligations.CloseFiltersFencedHolders : Prop :=
  ∀ (s : State) (f : List CellFault) (e : EntryIdx) (w : Way) (r : Record),
    s.due = some (.close e) → s.lawful → s.undisturbed (setOf (s.lineOfEntry e)) f →
    (s.checked (setOf (s.lineOfEntry e)) f).onLine (s.lineOfEntry e) w r →
    (s.checked (setOf (s.lineOfEntry e)) f).lineBound (s.lineOfEntry e) (some e) →
    ¬ ((s.entry e).kind = some .request ∧ (s.entry e).grantSent.isSome = true ∧ r.state = .damaged) →
    (s.entry e).waiters = [] →
    let k := setOf (s.lineOfEntry e)
    ∃ t, exec (.closeAccess f) s = .next t ∧ t.recordAt k w = closeTable s.fencedSet r
      ∧ (∀ v, v ≠ w → t.recordAt k v = (s.checked k f).recordAt k v)
      ∧ (∀ v, ((t.dirSet k).slot v).bound ≠ some e ∧ ((t.dirSet k).slot v).reservation ≠ some e)
      ∧ (∀ a, r.state = .owned → r.owner = some a → has s.fencedSet a = true →
          poisonReport k w r.tag (some a) (some (s.txn e)) ∈ t.reports)
      ∧ (t.entry e).core = (Entry.freeOf (s.entry e).gen).core
      ∧ (∀ i, i ≠ e → (t.entry i).core = (s.entry i).core)

/-- The close hands its entry on: without waiters the entry becomes FREE with its generation kept; a waiting request
that needs a grant, or a waiting RECALL_LINE, begins its own transaction on the line, with the next generation; a
waiting notice or CLEAR_POISON puts the entry into RELEASING. In each case the entry leaves every fence snapshot, and a
FENCED port whose snapshot this empties joins the purge set at the walker's position. An entry that becomes FREE clears
the pause flag when the count of entries in use comes to ADMIT_LOW; a hand-on keeps the flag (R53, R57, R60, R62, R63,
R116, R119). -/
def Obligations.CloseHandsOn : Prop :=
  ∀ (s : State) (f : List CellFault) (e : EntryIdx), s.due = some (.close e) →
    s.undisturbed (setOf (s.lineOfEntry e)) f →
    (s.checked (setOf (s.lineOfEntry e)) f).lineBound (s.lineOfEntry e) (some e) →
    ¬ ((s.entry e).kind = some .request ∧ (s.entry e).grantSent.isSome = true
        ∧ (s.checked (setOf (s.lineOfEntry e)) f).recordState e = some .damaged) →
    ∃ t, exec (.closeAccess f) s = .next t ∧ (∀ i, i ≠ e → (t.entry i).core = (s.entry i).core)
      ∧ (∀ p, (t.port p).snapshot = without (s.port p).snapshot e)
      ∧ t.purge.pos = s.purge.pos
      ∧ (∀ p, t.purge.starts.get p =
          if (s.port p).state = .fenced ∧ has (s.port p).snapshot e = true ∧ without (s.port p).snapshot e = 0
          then some s.purge.pos else s.purge.starts.get p)
      ∧ ((s.entry e).waiters = [] → (t.entry e).core = (Entry.freeOf (s.entry e).gen).core
          ∧ t.pause = (s.pause && !decide (s.inUseCount - 1 ≤ s.cfg.admitLow)))
      ∧ ((s.entry e).waiters ≠ [] → t.pause = s.pause)
      ∧ (∀ i rest q, (s.entry e).waiters = i :: rest → s.waiter i = some (.request q) → q.kind.needsGrant = true →
          (t.entry e).phase = .lookup ∧ (t.entry e).gen = (s.entry e).gen + 1
          ∧ (t.entry e).requester = .agent q.port ∧ (t.entry e).request = some (.agent q.kind q.tag q.fullWrite)
          ∧ (t.entry e).kind = some .request ∧ (t.entry e).line = (s.entry e).line
          ∧ (t.entry e).grantSent = none ∧ (t.entry e).doneTimer = none ∧ t.waiter i = none)
      ∧ (∀ i rest l, (s.entry e).waiters = i :: rest → s.waiter i = some (.recallLine l) →
          (t.entry e).phase = .lookup ∧ (t.entry e).gen = (s.entry e).gen + 1 ∧ (t.entry e).requester = .service
          ∧ (t.entry e).kind = some .service ∧ (t.entry e).request = some .recallLine)
      ∧ (∀ i rest x, (s.entry e).waiters = i :: rest → s.waiter i = some x → x.oneAccess = true →
          (t.entry e).phase = .releasing ∧ (t.entry e).line = (s.entry e).line)

/-- The close access of a granted request that finds the record DAMAGED starts a repair round instead, with the requester
as keep agent (R58, R138, R139). -/
def Obligations.CloseRepairsDamagedRecord : Prop :=
  ∀ (s : State) (f : List CellFault) (e : EntryIdx), s.due = some (.close e) →
    s.undisturbed (setOf (s.lineOfEntry e)) f → (s.entry e).kind = some .request →
    (s.entry e).grantSent.isSome = true →
    (s.checked (setOf (s.lineOfEntry e)) f).recordState e = some .damaged →
    ∃ t, exec (.closeAccess f) s = .next t ∧ (t.entry e).phase = .probing ∧ (t.entry e).repairRound = true
      ∧ (t.entry e).probeKind = some .invalidate ∧ (t.entry e).keep = (s.entry e).agent?
      ∧ (∀ a : Agent, has (t.entry e).pendingSet a = (s.member a && decide ((s.entry e).agent? ≠ some a)))
      ∧ t.dir = (s.checked (setOf (s.lineOfEntry e)) f).dir
      ∧ (∀ i, i ≠ e → (t.entry i).core = (s.entry i).core)

/-- The lookup access of a request that a close handed the entry to decides it as a lookup does: a record that needs no
probe is granted at once; one that needs probes starts their round, and a DAMAGED one its repair; an absent line takes a
slot or parks, LOST set or not; a fenced requester's entry closes (R13, R27, R33, R53, R69, R138). A handed-on RECALL_LINE
starts an INVALIDATE round or a repair, or ends ABSENT; that it closes its entry with NO_HOLDERS on a POISONED line is the
model's choice, log 36 (R57, R100). That the GRANT comes first among the messages is log 35. -/
def Obligations.HandedOnRequestIsDecided : Prop :=
  (∀ (s : State) (f : List CellFault) (e : EntryIdx) (r : Request) (w : Way) (old : Record),
    s.due = some (.handedOn e) → s.lawful → s.undisturbed (setOf r.line) f → s.requestOf e = some r →
    (s.entry e).kind = some .request → (s.checked (setOf r.line) f).onLine r.line w old →
    (s.checked (setOf r.line) f).lineBound r.line (some e) →
    ∃ t, exec (.lookupAfterHandOn f) s = .next t
      ∧ (s.member r.port = true → old.state ≠ .damaged → probesNeeded r.kind r.port old = none →
          let g := grantOn r.kind r.port r.fullWrite old (s.entry e)
          t.recordAt (setOf r.line) w = some g.record ∧ (t.entry e).phase = .awaitDone
          ∧ (t.entry e).grantSent = some g.kind
          ∧ ∃ more, t.outbox = ⟨r.port, .grant r.tag r.line (s.txn e) g.kind g.reread g.record.poison⟩ :: more)
      ∧ (∀ kind set, s.fenced r.port = false →
          old.state = .damaged ∧ kind = .invalidate ∧ set = s.memberSet
            ∨ old.state ≠ .damaged ∧ probesNeeded r.kind r.port old = some (kind, set) →
          (t.entry e).phase = .probing ∧ (t.entry e).probeKind = some kind
          ∧ (t.entry e).repairRound = decide (old.state = .damaged)
          ∧ (∀ a : Agent, has (t.entry e).pendingSet a = (has set a && s.member a)
              ∧ (t.entry e).answers.get a = if has set a ∧ s.member a = false then some .fenceGone else none)
          ∧ ∀ v, t.recordAt (setOf r.line) v = (s.checked (setOf r.line) f).recordAt (setOf r.line) v)
      ∧ (s.fenced r.port = true → (s.entry e).waiters = [] →
          (t.entry e).core = (Entry.freeOf (s.entry e).gen).core)
      ∧ (∀ i, i ≠ e → (t.entry i).core = (s.entry i).core))
  ∧ (∀ (s : State) (f : List CellFault) (e : EntryIdx) (r : Request),
    s.due = some (.handedOn e) → s.lawful → s.undisturbed (setOf r.line) f → s.requestOf e = some r →
    (s.entry e).kind = some .request → (s.checked (setOf r.line) f).findLine r.line = none →
    s.fenced r.port = false →
    let d := (s.checked (setOf r.line) f).dirSet (setOf r.line)
    ∃ t, exec (.lookupAfterHandOn f) s = .next t ∧ (∀ i, i ≠ e → (t.entry i).core = (s.entry i).core)
      ∧ (∀ w, d.allocWay e none = some w →
          let g := grantNew r.kind r.port r.fullWrite (tagOf r.line)
          t.recordAt (setOf r.line) w = some g.record ∧ ((t.dirSet (setOf r.line)).slot w).bound = some e
          ∧ ((t.dirSet (setOf r.line)).slot w).reservation = none
          ∧ (t.dirSet (setOf r.line)).recency = w :: d.recency.erase w
          ∧ (t.entry e).phase = .awaitDone ∧ (t.entry e).way = some w ∧ (t.entry e).grantSent = some g.kind
          ∧ (s.member r.port = true → ∃ more,
              t.outbox = ⟨r.port, .grant r.tag r.line (s.txn e) g.kind g.reread false⟩ :: more))
      ∧ (d.allocWay e none = none → (t.entry e).phase = .awaitSlot ∧ (t.entry e).way = none
          ∧ t.dir = (s.checked (setOf r.line) f).dir
          ∧ ∃ starts, t.recallUnit.queue = starts ++ s.recallUnit.queue ++ [.parked e]))
  ∧ ∀ (s : State) (f : List CellFault) (e : EntryIdx), s.due = some (.handedOn e) → s.lawful →
    s.undisturbed (setOf (s.lineOfEntry e)) f → (s.entry e).kind = some .service →
    let l := s.lineOfEntry e
    let c := s.checked (setOf l) f
    let result (o : ResultOutcome) : Result :=
      { Result.clear with outcome := o, txn := some (s.txn e), answers := (s.entry e).answers }
    ∃ t, exec (.lookupAfterHandOn f) s = .next t ∧ (c.lineBound l (some e) → ∀ i, i ≠ e →
        (t.entry i).core = (s.entry i).core)
      ∧ (∀ v, t.recordAt (setOf l) v = c.recordAt (setOf l) v)
      ∧ (∀ w old, c.onLine l w old → old.state ≠ .poisoned →
          (t.entry e).phase = .probing ∧ (t.entry e).probeKind = some .invalidate
          ∧ (t.entry e).repairRound = decide (old.state = .damaged)
          ∧ ((t.dirSet (setOf l)).slot w).bound = some e
          ∧ ∀ a : Agent, has (t.entry e).pendingSet a =
              (s.member a && (decide (old.state = .damaged) || has old.holders a)))
      ∧ (∀ w old, c.onLine l w old → old.state = .poisoned → (s.entry e).waiters = [] →
          (t.entry e).core = (Entry.freeOf (s.entry e).gen).core ∧ t.svc.status = .done
          ∧ t.svc.result = result .noHolders)
      ∧ (c.findLine l = none → (s.entry e).waiters = [] →
          (t.entry e).core = (Entry.freeOf (s.entry e).gen).core ∧ t.svc.status = .done
          ∧ t.svc.result = result .absent)

/-- A RELEASING access decides the one-access waiter at the front of the entry's list on the entry's line, whose slot is then
free: a notice by the tables of notices, CLEAR_POISON by its own table, an absent line included. The hand-on step on the rest
of the list follows (`State.handOnStep`). With an entry waiter at the front, or with none, the access makes the hand-on step
alone (R36 to R39, R50, R60 to R62, R186). That the ACK comes first among the messages is log 35. -/
def Obligations.ReleasingDecidesWaiter : Prop :=
  (∀ (s : State) (f : List CellFault) (e : EntryIdx) (i : PoolIdx) (rest : List PoolIdx) (x : Waiter),
    s.due = some (.releasing e) → s.lawful → s.undisturbed (setOf (s.lineOfEntry e)) f →
    (s.entry e).waiters = i :: rest → s.waiter i = some x → x.oneAccess = true →
    (s.checked (setOf (s.lineOfEntry e)) f).lineBound (s.lineOfEntry e) (some e) →
    let l := s.lineOfEntry e
    let k := setOf l
    let c := s.checked k f
    ∃ t, exec (.releasingAccess f) s = .next t ∧ t.waiter i = none ∧ s.handOnStep t e rest
      ∧ (∀ j, j ≠ e → (t.entry j).core = (s.entry j).core)
      ∧ (∀ v, c.findLine l ≠ some v → t.recordAt k v = c.recordAt k v)
      ∧ (∀ q, x = .request q →
          (∀ w old, c.onLine l w old → t.recordAt k w = (noticeTable q.kind q.port (some old)).2)
          ∧ (s.member q.port = true →
            (∀ w old, c.onLine l w old → ∃ more,
              t.outbox = ⟨q.port, .ack q.tag l (noticeTable q.kind q.port (some old)).1⟩ :: more)
            ∧ (c.findLine l = none → ∃ more, t.outbox = ⟨q.port, .ack q.tag l true⟩ :: more)))
      ∧ (∀ m, x = .clearPoison m → t.svc.status = .done
          ∧ (∀ w old, c.onLine l w old → t.recordAt k w = (clearPoisonTable (some old)).2
            ∧ t.svc.result = { Result.clear with outcome := (clearPoisonTable (some old)).1 })
          ∧ (c.findLine l = none → t.svc.result = { Result.clear with outcome := (clearPoisonTable none).1 })))
  ∧ ∀ (s : State) (f : List CellFault) (e : EntryIdx),
    s.due = some (.releasing e) → s.lawful → s.undisturbed (setOf (s.lineOfEntry e)) f →
    (∀ i rest x, (s.entry e).waiters = i :: rest → s.waiter i = some x → x.oneAccess = false) →
    let k := setOf (s.lineOfEntry e)
    ∃ t, exec (.releasingAccess f) s = .next t ∧ s.handOnStep t e (s.entry e).waiters
      ∧ (∀ j, j ≠ e → (t.entry j).core = (s.entry j).core)
      ∧ ∀ v, t.recordAt k v = (s.checked k f).recordAt k v

/-! ### Recalls, retirements and repairs -/

/-- The start access of a parked request closes it for a fenced requester; else it reserves the lowest usable free slot,
begins a RECALL of the victim in the lowest FREE entry, or refuses the request NO_SLOT. The RECALL serves the parked
entry and counts as in flight; it starts an INVALIDATE round to the victim's holders, or, on a DAMAGED victim, a repair
round to every agent of the domain, without a keep agent. With a victim and no FREE entry nothing changes: the item
stays in the queue, and with no access pending the start claim is withdrawn until an entry becomes FREE (R49, R63, R69,
R71, R72, R91 to R95, R138, R139). That the NACK comes first among the messages is log 35. -/
def Obligations.RecallStartFindsSlot : Prop :=
  ∀ (s : State) (f : List CellFault) (p : EntryIdx), s.due = some (.recallStart p) → s.lawful →
    s.undisturbed (setOf (s.lineOfEntry p)) f →
    let k := setOf (s.lineOfEntry p)
    let d := (s.checked k f).dirSet k
    ∃ t, exec (.recallStart f) s = .next t
      ∧ (s.requesterFenced p = true → (s.entry p).waiters = [] →
          (t.entry p).core = (Entry.freeOf (s.entry p).gen).core)
      ∧ (s.requesterFenced p = false → ∀ w, d.usableWay p = some w →
          ((t.dirSet k).slot w).reservation = some p
          ∧ (t.entry p).core = { (s.entry p).core with slotClaim := true }
          ∧ ∃ starts, t.recallUnit.queue = starts ++ s.recallUnit.queue.erase (.parked p))
      ∧ (s.requesterFenced p = false → d.usableWay p = none → ∀ w r e, d.victim = some w → d.record w = some r →
          s.freeEntry = some e →
          let set : AgentSet := if r.state = .damaged then s.memberSet else r.holders
          (t.entry e).kind = some .recallVictim ∧ (t.entry e).requester = .none
          ∧ (t.entry e).line = some (lineOf k r.tag) ∧ (t.entry e).way = some w ∧ (t.entry e).phase = .probing
          ∧ (t.entry e).probeKind = some .invalidate ∧ (t.entry e).repairRound = decide (r.state = .damaged)
          ∧ (t.entry e).keep = none ∧ (t.entry e).gen = (s.entry e).gen + 1
          ∧ (∀ a : Agent, has (t.entry e).pendingSet a = (has set a && s.member a)
              ∧ (t.entry e).answers.get a = if has set a ∧ s.member a = false then some .fenceGone else none)
          ∧ (s.calm → s.probesStarted t e (txnOf e ((s.entry e).gen + 1)) (lineOf k r.tag) .invalidate set)
          ∧ ((t.dirSet k).slot w).bound = some e ∧ (∀ v, t.recordAt k v = d.record v)
          ∧ t.recallUnit.inFlight = s.recallUnit.inFlight + 1 ∧ t.recallUnit.serves.get e = some p
          ∧ (∃ starts, t.recallUnit.queue = starts ++ s.recallUnit.queue.erase (.parked p))
          ∧ t.pause = (s.pause || decide (s.cfg.admitHigh ≤ s.inUseCount + 1))
          ∧ ∀ i, i ≠ e → (t.entry i).core = (s.entry i).core)
      ∧ (s.requesterFenced p = false → d.usableWay p = none → ∀ w, d.victim = some w → s.freeEntry = none →
          t.dir = (s.checked k f).dir ∧ (∀ i, (t.entry i).core = (s.entry i).core)
          ∧ t.recallUnit.inFlight = s.recallUnit.inFlight ∧ t.recallUnit.serves = s.recallUnit.serves
          ∧ (∃ starts, t.recallUnit.queue = starts ++ s.recallUnit.queue) ∧ t.pause = s.pause
          ∧ (t.recallUnit.accesses = [] → Claim.recallUnit ∉ t.claims))
      ∧ (∀ r, s.requesterFenced p = false → d.usableWay p = none → d.victim = none → s.requestOf p = some r →
          s.member r.port = true → (s.entry p).waiters = [] →
          (∃ more, t.outbox = ⟨r.port, .nack r.tag r.line .noSlot⟩ :: more)
          ∧ { kind := .noSlot, agent := some r.port, line := some r.line, set := some k, txn := some (s.txn p) }
              ∈ t.reports
          ∧ (t.entry p).core = (Entry.freeOf (s.entry p).gen).core)

/-- The resolution of a RECALL frees the victim's slot and reserves it for the parked entry it serves, whose resolution
claim is raised; when the victim's owner was lost the record becomes POISONED, which is reported, and the parked entry's
item joins the front of the queue (R96, R97). -/
def Obligations.RecallFreesVictimOrPoisons : Prop :=
  ∀ (s : State) (f : List CellFault) (e p : EntryIdx) (w : Way) (r : Record),
    s.due = some (.recallResolution e) → s.lawful → s.undisturbed (setOf (s.lineOfEntry e)) f →
    (s.checked (setOf (s.lineOfEntry e)) f).onLine (s.lineOfEntry e) w r → r.state ≠ .damaged →
    s.recallUnit.serves.get e = some p → p ≠ e → (s.entry e).kind = some .recallVictim → (s.entry e).waiters = [] →
    let k := setOf (s.lineOfEntry e)
    ∃ t, exec (.recallResolution f) s = .next t ∧ t.recallUnit.inFlight = s.recallUnit.inFlight - 1
      ∧ (t.entry e).core = (Entry.freeOf (s.entry e).gen).core
      ∧ (∀ v, v ≠ w → t.recordAt k v = (s.checked k f).recordAt k v)
      ∧ (r.lostOwner (s.entry e) = none →
          t.recordAt k w = none ∧ ((t.dirSet k).slot w).reservation = some p ∧ (t.entry p).slotClaim = true
          ∧ (t.dirSet k).recency = ((s.checked k f).dirSet k).recency.erase w)
      ∧ (∀ o, r.lostOwner (s.entry e) = some o →
          t.recordAt k w = some (poisonedRecord r.tag)
          ∧ poisonReport k w r.tag (some o) (some (s.txn e)) ∈ t.reports
          ∧ ∃ starts, t.recallUnit.queue = starts ++ .parked p :: s.recallUnit.queue)

/-- The start access of a RETIRE item: a free slot is marked RETIRED and reported; a poisoned record moves to the lowest
usable free slot, its way taking the old way's place in the order, or waits for room on the retire list; any other unbound
record is taken back by a RETIRE in the lowest FREE entry, a DAMAGED one by a repair round; a bound one waits on the retire
list for its unbinding; a full retired map denies (R8, R138, R142 to R144, R146). -/
def Obligations.RetireStartEmptiesSlot : Prop :=
  ∀ (s : State) (f : List CellFault) (k : SetIdx) (w : Way), s.due = some (.retireStart k w) → s.lawful →
    s.undisturbed k f → (((s.checked k f).dirSet k).slot w).mark = .inService →
    let d := (s.checked k f).dirSet k
    ∃ t, exec (.retireStart f) s = .next t
      ∧ (d.mapHasRoom = false →
          { kind := .retireDenied, set := some k, way := some w, count := some (d.slot w).health } ∈ t.reports
          ∧ t.dir = (s.checked k f).dir)
      ∧ (d.mapHasRoom = true → (d.slot w).content = none →
          ((t.dirSet k).slot w).mark = .retired ∧ ((t.dirSet k).slot w).content = none
          ∧ { kind := .slotRetired, set := some k, way := some w, count := some (d.slot w).health } ∈ t.reports)
      ∧ (d.mapHasRoom = true → ∀ r, (d.slot w).content = some r → (d.slot w).bound = none → r.poison = true →
          r.state ≠ .damaged → ∀ v, d.moveWay = some v → v ≠ w →
          t.recordAt k v = some r ∧ t.recordAt k w = none ∧ ((t.dirSet k).slot w).mark = .retired
          ∧ (t.dirSet k).recency = d.recency.map (fun x => if x = w then v else x))
      ∧ (d.mapHasRoom = true → ∀ r e, (d.slot w).content = some r → (d.slot w).bound = none → r.poison = false →
          r.state ≠ .damaged → s.freeEntry = some e →
          (t.entry e).kind = some .retire ∧ (t.entry e).line = some (lineOf k r.tag) ∧ (t.entry e).way = some w
          ∧ (t.entry e).phase = .probing ∧ (t.entry e).probeKind = some .invalidate
          ∧ (∀ a : Agent, has (t.entry e).pendingSet a = (has r.holders a && s.member a))
          ∧ ((t.dirSet k).slot w).bound = some e)
      ∧ (d.mapHasRoom = true → ∀ r e, (d.slot w).content = some r → (d.slot w).bound = none → r.state = .damaged →
          s.freeEntry = some e →
          (t.entry e).kind = some .retire ∧ (t.entry e).line = some (lineOf k r.tag) ∧ (t.entry e).way = some w
          ∧ (t.entry e).phase = .probing ∧ (t.entry e).repairRound = true ∧ (t.entry e).keep = none
          ∧ (∀ a : Agent, has (t.entry e).pendingSet a = s.member a) ∧ ((t.dirSet k).slot w).bound = some e)
      ∧ (d.mapHasRoom = true → ∀ r, (d.slot w).content = some r → s.integ.retireList.length < 16 →
          ((d.slot w).bound ≠ none → t.dir = (s.checked k f).dir
            ∧ t.integ.retireList = s.integ.retireList ++ [⟨k, w, .waitUnbind⟩])
          ∧ ((d.slot w).bound = none → r.poison = true → r.state ≠ .damaged → d.moveWay = none →
            t.dir = (s.checked k f).dir ∧ t.integ.retireList = s.integ.retireList ++ [⟨k, w, .waitRoom⟩]))

/-- The resolution of a RETIRE without a lost owner frees the slot and marks it RETIRED when the map has room, or denies;
the entry closes (R145). One that loses the owner writes the record POISONED, which is reported, and closes; the record
moves to the lowest usable free slot and its old slot is RETIRED, or the slot waits for room on the retire list, where a
full map is reported RETIRE_DENIED: that this happens in the same access is the model's reading, log 15. No slot is reserved for
a RETIRE's entry, since a reservation names a parked REQUEST entry (R7, R143, R145, R146). -/
def Obligations.RetireResolutionWithdrawsSlot : Prop :=
  (∀ (s : State) (f : List CellFault) (e : EntryIdx) (w : Way) (r : Record),
    s.due = some (.retireResolution e) → s.lawful → s.undisturbed (setOf (s.lineOfEntry e)) f →
    (s.checked (setOf (s.lineOfEntry e)) f).onLine (s.lineOfEntry e) w r → r.state ≠ .damaged →
    r.lostOwner (s.entry e) = none → (s.entry e).waiters = [] →
    ((s.checked (setOf (s.lineOfEntry e)) f).dirSet (setOf (s.lineOfEntry e))).recency.Nodup →
    let k := setOf (s.lineOfEntry e)
    let d := (s.checked k f).dirSet k
    ∃ t, exec (.retireResolution f) s = .next t
      ∧ t.recordAt k w = none ∧ (t.dirSet k).recency = d.recency.erase w
      ∧ (t.entry e).core = (Entry.freeOf (s.entry e).gen).core
      ∧ (d.mapHasRoom = true → ((t.dirSet k).slot w).mark = .retired
          ∧ { kind := .slotRetired, set := some k, way := some w, count := some (d.slot w).health } ∈ t.reports)
      ∧ (d.mapHasRoom = false → ((t.dirSet k).slot w).mark = (d.slot w).mark
          ∧ { kind := .retireDenied, set := some k, way := some w, count := some (d.slot w).health } ∈ t.reports)
      ∧ (∀ v, v ≠ w → t.recordAt k v = (s.checked k f).recordAt k v))
  ∧ ∀ (s : State) (f : List CellFault) (e : EntryIdx) (w : Way) (r : Record) (o : Agent),
    s.due = some (.retireResolution e) → s.lawful → s.undisturbed (setOf (s.lineOfEntry e)) f →
    (s.checked (setOf (s.lineOfEntry e)) f).onLine (s.lineOfEntry e) w r →
    (s.checked (setOf (s.lineOfEntry e)) f).lineBound (s.lineOfEntry e) (some e) →
    r.lostOwner (s.entry e) = some o → (s.entry e).waiters = [] →
    (∀ v, ((s.checked (setOf (s.lineOfEntry e)) f).slot (setOf (s.lineOfEntry e)) v).reservation ≠ some e) →
    let k := setOf (s.lineOfEntry e)
    let d := (s.checked k f).dirSet k
    ∃ t, exec (.retireResolution f) s = .next t
      ∧ poisonReport k w r.tag (some o) (some (s.txn e)) ∈ t.reports
      ∧ (t.entry e).core = (Entry.freeOf (s.entry e).gen).core
      ∧ (∀ i, i ≠ e → (t.entry i).core = (s.entry i).core)
      ∧ s.poisonMoves k w d r t

/-- The start access of a REPAIR item begins a REPAIR in the lowest FREE entry, probing every agent of the domain, when the
record is still DAMAGED and unbound; otherwise the item is dropped (R138, R139, R141). -/
def Obligations.RepairStartProbesDomain : Prop :=
  ∀ (s : State) (f : List CellFault) (k : SetIdx) (t : Tag), s.due = some (.repairStart k t) → s.lawful →
    s.undisturbed k f →
    let d := (s.checked k f).dirSet k
    ∃ u, exec (.repairStart f) s = .next u
      ∧ (∀ w r e, d.findTag t = some w → d.record w = some r → r.state = .damaged → (d.slot w).bound = none →
          s.freeEntry = some e →
          (u.entry e).kind = some .repair ∧ (u.entry e).line = some (lineOf k r.tag) ∧ (u.entry e).way = some w
          ∧ (u.entry e).phase = .probing ∧ (u.entry e).probeKind = some .invalidate
          ∧ (u.entry e).repairRound = true ∧ (∀ a : Agent, has (u.entry e).pendingSet a = s.member a)
          ∧ ((u.dirSet k).slot w).bound = some e)
      ∧ ((∀ w r, d.findTag t = some w → d.record w = some r → r.state ≠ .damaged ∨ (d.slot w).bound ≠ none) →
          u.dir = (s.checked k f).dir ∧ (∀ i, (u.entry i).core = (s.entry i).core)
          ∧ ∃ starts, u.recallUnit.queue = starts ++ s.recallUnit.queue.erase (.repair k t))

/-- The resolution of a repair is poisoned when the record was, when a probed agent answered fence GONE, or when the damage
fence mark is set. It ends the damage mark. A granted request's repair writes the keep agent's record, SHARED or OWNED as
was granted, its way at the front, and closes: a keep agent fenced by now leaves the record just written. A RECALL, REPAIR,
RETRACT or SERVICE leaves the record POISONED and reported, or freed, and closes. A RETIRE withdraws the slot it frees, or is
denied, and leaves a POISONED record as its resolution does (log 15); no slot is reserved for its entry (R7). That the report
names the lowest fenced agent when the damage fence mark is set too is the model's choice, log 39. When the checks of the
access have rebuilt the record's tag word again, the access starts a new repair round (R58, R134, R140, R145, R146). -/
def Obligations.RepairResolutionSettlesRecord : Prop :=
  (∀ (s : State) (f : List CellFault) (e : EntryIdx) (w : Way) (r : Record),
    s.due = some (.repairResolution e) → s.lawful → s.undisturbed (setOf (s.lineOfEntry e)) f →
    (s.checked (setOf (s.lineOfEntry e)) f).onLine (s.lineOfEntry e) w r →
    w ∉ (s.takeClaim.beginAccess (setOf (s.lineOfEntry e)) f).rebuilt → (s.entry e).waiters = [] →
    let k := setOf (s.lineOfEntry e)
    let c := s.checked k f
    let poison : Bool := r.poison || decide ((s.entry e).fenceGoneSet ≠ 0) || c.integ.fenceMark
    ∃ t, exec (.repairResolution f) s = .next t
      ∧ ((s.entry e).keep = none → (s.entry e).kind = some .repair ∨ (s.entry e).kind = some .retract
          ∨ (s.entry e).kind = some .service ∨ (s.entry e).kind = some .recallVictim →
          t.recordAt k w = (if poison then some (poisonedRecord r.tag) else none)
          ∧ (poison = true →
              poisonReport k w r.tag (lowestAgent (s.entry e).fenceGoneSet) (some (s.txn e)) ∈ t.reports)
          ∧ (t.entry e).core = (Entry.freeOf (s.entry e).gen).core
          ∧ (∀ v, v ≠ w → t.recordAt k v = c.recordAt k v)
          ∧ t.integ.damaged = (if (c.slot k w).damageMark then c.integ.damaged - 1 else c.integ.damaged))
      ∧ ((s.entry e).keep = none → (s.entry e).kind = some .retire → c.lineBound (s.lineOfEntry e) (some e) →
          (∀ v, (c.slot k v).reservation ≠ some e) →
          (t.entry e).core = (Entry.freeOf (s.entry e).gen).core
          ∧ (poison = false → t.recordAt k w = none ∧ (∀ v, v ≠ w → t.recordAt k v = c.recordAt k v)
              ∧ ((c.dirSet k).mapHasRoom = true → ((t.dirSet k).slot w).mark = .retired
                  ∧ { kind := .slotRetired, set := some k, way := some w, count := some (c.slot k w).health }
                    ∈ t.reports)
              ∧ ((c.dirSet k).mapHasRoom = false → ((t.dirSet k).slot w).mark = (c.slot k w).mark
                  ∧ { kind := .retireDenied, set := some k, way := some w, count := some (c.slot k w).health }
                    ∈ t.reports))
          ∧ (poison = true →
              poisonReport k w r.tag (lowestAgent (s.entry e).fenceGoneSet) (some (s.txn e)) ∈ t.reports
              ∧ s.poisonMoves k w (c.dirSet k) r t))
      ∧ (∀ a, (s.entry e).keep = some a →
          let kept : Record :=
            ⟨r.tag, if (s.entry e).grantSent = some .own then .owned else .shared, only a, poison⟩
          t.recordAt k w = closeTable s.fencedSet kept
          ∧ (t.dirSet k).recency = (if (closeTable s.fencedSet kept).isSome then [w] else [])
              ++ (c.dirSet k).recency.erase w
          ∧ (poison = true →
              poisonReport k w r.tag (lowestAgent (s.entry e).fenceGoneSet) (some (s.txn e)) ∈ t.reports)
          ∧ (kept.state = .owned → has s.fencedSet a = true →
              poisonReport k w r.tag (some a) (some (s.txn e)) ∈ t.reports)
          ∧ (t.entry e).core = (Entry.freeOf (s.entry e).gen).core
          ∧ (∀ v, v ≠ w → t.recordAt k v = c.recordAt k v)
          ∧ t.integ.damaged = (if (c.slot k w).damageMark then c.integ.damaged - 1 else c.integ.damaged)))
  ∧ ∀ (s : State) (f : List CellFault) (e : EntryIdx) (w : Way) (r : Record),
    s.due = some (.repairResolution e) → s.lawful → s.undisturbed (setOf (s.lineOfEntry e)) f →
    (s.checked (setOf (s.lineOfEntry e)) f).onLine (s.lineOfEntry e) w r →
    w ∈ (s.takeClaim.beginAccess (setOf (s.lineOfEntry e)) f).rebuilt →
    let k := setOf (s.lineOfEntry e)
    ∃ t, exec (.repairResolution f) s = .next t
      ∧ (t.entry e).core = { (s.entry e).core with
          phase := .probing, probeKind := some .invalidate, repairRound := true
          pendingSet := agentSet fun a => s.member a && decide ((s.entry e).keep ≠ some a)
          answers := Vector.replicate 8 none }
      ∧ (∀ v, t.recordAt k v = (s.checked k f).recordAt k v)
      ∧ (∀ i, i ≠ e → (t.entry i).core = (s.entry i).core)

/-- A request whose record was DAMAGED is resolved in the access that ends its repair: from the POISONED record when the
repair's result is poisoned, else by an allocation in the slot just freed when none is reserved for it (R14, R27, R140; the
agent that the report of a poisoned repair names is log 39). That the GRANT comes first among the messages is log 35. -/
def Obligations.RepairedRequestIsGranted : Prop :=
  ∀ (s : State) (f : List CellFault) (e : EntryIdx) (w : Way) (old : Record) (r : Request),
    s.due = some (.repairResolution e) → s.lawful → s.undisturbed (setOf r.line) f →
    s.requestOf e = some r → (s.entry e).kind = some .request → (s.entry e).keep = none → s.member r.port = true →
    (s.checked (setOf r.line) f).onLine r.line w old →
    w ∉ (s.takeClaim.beginAccess (setOf r.line) f).rebuilt →
    let k := setOf r.line
    let c := s.checked k f
    let poison : Bool := old.poison || decide ((s.entry e).fenceGoneSet ≠ 0) || c.integ.fenceMark
    ∃ t, exec (.repairResolution f) s = .next t
      ∧ (poison = true →
          let g := grantOn r.kind r.port r.fullWrite (poisonedRecord old.tag) (s.entry e)
          t.recordAt k w = some g.record ∧ (t.entry e).phase = .awaitDone
          ∧ (∃ more, t.outbox = ⟨r.port, .grant r.tag r.line (s.txn e) g.kind g.reread g.record.poison⟩ :: more)
          ∧ poisonReport k w old.tag (lowestAgent (s.entry e).fenceGoneSet) (some (s.txn e)) ∈ t.reports)
      ∧ (poison = false → (c.dirSet k).reservedWay e = none →
          let g := grantNew r.kind r.port r.fullWrite (tagOf r.line)
          t.recordAt k w = some g.record ∧ (t.entry e).phase = .awaitDone ∧ (t.entry e).way = some w
          ∧ ∃ more, t.outbox = ⟨r.port, .grant r.tag r.line (s.txn e) g.kind g.reread false⟩ :: more)

/-! ### Walks and the scrub -/

/-- A purge step takes the members of the purge set out of each unbound record of its set as a close does, leaves bound
records alone, and advances the position; a member whose start the position reaches leaves the purge set, and its port
enters FENCED_CLEAN (R120, R121). -/
def Obligations.PurgeStepFiltersRecords : Prop :=
  ∀ (s : State) (f : List CellFault), s.due = some .purge → s.lawful → s.calm → s.undisturbed s.purge.pos f →
    let k := s.purge.pos
    let c := s.checked k f
    ∃ t, exec (.purgeStep f) s = .next t
      ∧ (∀ w r, c.recordAt k w = some r → (c.slot k w).bound ≠ none → t.recordAt k w = some r)
      ∧ (∀ w r, c.recordAt k w = some r → (c.slot k w).bound = none → t.recordAt k w = closeTable s.purgeSet r
          ∧ ∀ a, r.state = .owned → r.owner = some a → has s.purgeSet a = true →
            poisonReport k w r.tag (some a) none ∈ t.reports)
      ∧ (∀ w, c.recordAt k w = none → t.recordAt k w = none)
      ∧ t.purge.pos = k + 1
      ∧ (∀ a, s.purge.starts.get a = some (k + 1) →
          t.purge.starts.get a = none ∧ (t.port a).state = .fencedClean)
      ∧ (∀ a, s.purge.starts.get a ≠ some (k + 1) →
          t.purge.starts.get a = s.purge.starts.get a ∧ (t.port a).still = (s.port a).still)
      ∧ (∀ e, (t.entry e).core = (s.entry e).core) ∧ t.cfg = s.cfg

/-- A leave step begins a RETRACT of the lowest unbound record that may hold the leaving agent, waits for room, waits
for an entry that binds such a record, or advances; when the walk is complete and nothing is owed to the agent,
LEAVE_DONE is sent and the port goes OFF with its rejoin hold set. The RETRACT counts as in flight and as one of the
walk's; it starts an INVALIDATE round to the leaving agent, or, on a DAMAGED record, a repair round to every agent of
the domain, without a keep agent (R63, R69 to R72, R90, R125 to R127, R138, R139). -/
def Obligations.LeaveStepRetractsOrAdvances : Prop :=
  ∀ (s : State) (f : List CellFault) (p : Agent), s.due = some (.leave p) → s.lawful → s.calm → s.member p = true →
    s.undisturbed s.leave.pos f →
    let k := s.leave.pos
    let c := s.checked k f
    let d := c.dirSet k
    ∃ t, exec (.leaveStep f) s = .next t ∧ t.cfg = s.cfg
      ∧ (∀ w r e, d.leaveWay p = some w → d.record w = some r → s.freeEntry = some e →
          s.recallUnit.inFlight < s.cfg.recallBudget →
          let set : AgentSet := if r.state = .damaged then s.memberSet else only p
          (t.entry e).kind = some .retract ∧ (t.entry e).requester = .none
          ∧ (t.entry e).line = some (lineOf k r.tag) ∧ (t.entry e).way = some w
          ∧ (t.entry e).target = some p ∧ (t.entry e).phase = .probing ∧ (t.entry e).probeKind = some .invalidate
          ∧ (t.entry e).repairRound = decide (r.state = .damaged) ∧ (t.entry e).keep = none
          ∧ (t.entry e).pendingSet = set ∧ (t.entry e).gen = (s.entry e).gen + 1
          ∧ s.probesStarted t e (txnOf e ((s.entry e).gen + 1)) (lineOf k r.tag) .invalidate set
          ∧ t.pause = (s.pause || decide (s.cfg.admitHigh ≤ s.inUseCount + 1))
          ∧ (∀ v, t.recordAt k v = d.record v)
          ∧ ((t.dirSet k).slot w).bound = some e ∧ t.recallUnit.inFlight = s.recallUnit.inFlight + 1
          ∧ t.leave.pos = k ∧ t.leave.retracts = s.leave.retracts + 1
          ∧ ∀ i, i ≠ e → (t.entry i).core = (s.entry i).core)
      ∧ (∀ w, d.leaveWay p = some w → s.freeEntry = none ∨ s.cfg.recallBudget ≤ s.recallUnit.inFlight →
          t.leave.wait = .room ∧ t.leave.pos = k ∧ t.dir = c.dir ∧ ∀ i, (t.entry i).core = (s.entry i).core)
      ∧ (∀ e, d.leaveWay p = none → c.leaveBlocker d p = some e →
          t.leave.wait = .noted e ∧ t.leave.pos = k ∧ t.dir = c.dir ∧ ∀ i, (t.entry i).core = (s.entry i).core)
      ∧ (d.leaveWay p = none → c.leaveBlocker d p = none →
          t.dir = c.dir ∧ (∀ i, (t.entry i).core = (s.entry i).core)
          ∧ (k.toNat ≠ 2047 → t.leave.pos = k + 1 ∧ t.leave.port = some p ∧ t.leave.complete = false)
          ∧ (k.toNat = 2047 → s.leave.retracts = 0 → s.queuedOf p = 0 →
              (s.selectedWaiters fun r => decide (r.port = p)) = [] → (∀ e, has (s.entry e).pendingSet p = false) →
              (t.port p).state = .off ∧ (t.port p).rejoinHold = true ∧ (t.port p).tags = 0
              ∧ (t.port p).credits = 0 ∧ ⟨p, .leaveDone⟩ ∈ t.outbox)
          ∧ (k.toNat = 2047 → s.leave.retracts ≠ 0 → t.leave.complete = true ∧ t.leave.port = some p))

/-- The resolution of a RETRACT takes the leaving agent out of the record as its DROP would, unless its answer is fence
GONE; the close filter follows, the entry closes, and the count of recalls in flight falls (R90, R126). -/
def Obligations.RetractTakesHolderBack : Prop :=
  ∀ (s : State) (f : List CellFault) (e : EntryIdx) (p : Agent) (w : Way) (r : Record),
    s.due = some (.retractResolution e) → s.lawful → s.undisturbed (setOf (s.lineOfEntry e)) f →
    (s.checked (setOf (s.lineOfEntry e)) f).onLine (s.lineOfEntry e) w r → r.state ≠ .damaged →
    (s.entry e).target = some p → (s.entry e).waiters = [] →
    let k := setOf (s.lineOfEntry e)
    ∃ t, exec (.retractResolution f) s = .next t
      ∧ ((s.entry e).fenceGoneOf p = false →
          t.recordAt k w = (noticeTable .drop p (some r)).2.bind (closeTable s.fencedSet))
      ∧ ((s.entry e).fenceGoneOf p = true → t.recordAt k w = closeTable s.fencedSet r)
      ∧ (∀ v, v ≠ w → t.recordAt k v = (s.checked k f).recordAt k v)
      ∧ t.recallUnit.inFlight = s.recallUnit.inFlight - 1
      ∧ (t.entry e).core = (Entry.freeOf (s.entry e).gen).core
      ∧ ((s.checked k f).lineBound (s.lineOfEntry e) (some e) → ∀ i, i ≠ e → (t.entry i).core = (s.entry i).core)

/-- The expiry of the interval timer raises the scrub's claim; the scrub access advances the position, starts the timer
and writes nothing of its own on the set; the access on set 2047 completes the pass and takes 1 from every health count
(R147, R148). So the scrub access shows the end of any access in RUN: each slot found failing is judged and each item of the
retire list in the set examined by the tables of retirement (R142, R143; in this order: log 17), poisoned records move
(R146), and the starts wanted join the front of the recall start queue as one group, 16 at most (R89); a record left DAMAGED
and unbound has its REPAIR item there (R138). -/
def Obligations.ScrubRunsThroughSets : Prop :=
  (∀ s : State, s.part = .run → s.integ.scrubTimer.isSome = true → ∃ t, exec .scrubIntervalExpiry s = .next t
      ∧ t.integ = { s.integ with scrubTimer := none, scrubClaim := some 0 } ∧ Claim.scrub ∈ t.claims
      ∧ t.dir = s.dir ∧ t.cfg = s.cfg ∧ (s.calm → ∀ e, (t.entry e).core = (s.entry e).core))
  ∧ (∀ (s : State) (f : List CellFault), s.due = some .scrub → s.lawful → s.undisturbed s.integ.scrubPos f →
    let k := s.integ.scrubPos
    let c := s.checked k f
    ∃ t, exec (.scrubAccess f) s = .next t ∧ t.cfg = s.cfg
      ∧ t.integ.scrubPos = k + 1 ∧ t.integ.scrubClaim = none ∧ t.integ.scrubTimer = some s.cfg.scrubInterval
      ∧ (k.toNat ≠ 2047 → t.dir = c.dir ∧ t.integ.passCounter = s.integ.passCounter
          ∧ t.integ.passComplete = s.integ.passComplete)
      ∧ (k.toNat = 2047 → t.integ.passCounter = s.integ.passCounter + 1 ∧ t.integ.passComplete = true
          ∧ ∀ (j : SetIdx) (w : Way), t.slot j w = { c.slot j w with health := (c.slot j w).health - 1 }))
  ∧ (∀ (s : State) (f : List CellFault), s.due = some .scrub → s.lawful →
    let k := s.integ.scrubPos
    let a := s.takeClaim.beginAccess k f
    let b := ({ a.s with reports := a.s.reports ++ a.late } : State).endOfAccess k a.judge
    ∃ t, exec (.scrubAccess f) s = .next t ∧ t.reports = b.reports ∧ t.integ.retireList = b.integ.retireList
      ∧ t.recallUnit.queue = b.recallUnit.queue ∧ (k.toNat ≠ 2047 → t.dir = b.dir)
      ∧ (∀ i, (t.entry i).core = (b.entry i).core)
      ∧ (∃ starts, t.recallUnit.queue = starts ++ s.recallUnit.queue)
      ∧ ∀ w r, t.recordAt k w = some r → r.state = .damaged → (t.slot k w).bound = none →
          .repair k r.tag ∈ t.recallUnit.queue ∨ 16 ≤ (t.recallUnit.queue.filter StartItem.isStart).length)
  ∧ (∀ (s : State) (k : SetIdx) (w : Way) (l : List Way), s.dir.wf = true → s.retireTable k w l
      (State.judgeSlot k (s, l) w) false)
  ∧ (∀ (s : State) (k : SetIdx) (w : Way) (l : List Way), s.dir.wf = true →
      if s.onRetireList k w then s.retireTable k w l (State.examineSlot k (s, l) w) true
      else State.examineSlot k (s, l) w = (s, l))
  ∧ ∀ (s : State) (items : List StartItem), (∀ x ∈ items, x.isStart = true) →
    let q := s.recallUnit.queue
    ∃ joined, (s.queueStarts items).recallUnit.queue = joined ++ q ∧ joined.Sublist items ∧ joined.Nodup
      ∧ (∀ x ∈ joined, x ∉ q) ∧ (joined = [] ∨ ((joined ++ q).filter StartItem.isStart).length ≤ 16)
      ∧ ∀ x ∈ items, x ∈ joined ∨ x ∈ q ∨ 16 ≤ ((joined ++ q).filter StartItem.isStart).length

/-- An access that finds its transaction's record DAMAGED, and is no repair's resolution, starts a repair round in place
of its resolution, whatever the entry's kind; the entry stays in PROBING, and its sends of the round before are marked as of
an earlier round (R54, R69 to R72, R138, R139). -/
def Obligations.DamagedRecordStartsRepairRound : Prop :=
  ∀ (s : State) (f : List CellFault) (e : EntryIdx) (d : Due) (c : Instr) (w : Way) (r : Record),
    d = .resolution e ∧ c = .resolutionAccess f ∨ d = .serviceResolution e ∧ c = .serviceResolution f
      ∨ d = .retractResolution e ∧ c = .retractResolution f ∨ d = .recallResolution e ∧ c = .recallResolution f
      ∨ d = .retireResolution e ∧ c = .retireResolution f →
    s.due = some d → s.lawful → s.undisturbed (setOf (s.lineOfEntry e)) f →
    (d = .resolution e → (s.requestOf e).isSome = true) →
    (d = .retractResolution e → (s.entry e).target.isSome = true) →
    (s.checked (setOf (s.lineOfEntry e)) f).onLine (s.lineOfEntry e) w r → r.state = .damaged →
    ∃ t, exec c s = .next t ∧ (t.entry e).phase = .probing ∧ (t.entry e).repairRound = true
      ∧ (t.entry e).probeKind = some .invalidate ∧ (t.entry e).keep = none ∧ (t.entry e).kind = (s.entry e).kind
      ∧ (t.entry e).line = (s.entry e).line ∧ (∀ a : Agent, has (t.entry e).pendingSet a = s.member a)
      ∧ (s.calm → s.probesStarted t e (s.txn e) (s.lineOfEntry e) .invalidate s.memberSet)
      ∧ (∀ v, t.recordAt (setOf (s.lineOfEntry e)) v =
          (s.checked (setOf (s.lineOfEntry e)) f).recordAt (setOf (s.lineOfEntry e)) v)
      ∧ (∀ i, i ≠ e → (t.entry i).core = (s.entry i).core)

/-- An access works on one set: no other set changes, but for the health counts that a completed scrub pass lowers; no
setting, enable, link, REQ_CREDITS value, discard counter or argument register changes. An access command whose access
is not the next one changes nothing but the step's outputs (R11, R16; logs 2 and 4). Before the claimant's outcome the words
that the storage leaves in error (log 3) are checked: each slot in service with a word in error gains its errors in its
health count and is corrected, made DAMAGED, rebuilt from the bound entry, or withdrawn, with its reports, way by way
(R131 to R136, `slotAfterCheck`, `checkReports`; of two bad words logs 12 and 13; that a withdrawn slot leaves the retire list
in HALTED too is log 38). In RUN a free slot so found failing is retired or denied at once, an occupied one judged after the
outcome (R142, R149). -/
def Obligations.AccessTouchesOneSet : Prop :=
  (∀ (s : State) (f : List CellFault) (d : Due) (c : Instr), d.command f = some c → s.lawful →
    ∃ t, exec c s = .next t
      ∧ ((∀ d', d'.command f = some c → s.due ≠ some d') → t = s.clearOutputs)
      ∧ (s.due = some d →
          (∀ j : SetIdx, j ≠ s.dueSet d → ¬ (d = .scrub ∧ s.integ.scrubPos.toNat = 2047) → t.dirSet j = s.dirSet j)
          ∧ t.cfg = s.cfg ∧ t.svc.argA = s.svc.argA ∧ t.svc.argB = s.svc.argB
          ∧ (∀ p, (t.port p).enable = (s.port p).enable ∧ (t.port p).link = (s.port p).link
              ∧ (t.port p).reqCredits = (s.port p).reqCredits ∧ (t.port p).discards = (s.port p).discards)
          ∧ t.err.masks = s.err.masks ∧ t.err.routings = s.err.routings))
  ∧ (∀ (s : State) (k : SetIdx) (f : List CellFault), s.dir.wf = true → faultsOk f = true →
    let u := s.strike k f
    { u with dir := s.dir } = s ∧ (∀ j, j ≠ k → u.dirSet j = s.dirSet j)
      ∧ (u.dirSet k).recency = (s.dirSet k).recency ∧ (u.dirSet k).lost = (s.dirSet k).lost
      ∧ ∀ w, { u.slot k w with tagEcc := (s.slot k w).tagEcc, holderEcc := (s.slot k w).holderEcc } = s.slot k w
        ∧ (∀ c ∈ f, c.way = w → (c.word = .tag → (u.slot k w).tagEcc = c.cond)
            ∧ (c.word = .holder → (u.slot k w).holderEcc = c.cond))
        ∧ ((∀ c ∈ f, c.way = w → c.word ≠ .tag) → (u.slot k w).tagEcc = (s.slot k w).tagEcc)
        ∧ ((∀ c ∈ f, c.way = w → c.word ≠ .holder) → (u.slot k w).holderEcc = (s.slot k w).holderEcc))
  ∧ (∀ (s : State) (k : SetIdx), s.dir.wf = true →
    let c := s.check k
    let gone := s.withdrawnWays k
    (∀ w, c.s.slot k w = s.slotAfterCheck k w)
      ∧ (c.s.dirSet k).recency = gone.foldl List.erase (s.dirSet k).recency
      ∧ (c.s.dirSet k).lost = ((s.dirSet k).lost || gone.any fun w => (s.slot k w).reservation.isNone)
      ∧ (∀ j, j ≠ k → c.s.dirSet j = s.dirSet j)
      ∧ c.s.reports = s.reports ++ (s.badWays k).flatMap (s.checkReports k)
      ∧ (c.s.integ.damaged, c.s.integ.fenceMark) =
          (s.badWays k).foldl (s.damageAfter k) (s.integ.damaged, s.integ.fenceMark)
      ∧ c.s.integ.retireList = s.integ.retireList.filter (fun i => !(decide (i.set = k) && gone.contains i.way))
      ∧ { c.s with dir := s.dir, reports := s.reports, integ := { c.s.integ with
          damaged := s.integ.damaged, fenceMark := s.integ.fenceMark, retireList := s.integ.retireList } } = s
      ∧ c.errs = s.badWays k ∧ c.marked = gone.any (fun w => (s.slot k w).reservation.isNone)
      ∧ c.rebuilt = (s.badWays k).filter fun w =>
          decide ((s.slot k w).tagEcc = .uncorrectable) && decide (w ∉ gone))
  ∧ ∀ (s : State) (k : SetIdx) (f : List CellFault), s.dir.wf = true →
    let c := (s.strike k f).check k
    let a := s.beginAccess k f
    let failing := c.errs.filter (c.s.considered k)
    let free := failing.filter fun w => decide (c.s.recordAt k w = none)
    let out := (c.s.dirSet k).retiring free
    a.rebuilt = c.rebuilt ∧ a.marked = c.marked
      ∧ (s.part ≠ .run → a.s = c.s ∧ a.judge = [] ∧ a.late = [])
      ∧ (s.part = .run → a.judge = failing.filter (fun w => decide (c.s.recordAt k w ≠ none))
          ∧ a.late = out.map (c.s.slotReport .slotRetired k)
              ++ (free.drop out.length).map (c.s.slotReport .retireDenied k)
          ∧ (∀ w, a.s.slot k w = if w ∈ out then (c.s.slot k w).outOfService .retired else c.s.slot k w)
          ∧ (a.s.dirSet k).recency = out.foldl List.erase (c.s.dirSet k).recency
          ∧ (a.s.dirSet k).lost = (c.s.dirSet k).lost
          ∧ (∀ j, j ≠ k → a.s.dirSet j = s.dirSet j) ∧ { a.s with dir := s.dir } = { c.s with dir := s.dir })

/-! ### The service port -/

/-- A command is refused BUSY while another runs; otherwise it is taken: its code and its arguments are recorded, and the
part state and the arguments decide whether it ends FAILED, completes at once or claims the array (R147, R160, R171, R181,
R182 to R188). -/
def Obligations.CommandsAreTakenAtWrite : Prop :=
  ∀ (s : State) (c : Instr) (v : Word), commandCode c = some v → s.pwrok = true →
    (s.svc.status = .busy → exec c s = .next (s.refusedWrite .busy 0xe00))
    ∧ (s.svc.status ≠ .busy → ∃ t, exec c s = .next t ∧ t.spi = s.writeAnswered sdoOk ∧ t.dir = s.dir ∧ t.cfg = s.cfg
      ∧ t.svc.lastCode = BitVec.setWidth 8 v ∧ t.svc.copyA = s.svc.argA ∧ t.svc.copyB = s.svc.argB
      ∧ t.svc.argA = s.svc.argA ∧ t.svc.argB = s.svc.argB ∧ t.svc.refusal = s.svc.refusal
      ∧ (∀ why, t.svc.status = .failed why → t.svc.result = Result.clear)
      ∧ (t.svc.status = .busy → t.svc.result = Result.clear ∧ t.svc.waiting = .claim ∧ Claim.service ∈ t.claims)
      ∧ (c ≠ .inspect → c ≠ .lookup → c ≠ .clearErrors → s.part = .halted → t.svc.status = .failed .halted)
      ∧ (c = .clearErrors → s.part = .halted → t.svc.status = .failed .halted)
      ∧ (c ≠ .inspect → c ≠ .clearErrors → s.part = .init → t.svc.status = .failed .init)
      ∧ (c = .inspect →
          (¬ (s.svc.argA.toNat < 2048 ∧ s.svc.argB.toNat < 16) → t.svc.status = .failed .badArg)
          ∧ (s.svc.argA.toNat < 2048 ∧ s.svc.argB.toNat < 16 →
              (s.part ≠ .init → t.svc.status = .busy)
              ∧ (s.part = .init → t.svc.status = .done ∧ ∃ x, t.svc.result = { Result.clear with slot := some x }
                  ∧ x.record = none ∧ x.bound = none ∧ x.reservation = none ∧ x.rank = none)))
      ∧ (c = .lookup → s.part ≠ .init →
          t.svc.status = if s.svc.argB.toNat < 64 then .busy else .failed .badArg)
      ∧ (c = .clearPoison → s.part = .run →
          t.svc.status = if s.svc.argB.toNat < 64 then .busy else .failed .badArg)
      ∧ (c = .recallLine → s.part = .run → t.svc.status =
          if s.svc.argB.toNat < 64 then
            if s.cfg.covers (BitVec.setWidth 38 (s.svc.argB ++ s.svc.argA)) then .busy else .failed .range
          else .failed .badArg)
      ∧ (c = .clearSet → s.part = .run →
          t.svc.status = if s.svc.argA.toNat < 2048 then .busy else .failed .badArg)
      ∧ (c = .scrubStart → s.part = .run → t.svc.status = .done ∧ Claim.scrub ∈ t.claims
          ∧ t.integ = { s.integ with
              scrubEn := true, scrubPos := 0, passComplete := false, scrubTimer := none, scrubClaim := some 0 })
      ∧ (c = .scrubStop → s.part = .run → t.svc.status = .done ∧ Claim.scrub ∉ t.claims
          ∧ t.integ = { s.integ with scrubEn := false, scrubPos := 0, scrubTimer := none, scrubClaim := none })
      ∧ (c = .clearErrors → s.part ≠ .halted →
          (¬ s.svc.argA.toNat < 2 → t.svc.status = .failed .badArg)
          ∧ (s.svc.argA.toNat < 2 →
              let cls : ErrClass := if s.svc.argA = 0 then .fatal else .nonfatal
              let other : ErrClass := if s.svc.argA = 0 then .nonfatal else .fatal
              t.svc.status = .done ∧ t.err.capture cls = ⟨none, 0⟩ ∧ t.err.capture other = s.err.capture other
              ∧ t.err.counters = s.err.counters ∧ t.err.masks = s.err.masks ∧ t.err.routings = s.err.routings
              ∧ t.err.haltKind = s.err.haltKind ∧ t.outputsLawful
              ∧ t.svc.result = { Result.clear with
                  cleared := some ((s.err.capture cls).first.map Report.kind, (s.err.capture cls).later) })))

/-- FENCE fences a port in the domain with cause SERVICE and UNFENCE takes a FENCED_CLEAN port to OFF, from where it may
come up at once; a port in any other state ends the command FAILED with STATE, a port above 7 with BAD_ARG (R117, R187). -/
def Obligations.FenceAndUnfenceActAtOnce : Prop :=
  ∀ (s : State), s.pwrok = true → s.part = .run → s.svc.status ≠ .busy →
    ∃ t u, exec .fence s = .next t ∧ exec .unfence s = .next u
      ∧ (8 ≤ s.svc.argA.toNat → t.svc.status = .failed .badArg ∧ u.svc.status = .failed .badArg)
      ∧ ∀ p : Agent, s.svc.argA.toNat = p.val →
        (s.member p = true → s.cutOff t p .service ∧ t.svc.status = .done ∧ t.svc.result = Result.clear
          ∧ t.reports = [{ kind := .agentFenced, agent := some p }] ∧ t.dir = s.dir ∧ t.cfg = s.cfg)
        ∧ (s.member p = false → t.svc.status = .failed .state ∧ t.dir = s.dir
          ∧ (s.calm → ∀ q, (t.port q).still = (s.port q).still))
        ∧ ((s.port p).state ≠ .fencedClean → u.svc.status = .failed .state
          ∧ (s.calm → ∀ q, (u.port q).still = (s.port q).still))
        ∧ ((s.port p).state = .fencedClean → u.svc.status = .done ∧ u.dir = s.dir ∧ u.cfg = s.cfg
          ∧ (s.calm → ∀ q, q ≠ p → (u.port q).still = (s.port q).still)
          ∧ (s.calm → (u.port p).state =
              if (s.port p).enable ∧ (s.port p).link ∧ !(s.port p).rejoinHold ∧ s.resetN then .active else .off)
          ∧ (s.calm → (u.port p).state = .active →
              (u.port p).credits = (s.port p).reqCredits ∧ (u.port p).tags = 0))

/-- INSPECT's access gives the named slot as the access leaves it, LOOKUP's the record of its line or what its set says of
a miss; both complete DONE and change no record and no entry but for the waiters and probes that an event leaves over, none in
a calm state (R13, R182, R183, R192; the moment of reading is log 33). -/
def Obligations.ReadersReportSlots : Prop :=
  ∀ (s : State) (f : List CellFault), s.lawful →
    (s.due = some (.service 1) → s.undisturbed s.svc.setArg f →
      let k := s.svc.setArg
      let w := s.svc.wayArg
      let c := s.checked k f
      ∃ t v, exec (.inspectAccess f) s = .next t ∧ t.svc.status = .done ∧ t.dir = c.dir
        ∧ (∀ i, (t.entry i).core = (s.entry i).core) ∧ (s.calm → t.tt = s.tt)
        ∧ t.svc.result = { Result.clear with slot := some v } ∧ v.way = w ∧ v.health = (c.slot k w).health
        ∧ v.mark = (c.slot k w).mark ∧ v.lost = (c.dirSet k).lost
        ∧ (c.recordAt k w = none → v.record = none ∧ v.bound = none ∧ v.rank = none
            ∧ v.reservation = (c.slot k w).reservation)
        ∧ (∀ r, c.recordAt k w = some r → v.bound = (c.slot k w).bound ∧ v.reservation = none
            ∧ v.rank = (c.dirSet k).rank w ∧ v.record = some ⟨lineOf k r.tag, r.tag, r.state, r.poison,
                if r.state = .damaged then none else some r.holders⟩))
    ∧ (s.due = some (.service 2) → s.undisturbed (setOf s.svc.lineArg) f →
      let l := s.svc.lineArg
      let c := s.checked (setOf l) f
      ∃ t, exec (.lookupAccess f) s = .next t ∧ t.svc.status = .done ∧ t.dir = c.dir
        ∧ (∀ i, (t.entry i).core = (s.entry i).core) ∧ (s.calm → t.tt = s.tt)
        ∧ t.svc.result.entry = s.boundEntry l
        ∧ (∀ w r, c.onLine l w r → t.svc.result.outcome = .found ∧ ∃ v, t.svc.result.slot = some v ∧ v.way = w
            ∧ v.record = some ⟨l, r.tag, r.state, r.poison, if r.state = .damaged then none else some r.holders⟩)
        ∧ (c.findLine l = none → t.svc.result.slot = none ∧ t.svc.result.lost = some (c.dirSet (setOf l)).lost
            ∧ (s.boundEntry l = none → (c.dirSet (setOf l)).lost = true → t.svc.result.outcome = .lost
                ∧ { kind := .lostRefusal, line := some l, set := some (setOf l) } ∈ t.reports)
            ∧ (s.boundEntry l ≠ none ∨ (c.dirSet (setOf l)).lost = false → t.svc.result.outcome = .absent)))

/-- RECALL_LINE's start access waits on an entry that binds the line, ends ABSENT, LOST or NO_HOLDERS, or takes the FREE
entry with the lowest index for an INVALIDATE round to the holders, or, on a DAMAGED record, for a repair round to every
agent of the domain, without a keep agent; without a FREE entry it waits for one (R51, R63, R69 to R72, R100, R138,
R139, R185). -/
def Obligations.RecallLineStarts : Prop :=
  ∀ (s : State) (f : List CellFault), s.due = some (.service 3) → s.part = .run → s.lawful → s.calm →
    s.undisturbed (setOf s.svc.lineArg) f →
    let l := s.svc.lineArg
    let k := setOf l
    let c := s.checked k f
    ∃ t, exec (.recallLineStart f) s = .next t
      ∧ (∀ e i, s.boundEntry l = some e → s.freePool = some i →
          t.waiter i = some (.recallLine l) ∧ (t.entry e).waiters = (s.entry e).waiters ++ [i] ∧ t.dir = c.dir
          ∧ (t.part = .run → t.svc.waiting = .listed e ∧ t.svc.status = s.svc.status))
      ∧ (∀ e, s.boundEntry l = some e → s.freePool = none → t.svc.status = .failed .waitFull
          ∧ t.svc.result = Result.clear ∧ t.dir = c.dir ∧ t.pool = s.pool)
      ∧ (s.boundEntry l = none → c.findLine l = none → t.dir = c.dir ∧ t.svc.status = .done
          ∧ ((c.dirSet k).lost = false → t.svc.result = { Result.clear with outcome := .absent })
          ∧ ((c.dirSet k).lost = true → t.svc.result = { Result.clear with outcome := .lost }
              ∧ { kind := .lostRefusal, line := some l, set := some k } ∈ t.reports))
      ∧ (∀ w r, s.boundEntry l = none → c.onLine l w r → r.state = .poisoned →
          t.dir = c.dir ∧ t.svc.status = .done ∧ t.svc.result = { Result.clear with outcome := .noHolders })
      ∧ (∀ w r e, s.boundEntry l = none → c.onLine l w r → r.state ≠ .poisoned → s.freeEntry = some e →
          let set : AgentSet := if r.state = .damaged then s.memberSet else r.holders
          (t.entry e).kind = some .service ∧ (t.entry e).requester = .service
          ∧ (t.entry e).request = some .recallLine ∧ (t.entry e).line = some l ∧ (t.entry e).way = some w
          ∧ (t.entry e).phase = .probing ∧ (t.entry e).probeKind = some .invalidate
          ∧ (t.entry e).repairRound = decide (r.state = .damaged) ∧ (t.entry e).keep = none
          ∧ (t.entry e).gen = (s.entry e).gen + 1
          ∧ (∀ a : Agent, has (t.entry e).pendingSet a = (has set a && s.member a)
              ∧ (t.entry e).answers.get a = if has set a ∧ s.member a = false then some .fenceGone else none)
          ∧ s.probesStarted t e (txnOf e ((s.entry e).gen + 1)) l .invalidate set
          ∧ ((t.dirSet k).slot w).bound = some e ∧ (∀ v, t.recordAt k v = c.recordAt k v)
          ∧ (t.part = .run → t.svc.waiting = .entry e ∧ t.svc.status = s.svc.status)
          ∧ t.pause = (s.pause || decide (s.cfg.admitHigh ≤ s.inUseCount + 1))
          ∧ t.recallUnit.inFlight = s.recallUnit.inFlight ∧ ∀ i, i ≠ e → (t.entry i).core = (s.entry i).core)
      ∧ (∀ w r, s.boundEntry l = none → c.onLine l w r → r.state ≠ .poisoned → s.freeEntry = none →
          t.dir = c.dir ∧ (∀ i, (t.entry i).core = (s.entry i).core)
          ∧ (t.part = .run → t.svc.waiting = .freeEntry ∧ t.svc.status = s.svc.status))

/-- The resolution of a SERVICE recall frees the record, or writes it POISONED when its owner was lost, which is
reported, or its flag was set; the command completes DONE with the transaction and its answers (R101, R185; the case of an
owner lost with the flag set is log 26). -/
def Obligations.ServiceResolutionCompletesRecall : Prop :=
  ∀ (s : State) (f : List CellFault) (e : EntryIdx) (w : Way) (r : Record),
    s.due = some (.serviceResolution e) → s.lawful → s.undisturbed (setOf (s.lineOfEntry e)) f →
    (s.checked (setOf (s.lineOfEntry e)) f).onLine (s.lineOfEntry e) w r → r.state = .shared ∨ r.state = .owned →
    (s.entry e).waiters = [] →
    let k := setOf (s.lineOfEntry e)
    let lost := r.lostOwner (s.entry e)
    let poison : Bool := r.poison || lost.isSome
    ∃ t, exec (.serviceResolution f) s = .next t
      ∧ t.recordAt k w = (if poison then some (poisonedRecord r.tag) else none)
      ∧ (∀ o, lost = some o → poisonReport k w r.tag (some o) (some (s.txn e)) ∈ t.reports)
      ∧ t.svc.status = .done ∧ t.svc.result = { Result.clear with
          outcome := if poison then .poisoned else .recalled, txn := some (s.txn e), answers := (s.entry e).answers }
      ∧ (t.entry e).core = (Entry.freeOf (s.entry e).gen).core
      ∧ (∀ v, v ≠ w → t.recordAt k v = (s.checked k f).recordAt k v)
      ∧ (poison = false → (t.dirSet k).recency = ((s.checked k f).dirSet k).recency.erase w)
      ∧ ((s.checked k f).lineBound (s.lineOfEntry e) (some e) → ∀ i, i ≠ e → (t.entry i).core = (s.entry i).core)

/-- CLEAR_POISON's first access decides an unbound line by the table of CLEAR_POISON, refuses a miss in a LOST set, and
waits on the entry that binds its line (R51, R186). CLEAR_SET clears the LOST mark of its set, unless the checks of its own
access have just set it, and leaves every slot as the checks do, and every entry but for the waiters and probes that an event
leaves over, none in a calm state (R184). -/
def Obligations.ClearCommandsDecide : Prop :=
  (∀ (s : State) (f : List CellFault), s.due = some (.service 4) → s.part = .run → s.lawful → s.calm →
      s.undisturbed (setOf s.svc.lineArg) f →
      let l := s.svc.lineArg
      let k := setOf l
      let c := s.checked k f
      ∃ t, exec (.clearPoisonAccess f) s = .next t
        ∧ (∀ e i, s.boundEntry l = some e → s.freePool = some i →
            t.waiter i = some (.clearPoison l) ∧ (t.entry e).waiters = (s.entry e).waiters ++ [i] ∧ t.dir = c.dir
            ∧ (t.part = .run → t.svc.waiting = .listed e ∧ t.svc.status = s.svc.status))
        ∧ (∀ e, s.boundEntry l = some e → s.freePool = none → t.svc.status = .failed .waitFull ∧ t.dir = c.dir)
        ∧ (s.boundEntry l = none → c.findLine l = none → t.dir = c.dir ∧ t.svc.status = .done
            ∧ ((c.dirSet k).lost = false → t.svc.result = { Result.clear with outcome := .absent })
            ∧ ((c.dirSet k).lost = true → t.svc.result = { Result.clear with outcome := .lost }
                ∧ { kind := .lostRefusal, line := some l, set := some k } ∈ t.reports))
        ∧ (∀ w r, s.boundEntry l = none → c.onLine l w r → c.lineBound l none →
            t.recordAt k w = (clearPoisonTable (some r)).2 ∧ t.svc.status = .done
            ∧ t.svc.result = { Result.clear with outcome := (clearPoisonTable (some r)).1 }
            ∧ (∀ v, v ≠ w → t.recordAt k v = c.recordAt k v)
            ∧ ∀ i, (t.entry i).core = (s.entry i).core))
  ∧ (∀ (s : State) (f : List CellFault), s.due = some (.service 7) → s.lawful → s.undisturbed s.svc.setArg f →
      let k := s.svc.setArg
      let c := s.checked k f
      let marked := (s.takeClaim.beginAccess k f).marked
      ∃ t, exec (.clearSetAccess f) s = .next t ∧ t.svc.status = .done
        ∧ t.dirSet k = { c.dirSet k with lost := marked && (c.dirSet k).lost }
        ∧ t.svc.result = { Result.clear with
            outcome := if marked then .relost else if (c.dirSet k).lost then .cleared else .wasClear }
        ∧ (∀ i, (t.entry i).core = (s.entry i).core) ∧ (s.calm → t.tt = s.tt)
        ∧ ∀ j, j ≠ k → t.dirSet j = s.dirSet j)

/-! ### Frames and register writes -/

/-- A frame of the service port, event by event on its pins (the model's queue of inputs, log 29, here with no command
waiting). The fall of CS_N begins a frame, its rise ends it, and one cycle of SCK takes one bit. Before the carrying bit
nothing changes but the frame. A READ is carried out at its last address bit: its status and its data are fixed from the
state of that event, and the part's state does not change. A WRITE is carried out at its last data bit: that event is
its row of the table. A frame of another opcode is carried out at its last address bit, as its row, with no effect. The
bits after that are ignored, so a rise of CS_N in a WRITE's status byte takes nothing back; a rise before it is the row
FRAME_CUT_SHORT, without effect. SDO gives the answer from the carrying bit on, and zeros before it and after bit 64.
While PWROK is low the pins do nothing (R168, R177, R178, R190). A READ is answered BAD_ADDR with data 0 outside the
map, REFUSED with data 0 for a result register while a command is BUSY, and else OK with the register's value (R178).
That a row of the table leaves its own frame in progress is log 43. -/
def Obligations.FramesActAtCarryingBit : Prop :=
  (∀ (s : State) (rest : List Pin), s.pending = [] → s.pwrok = true →
    let left : State := { s with spi := { s.spi with pins := rest } }
    let next (x : Option Frame) : Host.Outcome State Fault Refusal := .next { s.clearOutputs with spi := ⟨x, rest⟩ }
    (s.spi.pins = .csFall :: rest → step s = next (some (.taking [])))
    ∧ (s.spi.pins = .csRise :: rest → step s = next none
      ∧ ∀ bits, s.spi.frame = some (.taking bits) → step s = exec .frameCutShort left)
    ∧ ∀ b, s.spi.pins = .bit b :: rest →
      (s.spi.frame = none → step s = next none)
      ∧ (∀ n sdo, s.spi.frame = some (.carried n sdo) → step s = next (some (.carried (n + 1) sdo)))
      ∧ ∀ bits, s.spi.frame = some (.taking bits) →
        (bits.length ≠ 23 → bits.length ≠ 55 → step s = next (some (.taking (bits ++ [b]))))
        ∧ (∀ op a, bits ++ [b] = firstBits (headFrame op a) 24 →
          (op = 0x3a → step s = next (some (.carried 24 (0#24 ++ (s.readStatus a).code ++ s.readData a))))
          ∧ (op = 0x5c → step s = next (some (.taking (bits ++ [b]))))
          ∧ (op ≠ 0x3a → op ≠ 0x5c → step s = exec .invalidOpcodeFrame left ∧ step s = next (some (.carried 24 sdoInvalid))))
        ∧ ∀ a v, bits ++ [b] = firstBits (writeFrame a v) 56 → step s = exec (writeRow a v) left)
  ∧ (∀ (s : State) (p : Pin) (rest : List Pin), s.pending = [] → s.pwrok = false → s.spi.pins = p :: rest →
      step s = .next { s.clearOutputs with spi := { s.spi with pins := rest } } ∧ s.sdo = none)
  ∧ (∀ (s : State) (a : Addr) (v : Word), s.pwrok = true → (writeRow a v).wellFormed = true ∧
      ∃ t sdo, exec (writeRow a v) s = .next t ∧ exec (writeRow a v) s = .next (s.writeAddr a v)
        ∧ t.spi = s.writeAnswered sdo ∧ sdo ∈ [sdoOk, sdoBadAddr, sdoRefused]
        ∧ (sdo = sdoBadAddr ↔ 0xfff < a.toNat ∨ a.toNat % 4 ≠ 0))
  ∧ (∀ s : State, exec .frameCutShort s = .next { s.clearOutputs with spi := ⟨none, s.spi.pins⟩ }
      ∧ (s.pwrok = true →
        exec .invalidOpcodeFrame s = .next { s.clearOutputs with spi := ⟨some (.carried 24 sdoInvalid), s.spi.pins⟩ }))
  ∧ (∀ (s : State) (a : Addr),
      let result : Prop := 0xe20 ≤ a.toNat ∧ a.toNat < 0xe40 ∧ s.svc.status = .busy
      (0xfff < a.toNat ∨ a.toNat % 4 ≠ 0 → s.readStatus a = .badAddr ∧ s.readData a = 0)
      ∧ (a.toNat ≤ 0xfff → a.toNat % 4 = 0 →
        (result → s.readStatus a = .refused ∧ s.readData a = 0)
        ∧ (¬ result → s.readStatus a = .ok ∧ s.readData a = s.readValue a.toNat)))
  ∧ ∀ s : State, s.pwrok = true →
    (s.spi.frame = none → s.sdo = none) ∧ (∀ bits, s.spi.frame = some (.taking bits) → s.sdo = some false)
    ∧ ∀ n sdo, s.spi.frame = some (.carried n sdo) → s.sdo = some (decide (n < 64) && sdo.getLsbD (63 - n))

/-- The writable registers with rows of their own, but for enables and masks: each is set by a value in its range, from its
own bits, and refused with its reason otherwise, which is recorded with the address and changes nothing else; a counter
accepts a write of 0 alone. A write of an admission mark sets the pause flag by the new marks, but in HALTED keeps it, and a
write of RECALL_BUDGET wakes a leave walker that waits for room, but not in HALTED (R64, R65, R72, R90, R102, R107, R111,
R153, R163, R179, R180). -/
def Obligations.SettingWritesAreChecked : Prop :=
  ∀ (s : State) (v : Word), s.pwrok = true →
    let x := v.toNat % 65536
    (exec (.windowApply v) s =
      if ∃ p, (s.port p).state ≠ .off then .next (s.refusedWrite .state 0x20)
      else if s.cfg.pendCount.toNat = 0 ∨ 2 ^ 38 < s.cfg.pendBase.toNat + s.cfg.pendCount.toNat then
        .next (s.refusedWrite .range 0x20)
      else .next (s.acceptedCfg { s.cfg with winBase := s.cfg.pendBase, winCount := s.cfg.pendCount }))
    ∧ (∀ p : Agent,
      let y := v.toNat % 16
      let total := (allAgents.map fun q => if q = p then y else (s.port q).reqCredits).sum
      let a : Addr := BitVec.ofNat 16 (0x40 + 4 * p.val)
      (y < 1 ∨ 8 < y → exec (.reqCreditsWrite p v) s = .next (s.refusedWrite .range a))
      ∧ (1 ≤ y → y ≤ 8 → s.member p = true → exec (.reqCreditsWrite p v) s = .next (s.refusedWrite .state a))
      ∧ (1 ≤ y → y ≤ 8 → s.member p = false → 48 < total →
          exec (.reqCreditsWrite p v) s = .next (s.refusedWrite .sum a))
      ∧ (1 ≤ y → y ≤ 8 → s.member p = false → total ≤ 48 → ∃ t, exec (.reqCreditsWrite p v) s = .next t
          ∧ t.port p = { s.port p with reqCredits := y } ∧ (∀ q, q ≠ p → t.port q = s.port q)
          ∧ { t with ports := s.ports } = s.acceptedWrite))
    ∧ (if 1 ≤ x ∧ x ≤ 16 then ∃ t, exec (.probeCreditsWrite v) s = .next t ∧ t.svc = s.svc ∧ t.dir = s.dir
          ∧ t.cfg = { s.cfg with probeCredits := x } ∧ t.spi = s.writeAnswered sdoOk
        else exec (.probeCreditsWrite v) s = .next (s.refusedWrite .range 0x68))
    ∧ (∀ m : AdmitMark,
      let a : Addr := if m = .high then 0x78 else 0x7c
      let high := if m = .high then x else s.cfg.admitHigh
      let low := if m = .high then s.cfg.admitLow else x
      (x < 1 ∨ 31 < x → exec (.admitWrite m v) s = .next (s.refusedWrite .range a))
      ∧ (1 ≤ x → x ≤ 31 → high ≤ low → exec (.admitWrite m v) s = .next (s.refusedWrite .order a))
      ∧ (1 ≤ x → x ≤ 31 → low < high → ∃ t, exec (.admitWrite m v) s = .next t ∧ t.svc = s.svc ∧ t.dir = s.dir
          ∧ t.cfg = { s.cfg with admitHigh := high, admitLow := low } ∧ t.spi = s.writeAnswered sdoOk
          ∧ t.pause = if s.part = .halted then s.pause
              else if high ≤ s.inUseCount then true else if s.inUseCount ≤ low then false else s.pause))
    ∧ (if 1 ≤ x ∧ x ≤ 8 then ∃ t, exec (.recallBudgetWrite v) s = .next t ∧ t.svc = s.svc ∧ t.dir = s.dir
          ∧ t.cfg = { s.cfg with recallBudget := x } ∧ t.spi = s.writeAnswered sdoOk
          ∧ (s.part = .halted → t.leave = s.leave)
          ∧ (s.part = .run → s.calm → t.leave =
              { s.leave with wait := if s.leave.wait = .room then .ready else s.leave.wait })
        else exec (.recallBudgetWrite v) s = .next (s.refusedWrite .range 0x80))
    ∧ (∀ k : ErrKind,
      (v.toNat % 256 = 0 → ∃ t, exec (.counterWrite k v) s = .next t
        ∧ (∀ j, t.err.counter j = if j = k then 0 else s.err.counter j)
        ∧ { t with err := { t.err with counters := s.err.counters } } = s.acceptedWrite)
      ∧ (v.toNat % 256 ≠ 0 → exec (.counterWrite k v) s =
          .next (s.refusedWrite .range (BitVec.ofNat 16 (0xc00 + 4 * (kindIdx k).val)))))
    ∧ ∀ p : Agent,
      (v.toNat % 65536 = 0 → ∃ t, exec (.discardCounterWrite p v) s = .next t
        ∧ t.port p = { s.port p with discards := 0 } ∧ (∀ q, q ≠ p → t.port q = s.port q)
        ∧ { t with ports := s.ports } = s.acceptedWrite)
      ∧ (v.toNat % 65536 ≠ 0 → exec (.discardCounterWrite p v) s =
          .next (s.refusedWrite .range (BitVec.ofNat 16 (0x108 + 16 * p.val))))

/-- A WRITE to an address: BAD_ADDR outside the map, READ_ONLY where no register takes writes, BAD_ARG for a command
code that names no command; the timeouts, the thresholds, the pending window, PROTO_FENCE and the argument registers
take the values of their ranges (R178, R179, R181, R190, R191). -/
def Obligations.RegisterWriteByAddress : Prop :=
  ∀ (s : State) (v : Word), s.pwrok = true →
    let x := v.toNat % 65536
    let setting (a : Addr) (lo hi : Nat) (c : Settings) : Prop := exec (.registerWrite a v) s =
      if lo ≤ x ∧ x ≤ hi then .next (s.acceptedCfg c) else .next (s.refusedWrite .range a)
    (∀ a : Addr, 0xfff < a.toNat ∨ a.toNat % 4 ≠ 0 →
      exec (.registerWrite a v) s = .next { s.clearOutputs with spi := s.writeAnswered sdoBadAddr })
    ∧ (∀ a : Addr, a.toNat ≤ 0xfff → a.toNat % 4 = 0 → hasOwnRow a = false →
        a ∉ [0x10, 0x14, 0x18, 0x1c, 0x64, 0x6c, 0x70, 0x74, 0x84, 0x88, 0x8c, 0xe00, 0xe04, 0xe08] →
        exec (.registerWrite a v) s = .next (s.refusedWrite .readOnly a))
    ∧ setting 0x6c 1 1023 { s.cfg with probeTmo := x } ∧ setting 0x70 0 3 { s.cfg with probeRetries := x }
    ∧ setting 0x74 1 1023 { s.cfg with doneTmo := x } ∧ setting 0x84 0 15 { s.cfg with retireTh := x }
    ∧ setting 0x88 1 1023 { s.cfg with scrubInterval := x } ∧ setting 0x8c 1 255 { s.cfg with scrubStarve := x }
    ∧ exec (.registerWrite 0x64 v) s = .next (s.acceptedCfg { s.cfg with protoFence := has v 0 })
    ∧ exec (.registerWrite 0x10 v) s =
        .next (s.acceptedCfg { s.cfg with pendBase := s.cfg.pendBase.extractLsb' 32 6 ++ v })
    ∧ exec (.registerWrite 0x14 v) s =
        .next (s.acceptedCfg { s.cfg with pendBase := v.extractLsb' 0 6 ++ s.cfg.pendBase.extractLsb' 0 32 })
    ∧ exec (.registerWrite 0x18 v) s =
        .next (s.acceptedCfg { s.cfg with pendCount := s.cfg.pendCount.extractLsb' 32 7 ++ v })
    ∧ exec (.registerWrite 0x1c v) s =
        .next (s.acceptedCfg { s.cfg with pendCount := v.extractLsb' 0 7 ++ s.cfg.pendCount.extractLsb' 0 32 })
    ∧ exec (.registerWrite 0xe04 v) s = .next { s.acceptedWrite with svc := { s.svc with argA := v } }
    ∧ exec (.registerWrite 0xe08 v) s = .next { s.acceptedWrite with svc := { s.svc with argB := v } }
    ∧ (v.toNat % 256 = 0 ∨ 10 < v.toNat % 256 → s.svc.status ≠ .busy → ∃ t, exec (.registerWrite 0xe00 v) s = .next t
        ∧ t.svc.status = .failed .badArg ∧ t.svc.result = Result.clear ∧ t.dir = s.dir)

/-- The port enables: a set bit enables its port, which comes up from OFF when its link is present and its rejoin hold
clear; a clear bit disables it, clears the hold of a port that was enabled (log 23) and takes a TRAINING port OFF; no
other port state changes (R106). -/
def Obligations.PortEnablesMovePorts : Prop :=
  ∀ (s : State) (v : Word), s.pwrok = true → s.calm →
    ∃ t, exec (.portEnableWrite v) s = .next t ∧ t.dir = s.dir ∧ t.cfg = s.cfg ∧ t.svc = s.svc ∧ t.spi = s.writeAnswered sdoOk
      ∧ ∀ p : Agent,
        (has v p = false → (t.port p).still = { (s.port p).still with
          enable := false, rejoinHold := (s.port p).rejoinHold && !(s.port p).enable
          state := if (s.port p).state = .training then .off else (s.port p).state })
        ∧ (has v p = true → (t.port p).enable = true
          ∧ (¬ ((s.port p).state = .off ∧ (s.port p).link ∧ !(s.port p).rejoinHold ∧ s.resetN) →
              (t.port p).still = { (s.port p).still with enable := true })
          ∧ ((s.port p).state = .off → (s.port p).link → (s.port p).rejoinHold = false → s.resetN →
              (s.part ≠ .run → (t.port p).state = .training)
              ∧ (s.part = .run → (t.port p).state = .active ∧ (t.port p).credits = (s.port p).reqCredits
                ∧ (t.port p).tags = 0)))

/-- A write of a kind's mask and routing, in any part state, sets both, changes no capture and no part state, and evaluates
both outputs again from the capture and the routings as they now stand. It acts on the reports that reach the unit after it:
while the kind is masked they fill no capture, and in RUN the next unmasked report of a kind routed HALT halts the part
(R159). -/
def Obligations.ErrorRegisterWrites : Prop :=
  ∀ (s : State) (v : Word), s.pwrok = true →
    ∀ k : ErrKind, ∃ t, exec (.maskRoutingWrite k v) s = .next t ∧ t.outputsLawful ∧ t.part = s.part
      ∧ (∀ j, t.err.mask j = if j = k then has v 2 else s.err.mask j)
      ∧ (∀ j, t.err.routing j = if j = k then routingOf v else s.err.routing j)
      ∧ t.err.fatal = s.err.fatal ∧ t.err.nonfatal = s.err.nonfatal ∧ t.err.counters = s.err.counters
      ∧ t.err.haltKind = s.err.haltKind ∧ { t with err := s.err } = s.acceptedWrite
      ∧ ∀ (r : Report) (rest : List Report), r.kind = k →
        (has v 2 = true → (t.err.absorb r).fatal = t.err.fatal ∧ (t.err.absorb r).nonfatal = t.err.nonfatal)
        ∧ (has v 2 = false → routingOf v = .halt → s.part = .run →
            ({ t with reports := r :: rest } : State).takeReports.part = .halted
            ∧ ({ t with reports := r :: rest } : State).takeReports.err.haltKind = some k)

/-! ### Errors -/

/-- The reports of an event reach the unit in their order: each is counted, up to 255, and captured unless its kind is
masked; NOTICE_N and FAULT_N follow the capture; the first unmasked report routed HALT, in RUN, halts the part and names
the halt kind (R152 to R158, R161). -/
def Obligations.ReportsAreTakenInOrder : Prop :=
  (∀ (u : ErrorUnit) (r : Report),
    (∀ k, (u.absorb r).counter k = if k = r.kind then min 255 (u.counter k + 1) else u.counter k)
    ∧ (u.mask r.kind = true → (u.absorb r).fatal = u.fatal ∧ (u.absorb r).nonfatal = u.nonfatal)
    ∧ (u.mask r.kind = false →
        (∀ c, c ≠ classOf r.kind → (u.absorb r).capture c = u.capture c)
        ∧ ((u.capture (classOf r.kind)).first = none →
            (u.absorb r).capture (classOf r.kind) = { u.capture (classOf r.kind) with first := some r })
        ∧ ((u.capture (classOf r.kind)).first ≠ none → (u.absorb r).capture (classOf r.kind) =
            { u.capture (classOf r.kind) with later := addTo (u.capture (classOf r.kind)).later (kindIdx r.kind) }))
    ∧ (u.absorb r).masks = u.masks ∧ (u.absorb r).routings = u.routings)
  ∧ ∀ s : State,
    let t := s.takeReports
    let u := s.reports.foldl ErrorUnit.absorb s.err
    let halts : Report → Prop := fun r => s.err.mask r.kind = false ∧ s.err.routing r.kind = .halt
    t.outputsLawful ∧ t.reports = s.reports
      ∧ t.err = { u with notice := t.err.notice, fault := t.err.fault, haltKind := t.err.haltKind }
      ∧ (∀ before r after, s.part = .run → s.reports = before ++ r :: after → (∀ q ∈ before, ¬ halts q) → halts r →
          t.part = .halted ∧ t.err.haltKind = some r.kind ∧ t.err.fault = true)
      ∧ ((∀ q ∈ s.reports, ¬ halts q) ∨ s.part ≠ .run →
          t.part = s.part ∧ t.err.haltKind = s.err.haltKind ∧ t.svc = s.svc ∧ t.claims = s.claims)

/-! ### Invariants and formats -/

/-- Every step keeps the law of records: the directory stays in its canonical form, a SHARED record has a holder, an OWNED
record exactly one, a POISONED record none and its flag set (R3). -/
def Obligations.StepKeepsRecordLaw : Prop := ∀ s t : State, s.lawful → step s = .next t → t.lawful

/-- Every step keeps entries and bound fields, recency orders and tags in agreement (R6, R9, R12, R26, R49). -/
def Obligations.StepKeepsLinks : Prop := ∀ s t : State, s.linked → step s = .next t → t.linked

/-- Every step keeps the credit law: in ACTIVE and LEAVING an agent's credits and its items in the intake queue make
REQ_CREDITS together (R111), each walker serves ports in the state its rules give (R116, R124), and the clearing walk and a
low RESET_N go with INIT (R168, R169, R172). -/
def Obligations.StepKeepsCredits : Prop := ∀ s t : State, s.creditsLawful → step s = .next t → t.creditsLawful

/-- Every step keeps every setting in its range (R1, R19, R56, R64, R72, R77, R90, R142, R147, R179) and the sum of the
REQ_CREDITS values at most 48 (R111), and leaves NOTICE_N and FAULT_N as the capture, the routings and the part state give
them (R157, R158). -/
def Obligations.StepKeepsSettingsAndOutputs : Prop :=
  (∀ s t : State, s.cfg.legal = true → s.creditTotal ≤ 48 →
      (∀ p, 1 ≤ (s.port p).reqCredits ∧ (s.port p).reqCredits ≤ 8) → step s = .next t →
      t.cfg.legal = true ∧ t.creditTotal ≤ 48 ∧ ∀ p, 1 ≤ (t.port p).reqCredits ∧ (t.port p).reqCredits ≤ 8)
  ∧ (∀ s t : State, s.outputsLawful → step s = .next t → t.outputsLawful)

/-- Every step in RUN leaves none of these four undone (`State.calm`): the send of a queued probe that finds a free probe
credit, the taking of a LEAVE at a served head, the LEAVE_DONE of a finished departure, and the entry of a drained port into
WALK (R72, R112, R124, R127). -/
def Obligations.StepKeepsCalm : Prop := ∀ s t : State, s.calm → step s = .next t → t.calm

/-- A link message decodes to the command that it encodes, and a WRITE frame comes to its row at its last data bit and
to nothing before it, for every well-formed command at every value of its operands (R177, R189 to R191, section 11.1,
section 11.2, section 11.3, section 11.4). -/
def Obligations.FormatsRoundTrip : Prop :=
  ∀ i : Instr, i.wellFormed = true →
    (∀ p m, encodeMessage i = some (p, m) → decodeMessage p m = i)
    ∧ ∀ a v, encodeWrite i = some (a, v) → writeRow a v = i
      ∧ carryOf (firstBits (writeFrame a v) 56) = some (.row i) ∧ ∀ n < 56, carryOf (firstBits (writeFrame a v) n) = none
end

