-- ==== Sys2Proof/Laws/State.lean ====
section
/-! SUPPORT. What each named update of the state leaves of each field; all true by unfolding. -/

namespace Sys2Proof.Machine.State

@[simp] theorem pwrok_clearOutputs (s : State) : (s.clearOutputs).pwrok = s.pwrok := rfl
@[simp] theorem resetN_clearOutputs (s : State) : (s.clearOutputs).resetN = s.resetN := rfl
@[simp] theorem part_clearOutputs (s : State) : (s.clearOutputs).part = s.part := rfl
@[simp] theorem walk_clearOutputs (s : State) : (s.clearOutputs).walk = s.walk := rfl
@[simp] theorem dir_clearOutputs (s : State) : (s.clearOutputs).dir = s.dir := rfl
@[simp] theorem cfg_clearOutputs (s : State) : (s.clearOutputs).cfg = s.cfg := rfl
@[simp] theorem tt_clearOutputs (s : State) : (s.clearOutputs).tt = s.tt := rfl
@[simp] theorem pool_clearOutputs (s : State) : (s.clearOutputs).pool = s.pool := rfl
@[simp] theorem pause_clearOutputs (s : State) : (s.clearOutputs).pause = s.pause := rfl
@[simp] theorem ports_clearOutputs (s : State) : (s.clearOutputs).ports = s.ports := rfl
@[simp] theorem intake_clearOutputs (s : State) : (s.clearOutputs).intake = s.intake := rfl
@[simp] theorem recallUnit_clearOutputs (s : State) : (s.clearOutputs).recallUnit = s.recallUnit := rfl
@[simp] theorem purge_clearOutputs (s : State) : (s.clearOutputs).purge = s.purge := rfl
@[simp] theorem leave_clearOutputs (s : State) : (s.clearOutputs).leave = s.leave := rfl
@[simp] theorem integ_clearOutputs (s : State) : (s.clearOutputs).integ = s.integ := rfl
@[simp] theorem err_clearOutputs (s : State) : (s.clearOutputs).err = s.err := rfl
@[simp] theorem svc_clearOutputs (s : State) : (s.clearOutputs).svc = s.svc := rfl
@[simp] theorem claims_clearOutputs (s : State) : (s.clearOutputs).claims = s.claims := rfl
@[simp] theorem pending_clearOutputs (s : State) : (s.clearOutputs).pending = s.pending := rfl

@[simp] theorem pwrok_setEntry (s : State) (e : EntryIdx) (x : Entry) : (s.setEntry e x).pwrok = s.pwrok := rfl
@[simp] theorem resetN_setEntry (s : State) (e : EntryIdx) (x : Entry) : (s.setEntry e x).resetN = s.resetN := rfl
@[simp] theorem part_setEntry (s : State) (e : EntryIdx) (x : Entry) : (s.setEntry e x).part = s.part := rfl
@[simp] theorem walk_setEntry (s : State) (e : EntryIdx) (x : Entry) : (s.setEntry e x).walk = s.walk := rfl
@[simp] theorem dir_setEntry (s : State) (e : EntryIdx) (x : Entry) : (s.setEntry e x).dir = s.dir := rfl
@[simp] theorem cfg_setEntry (s : State) (e : EntryIdx) (x : Entry) : (s.setEntry e x).cfg = s.cfg := rfl
@[simp] theorem pool_setEntry (s : State) (e : EntryIdx) (x : Entry) : (s.setEntry e x).pool = s.pool := rfl
@[simp] theorem pause_setEntry (s : State) (e : EntryIdx) (x : Entry) : (s.setEntry e x).pause = s.pause := rfl
@[simp] theorem ports_setEntry (s : State) (e : EntryIdx) (x : Entry) : (s.setEntry e x).ports = s.ports := rfl
@[simp] theorem intake_setEntry (s : State) (e : EntryIdx) (x : Entry) : (s.setEntry e x).intake = s.intake := rfl
@[simp] theorem recallUnit_setEntry (s : State) (e : EntryIdx) (x : Entry) : (s.setEntry e x).recallUnit = s.recallUnit := rfl
@[simp] theorem purge_setEntry (s : State) (e : EntryIdx) (x : Entry) : (s.setEntry e x).purge = s.purge := rfl
@[simp] theorem leave_setEntry (s : State) (e : EntryIdx) (x : Entry) : (s.setEntry e x).leave = s.leave := rfl
@[simp] theorem integ_setEntry (s : State) (e : EntryIdx) (x : Entry) : (s.setEntry e x).integ = s.integ := rfl
@[simp] theorem err_setEntry (s : State) (e : EntryIdx) (x : Entry) : (s.setEntry e x).err = s.err := rfl
@[simp] theorem svc_setEntry (s : State) (e : EntryIdx) (x : Entry) : (s.setEntry e x).svc = s.svc := rfl
@[simp] theorem claims_setEntry (s : State) (e : EntryIdx) (x : Entry) : (s.setEntry e x).claims = s.claims := rfl
@[simp] theorem outbox_setEntry (s : State) (e : EntryIdx) (x : Entry) : (s.setEntry e x).outbox = s.outbox := rfl
@[simp] theorem reports_setEntry (s : State) (e : EntryIdx) (x : Entry) : (s.setEntry e x).reports = s.reports := rfl
@[simp] theorem spi_setEntry (s : State) (e : EntryIdx) (x : Entry) : (s.setEntry e x).spi = s.spi := rfl
@[simp] theorem pending_setEntry (s : State) (e : EntryIdx) (x : Entry) : (s.setEntry e x).pending = s.pending := rfl

@[simp] theorem pwrok_updEntry (s : State) (e : EntryIdx) (f : Entry → Entry) : (s.updEntry e f).pwrok = s.pwrok := rfl
@[simp] theorem resetN_updEntry (s : State) (e : EntryIdx) (f : Entry → Entry) : (s.updEntry e f).resetN = s.resetN := rfl
@[simp] theorem part_updEntry (s : State) (e : EntryIdx) (f : Entry → Entry) : (s.updEntry e f).part = s.part := rfl
@[simp] theorem walk_updEntry (s : State) (e : EntryIdx) (f : Entry → Entry) : (s.updEntry e f).walk = s.walk := rfl
@[simp] theorem dir_updEntry (s : State) (e : EntryIdx) (f : Entry → Entry) : (s.updEntry e f).dir = s.dir := rfl
@[simp] theorem cfg_updEntry (s : State) (e : EntryIdx) (f : Entry → Entry) : (s.updEntry e f).cfg = s.cfg := rfl
@[simp] theorem pool_updEntry (s : State) (e : EntryIdx) (f : Entry → Entry) : (s.updEntry e f).pool = s.pool := rfl
@[simp] theorem pause_updEntry (s : State) (e : EntryIdx) (f : Entry → Entry) : (s.updEntry e f).pause = s.pause := rfl
@[simp] theorem ports_updEntry (s : State) (e : EntryIdx) (f : Entry → Entry) : (s.updEntry e f).ports = s.ports := rfl
@[simp] theorem intake_updEntry (s : State) (e : EntryIdx) (f : Entry → Entry) : (s.updEntry e f).intake = s.intake := rfl
@[simp] theorem recallUnit_updEntry (s : State) (e : EntryIdx) (f : Entry → Entry) : (s.updEntry e f).recallUnit = s.recallUnit := rfl
@[simp] theorem purge_updEntry (s : State) (e : EntryIdx) (f : Entry → Entry) : (s.updEntry e f).purge = s.purge := rfl
@[simp] theorem leave_updEntry (s : State) (e : EntryIdx) (f : Entry → Entry) : (s.updEntry e f).leave = s.leave := rfl
@[simp] theorem integ_updEntry (s : State) (e : EntryIdx) (f : Entry → Entry) : (s.updEntry e f).integ = s.integ := rfl
@[simp] theorem err_updEntry (s : State) (e : EntryIdx) (f : Entry → Entry) : (s.updEntry e f).err = s.err := rfl
@[simp] theorem svc_updEntry (s : State) (e : EntryIdx) (f : Entry → Entry) : (s.updEntry e f).svc = s.svc := rfl
@[simp] theorem claims_updEntry (s : State) (e : EntryIdx) (f : Entry → Entry) : (s.updEntry e f).claims = s.claims := rfl
@[simp] theorem outbox_updEntry (s : State) (e : EntryIdx) (f : Entry → Entry) : (s.updEntry e f).outbox = s.outbox := rfl
@[simp] theorem reports_updEntry (s : State) (e : EntryIdx) (f : Entry → Entry) : (s.updEntry e f).reports = s.reports := rfl
@[simp] theorem spi_updEntry (s : State) (e : EntryIdx) (f : Entry → Entry) : (s.updEntry e f).spi = s.spi := rfl
@[simp] theorem pending_updEntry (s : State) (e : EntryIdx) (f : Entry → Entry) : (s.updEntry e f).pending = s.pending := rfl

@[simp] theorem pwrok_setWaiter (s : State) (i : PoolIdx) (w : Option Waiter) : (s.setWaiter i w).pwrok = s.pwrok := rfl
@[simp] theorem resetN_setWaiter (s : State) (i : PoolIdx) (w : Option Waiter) : (s.setWaiter i w).resetN = s.resetN := rfl
@[simp] theorem part_setWaiter (s : State) (i : PoolIdx) (w : Option Waiter) : (s.setWaiter i w).part = s.part := rfl
@[simp] theorem walk_setWaiter (s : State) (i : PoolIdx) (w : Option Waiter) : (s.setWaiter i w).walk = s.walk := rfl
@[simp] theorem dir_setWaiter (s : State) (i : PoolIdx) (w : Option Waiter) : (s.setWaiter i w).dir = s.dir := rfl
@[simp] theorem cfg_setWaiter (s : State) (i : PoolIdx) (w : Option Waiter) : (s.setWaiter i w).cfg = s.cfg := rfl
@[simp] theorem tt_setWaiter (s : State) (i : PoolIdx) (w : Option Waiter) : (s.setWaiter i w).tt = s.tt := rfl
@[simp] theorem pause_setWaiter (s : State) (i : PoolIdx) (w : Option Waiter) : (s.setWaiter i w).pause = s.pause := rfl
@[simp] theorem ports_setWaiter (s : State) (i : PoolIdx) (w : Option Waiter) : (s.setWaiter i w).ports = s.ports := rfl
@[simp] theorem intake_setWaiter (s : State) (i : PoolIdx) (w : Option Waiter) : (s.setWaiter i w).intake = s.intake := rfl
@[simp] theorem recallUnit_setWaiter (s : State) (i : PoolIdx) (w : Option Waiter) : (s.setWaiter i w).recallUnit = s.recallUnit := rfl
@[simp] theorem purge_setWaiter (s : State) (i : PoolIdx) (w : Option Waiter) : (s.setWaiter i w).purge = s.purge := rfl
@[simp] theorem leave_setWaiter (s : State) (i : PoolIdx) (w : Option Waiter) : (s.setWaiter i w).leave = s.leave := rfl
@[simp] theorem integ_setWaiter (s : State) (i : PoolIdx) (w : Option Waiter) : (s.setWaiter i w).integ = s.integ := rfl
@[simp] theorem err_setWaiter (s : State) (i : PoolIdx) (w : Option Waiter) : (s.setWaiter i w).err = s.err := rfl
@[simp] theorem svc_setWaiter (s : State) (i : PoolIdx) (w : Option Waiter) : (s.setWaiter i w).svc = s.svc := rfl
@[simp] theorem claims_setWaiter (s : State) (i : PoolIdx) (w : Option Waiter) : (s.setWaiter i w).claims = s.claims := rfl
@[simp] theorem outbox_setWaiter (s : State) (i : PoolIdx) (w : Option Waiter) : (s.setWaiter i w).outbox = s.outbox := rfl
@[simp] theorem reports_setWaiter (s : State) (i : PoolIdx) (w : Option Waiter) : (s.setWaiter i w).reports = s.reports := rfl
@[simp] theorem spi_setWaiter (s : State) (i : PoolIdx) (w : Option Waiter) : (s.setWaiter i w).spi = s.spi := rfl
@[simp] theorem pending_setWaiter (s : State) (i : PoolIdx) (w : Option Waiter) : (s.setWaiter i w).pending = s.pending := rfl

@[simp] theorem pwrok_setPort (s : State) (p : Agent) (q : Port) : (s.setPort p q).pwrok = s.pwrok := rfl
@[simp] theorem resetN_setPort (s : State) (p : Agent) (q : Port) : (s.setPort p q).resetN = s.resetN := rfl
@[simp] theorem part_setPort (s : State) (p : Agent) (q : Port) : (s.setPort p q).part = s.part := rfl
@[simp] theorem walk_setPort (s : State) (p : Agent) (q : Port) : (s.setPort p q).walk = s.walk := rfl
@[simp] theorem dir_setPort (s : State) (p : Agent) (q : Port) : (s.setPort p q).dir = s.dir := rfl
@[simp] theorem cfg_setPort (s : State) (p : Agent) (q : Port) : (s.setPort p q).cfg = s.cfg := rfl
@[simp] theorem tt_setPort (s : State) (p : Agent) (q : Port) : (s.setPort p q).tt = s.tt := rfl
@[simp] theorem pool_setPort (s : State) (p : Agent) (q : Port) : (s.setPort p q).pool = s.pool := rfl
@[simp] theorem pause_setPort (s : State) (p : Agent) (q : Port) : (s.setPort p q).pause = s.pause := rfl
@[simp] theorem intake_setPort (s : State) (p : Agent) (q : Port) : (s.setPort p q).intake = s.intake := rfl
@[simp] theorem recallUnit_setPort (s : State) (p : Agent) (q : Port) : (s.setPort p q).recallUnit = s.recallUnit := rfl
@[simp] theorem purge_setPort (s : State) (p : Agent) (q : Port) : (s.setPort p q).purge = s.purge := rfl
@[simp] theorem leave_setPort (s : State) (p : Agent) (q : Port) : (s.setPort p q).leave = s.leave := rfl
@[simp] theorem integ_setPort (s : State) (p : Agent) (q : Port) : (s.setPort p q).integ = s.integ := rfl
@[simp] theorem err_setPort (s : State) (p : Agent) (q : Port) : (s.setPort p q).err = s.err := rfl
@[simp] theorem svc_setPort (s : State) (p : Agent) (q : Port) : (s.setPort p q).svc = s.svc := rfl
@[simp] theorem claims_setPort (s : State) (p : Agent) (q : Port) : (s.setPort p q).claims = s.claims := rfl
@[simp] theorem outbox_setPort (s : State) (p : Agent) (q : Port) : (s.setPort p q).outbox = s.outbox := rfl
@[simp] theorem reports_setPort (s : State) (p : Agent) (q : Port) : (s.setPort p q).reports = s.reports := rfl
@[simp] theorem spi_setPort (s : State) (p : Agent) (q : Port) : (s.setPort p q).spi = s.spi := rfl
@[simp] theorem pending_setPort (s : State) (p : Agent) (q : Port) : (s.setPort p q).pending = s.pending := rfl

@[simp] theorem pwrok_updPort (s : State) (p : Agent) (f : Port → Port) : (s.updPort p f).pwrok = s.pwrok := rfl
@[simp] theorem resetN_updPort (s : State) (p : Agent) (f : Port → Port) : (s.updPort p f).resetN = s.resetN := rfl
@[simp] theorem part_updPort (s : State) (p : Agent) (f : Port → Port) : (s.updPort p f).part = s.part := rfl
@[simp] theorem walk_updPort (s : State) (p : Agent) (f : Port → Port) : (s.updPort p f).walk = s.walk := rfl
@[simp] theorem dir_updPort (s : State) (p : Agent) (f : Port → Port) : (s.updPort p f).dir = s.dir := rfl
@[simp] theorem cfg_updPort (s : State) (p : Agent) (f : Port → Port) : (s.updPort p f).cfg = s.cfg := rfl
@[simp] theorem tt_updPort (s : State) (p : Agent) (f : Port → Port) : (s.updPort p f).tt = s.tt := rfl
@[simp] theorem pool_updPort (s : State) (p : Agent) (f : Port → Port) : (s.updPort p f).pool = s.pool := rfl
@[simp] theorem pause_updPort (s : State) (p : Agent) (f : Port → Port) : (s.updPort p f).pause = s.pause := rfl
@[simp] theorem intake_updPort (s : State) (p : Agent) (f : Port → Port) : (s.updPort p f).intake = s.intake := rfl
@[simp] theorem recallUnit_updPort (s : State) (p : Agent) (f : Port → Port) : (s.updPort p f).recallUnit = s.recallUnit := rfl
@[simp] theorem purge_updPort (s : State) (p : Agent) (f : Port → Port) : (s.updPort p f).purge = s.purge := rfl
@[simp] theorem leave_updPort (s : State) (p : Agent) (f : Port → Port) : (s.updPort p f).leave = s.leave := rfl
@[simp] theorem integ_updPort (s : State) (p : Agent) (f : Port → Port) : (s.updPort p f).integ = s.integ := rfl
@[simp] theorem err_updPort (s : State) (p : Agent) (f : Port → Port) : (s.updPort p f).err = s.err := rfl
@[simp] theorem svc_updPort (s : State) (p : Agent) (f : Port → Port) : (s.updPort p f).svc = s.svc := rfl
@[simp] theorem claims_updPort (s : State) (p : Agent) (f : Port → Port) : (s.updPort p f).claims = s.claims := rfl
@[simp] theorem outbox_updPort (s : State) (p : Agent) (f : Port → Port) : (s.updPort p f).outbox = s.outbox := rfl
@[simp] theorem reports_updPort (s : State) (p : Agent) (f : Port → Port) : (s.updPort p f).reports = s.reports := rfl
@[simp] theorem spi_updPort (s : State) (p : Agent) (f : Port → Port) : (s.updPort p f).spi = s.spi := rfl
@[simp] theorem pending_updPort (s : State) (p : Agent) (f : Port → Port) : (s.updPort p f).pending = s.pending := rfl

@[simp] theorem pwrok_report (s : State) (r : Report) : (s.report r).pwrok = s.pwrok := rfl
@[simp] theorem resetN_report (s : State) (r : Report) : (s.report r).resetN = s.resetN := rfl
@[simp] theorem part_report (s : State) (r : Report) : (s.report r).part = s.part := rfl
@[simp] theorem walk_report (s : State) (r : Report) : (s.report r).walk = s.walk := rfl
@[simp] theorem dir_report (s : State) (r : Report) : (s.report r).dir = s.dir := rfl
@[simp] theorem cfg_report (s : State) (r : Report) : (s.report r).cfg = s.cfg := rfl
@[simp] theorem tt_report (s : State) (r : Report) : (s.report r).tt = s.tt := rfl
@[simp] theorem pool_report (s : State) (r : Report) : (s.report r).pool = s.pool := rfl
@[simp] theorem pause_report (s : State) (r : Report) : (s.report r).pause = s.pause := rfl
@[simp] theorem ports_report (s : State) (r : Report) : (s.report r).ports = s.ports := rfl
@[simp] theorem intake_report (s : State) (r : Report) : (s.report r).intake = s.intake := rfl
@[simp] theorem recallUnit_report (s : State) (r : Report) : (s.report r).recallUnit = s.recallUnit := rfl
@[simp] theorem purge_report (s : State) (r : Report) : (s.report r).purge = s.purge := rfl
@[simp] theorem leave_report (s : State) (r : Report) : (s.report r).leave = s.leave := rfl
@[simp] theorem integ_report (s : State) (r : Report) : (s.report r).integ = s.integ := rfl
@[simp] theorem err_report (s : State) (r : Report) : (s.report r).err = s.err := rfl
@[simp] theorem svc_report (s : State) (r : Report) : (s.report r).svc = s.svc := rfl
@[simp] theorem claims_report (s : State) (r : Report) : (s.report r).claims = s.claims := rfl
@[simp] theorem outbox_report (s : State) (r : Report) : (s.report r).outbox = s.outbox := rfl
@[simp] theorem spi_report (s : State) (r : Report) : (s.report r).spi = s.spi := rfl
@[simp] theorem pending_report (s : State) (r : Report) : (s.report r).pending = s.pending := rfl

@[simp] theorem pwrok_putSet (s : State) (k : SetIdx) (d : DirSet) : (s.putSet k d).pwrok = s.pwrok := rfl
@[simp] theorem resetN_putSet (s : State) (k : SetIdx) (d : DirSet) : (s.putSet k d).resetN = s.resetN := rfl
@[simp] theorem part_putSet (s : State) (k : SetIdx) (d : DirSet) : (s.putSet k d).part = s.part := rfl
@[simp] theorem walk_putSet (s : State) (k : SetIdx) (d : DirSet) : (s.putSet k d).walk = s.walk := rfl
@[simp] theorem cfg_putSet (s : State) (k : SetIdx) (d : DirSet) : (s.putSet k d).cfg = s.cfg := rfl
@[simp] theorem tt_putSet (s : State) (k : SetIdx) (d : DirSet) : (s.putSet k d).tt = s.tt := rfl
@[simp] theorem pool_putSet (s : State) (k : SetIdx) (d : DirSet) : (s.putSet k d).pool = s.pool := rfl
@[simp] theorem pause_putSet (s : State) (k : SetIdx) (d : DirSet) : (s.putSet k d).pause = s.pause := rfl
@[simp] theorem ports_putSet (s : State) (k : SetIdx) (d : DirSet) : (s.putSet k d).ports = s.ports := rfl
@[simp] theorem intake_putSet (s : State) (k : SetIdx) (d : DirSet) : (s.putSet k d).intake = s.intake := rfl
@[simp] theorem recallUnit_putSet (s : State) (k : SetIdx) (d : DirSet) : (s.putSet k d).recallUnit = s.recallUnit := rfl
@[simp] theorem purge_putSet (s : State) (k : SetIdx) (d : DirSet) : (s.putSet k d).purge = s.purge := rfl
@[simp] theorem leave_putSet (s : State) (k : SetIdx) (d : DirSet) : (s.putSet k d).leave = s.leave := rfl
@[simp] theorem integ_putSet (s : State) (k : SetIdx) (d : DirSet) : (s.putSet k d).integ = s.integ := rfl
@[simp] theorem err_putSet (s : State) (k : SetIdx) (d : DirSet) : (s.putSet k d).err = s.err := rfl
@[simp] theorem svc_putSet (s : State) (k : SetIdx) (d : DirSet) : (s.putSet k d).svc = s.svc := rfl
@[simp] theorem claims_putSet (s : State) (k : SetIdx) (d : DirSet) : (s.putSet k d).claims = s.claims := rfl
@[simp] theorem outbox_putSet (s : State) (k : SetIdx) (d : DirSet) : (s.putSet k d).outbox = s.outbox := rfl
@[simp] theorem reports_putSet (s : State) (k : SetIdx) (d : DirSet) : (s.putSet k d).reports = s.reports := rfl
@[simp] theorem spi_putSet (s : State) (k : SetIdx) (d : DirSet) : (s.putSet k d).spi = s.spi := rfl
@[simp] theorem pending_putSet (s : State) (k : SetIdx) (d : DirSet) : (s.putSet k d).pending = s.pending := rfl

@[simp] theorem pwrok_updSet (s : State) (k : SetIdx) (f : DirSet → DirSet) : (s.updSet k f).pwrok = s.pwrok := rfl
@[simp] theorem resetN_updSet (s : State) (k : SetIdx) (f : DirSet → DirSet) : (s.updSet k f).resetN = s.resetN := rfl
@[simp] theorem part_updSet (s : State) (k : SetIdx) (f : DirSet → DirSet) : (s.updSet k f).part = s.part := rfl
@[simp] theorem walk_updSet (s : State) (k : SetIdx) (f : DirSet → DirSet) : (s.updSet k f).walk = s.walk := rfl
@[simp] theorem cfg_updSet (s : State) (k : SetIdx) (f : DirSet → DirSet) : (s.updSet k f).cfg = s.cfg := rfl
@[simp] theorem tt_updSet (s : State) (k : SetIdx) (f : DirSet → DirSet) : (s.updSet k f).tt = s.tt := rfl
@[simp] theorem pool_updSet (s : State) (k : SetIdx) (f : DirSet → DirSet) : (s.updSet k f).pool = s.pool := rfl
@[simp] theorem pause_updSet (s : State) (k : SetIdx) (f : DirSet → DirSet) : (s.updSet k f).pause = s.pause := rfl
@[simp] theorem ports_updSet (s : State) (k : SetIdx) (f : DirSet → DirSet) : (s.updSet k f).ports = s.ports := rfl
@[simp] theorem intake_updSet (s : State) (k : SetIdx) (f : DirSet → DirSet) : (s.updSet k f).intake = s.intake := rfl
@[simp] theorem recallUnit_updSet (s : State) (k : SetIdx) (f : DirSet → DirSet) : (s.updSet k f).recallUnit = s.recallUnit := rfl
@[simp] theorem purge_updSet (s : State) (k : SetIdx) (f : DirSet → DirSet) : (s.updSet k f).purge = s.purge := rfl
@[simp] theorem leave_updSet (s : State) (k : SetIdx) (f : DirSet → DirSet) : (s.updSet k f).leave = s.leave := rfl
@[simp] theorem integ_updSet (s : State) (k : SetIdx) (f : DirSet → DirSet) : (s.updSet k f).integ = s.integ := rfl
@[simp] theorem err_updSet (s : State) (k : SetIdx) (f : DirSet → DirSet) : (s.updSet k f).err = s.err := rfl
@[simp] theorem svc_updSet (s : State) (k : SetIdx) (f : DirSet → DirSet) : (s.updSet k f).svc = s.svc := rfl
@[simp] theorem claims_updSet (s : State) (k : SetIdx) (f : DirSet → DirSet) : (s.updSet k f).claims = s.claims := rfl
@[simp] theorem outbox_updSet (s : State) (k : SetIdx) (f : DirSet → DirSet) : (s.updSet k f).outbox = s.outbox := rfl
@[simp] theorem reports_updSet (s : State) (k : SetIdx) (f : DirSet → DirSet) : (s.updSet k f).reports = s.reports := rfl
@[simp] theorem spi_updSet (s : State) (k : SetIdx) (f : DirSet → DirSet) : (s.updSet k f).spi = s.spi := rfl
@[simp] theorem pending_updSet (s : State) (k : SetIdx) (f : DirSet → DirSet) : (s.updSet k f).pending = s.pending := rfl

@[simp] theorem pwrok_setSlot (s : State) (k : SetIdx) (w : Way) (x : Slot) : (s.setSlot k w x).pwrok = s.pwrok := rfl
@[simp] theorem resetN_setSlot (s : State) (k : SetIdx) (w : Way) (x : Slot) : (s.setSlot k w x).resetN = s.resetN := rfl
@[simp] theorem part_setSlot (s : State) (k : SetIdx) (w : Way) (x : Slot) : (s.setSlot k w x).part = s.part := rfl
@[simp] theorem walk_setSlot (s : State) (k : SetIdx) (w : Way) (x : Slot) : (s.setSlot k w x).walk = s.walk := rfl
@[simp] theorem cfg_setSlot (s : State) (k : SetIdx) (w : Way) (x : Slot) : (s.setSlot k w x).cfg = s.cfg := rfl
@[simp] theorem tt_setSlot (s : State) (k : SetIdx) (w : Way) (x : Slot) : (s.setSlot k w x).tt = s.tt := rfl
@[simp] theorem pool_setSlot (s : State) (k : SetIdx) (w : Way) (x : Slot) : (s.setSlot k w x).pool = s.pool := rfl
@[simp] theorem pause_setSlot (s : State) (k : SetIdx) (w : Way) (x : Slot) : (s.setSlot k w x).pause = s.pause := rfl
@[simp] theorem ports_setSlot (s : State) (k : SetIdx) (w : Way) (x : Slot) : (s.setSlot k w x).ports = s.ports := rfl
@[simp] theorem intake_setSlot (s : State) (k : SetIdx) (w : Way) (x : Slot) : (s.setSlot k w x).intake = s.intake := rfl
@[simp] theorem recallUnit_setSlot (s : State) (k : SetIdx) (w : Way) (x : Slot) : (s.setSlot k w x).recallUnit = s.recallUnit := rfl
@[simp] theorem purge_setSlot (s : State) (k : SetIdx) (w : Way) (x : Slot) : (s.setSlot k w x).purge = s.purge := rfl
@[simp] theorem leave_setSlot (s : State) (k : SetIdx) (w : Way) (x : Slot) : (s.setSlot k w x).leave = s.leave := rfl
@[simp] theorem integ_setSlot (s : State) (k : SetIdx) (w : Way) (x : Slot) : (s.setSlot k w x).integ = s.integ := rfl
@[simp] theorem err_setSlot (s : State) (k : SetIdx) (w : Way) (x : Slot) : (s.setSlot k w x).err = s.err := rfl
@[simp] theorem svc_setSlot (s : State) (k : SetIdx) (w : Way) (x : Slot) : (s.setSlot k w x).svc = s.svc := rfl
@[simp] theorem claims_setSlot (s : State) (k : SetIdx) (w : Way) (x : Slot) : (s.setSlot k w x).claims = s.claims := rfl
@[simp] theorem outbox_setSlot (s : State) (k : SetIdx) (w : Way) (x : Slot) : (s.setSlot k w x).outbox = s.outbox := rfl
@[simp] theorem reports_setSlot (s : State) (k : SetIdx) (w : Way) (x : Slot) : (s.setSlot k w x).reports = s.reports := rfl
@[simp] theorem spi_setSlot (s : State) (k : SetIdx) (w : Way) (x : Slot) : (s.setSlot k w x).spi = s.spi := rfl
@[simp] theorem pending_setSlot (s : State) (k : SetIdx) (w : Way) (x : Slot) : (s.setSlot k w x).pending = s.pending := rfl

@[simp] theorem pwrok_writeRec (s : State) (k : SetIdx) (w : Way) (r : Record) : (s.writeRec k w r).pwrok = s.pwrok := rfl
@[simp] theorem resetN_writeRec (s : State) (k : SetIdx) (w : Way) (r : Record) : (s.writeRec k w r).resetN = s.resetN := rfl
@[simp] theorem part_writeRec (s : State) (k : SetIdx) (w : Way) (r : Record) : (s.writeRec k w r).part = s.part := rfl
@[simp] theorem walk_writeRec (s : State) (k : SetIdx) (w : Way) (r : Record) : (s.writeRec k w r).walk = s.walk := rfl
@[simp] theorem cfg_writeRec (s : State) (k : SetIdx) (w : Way) (r : Record) : (s.writeRec k w r).cfg = s.cfg := rfl
@[simp] theorem tt_writeRec (s : State) (k : SetIdx) (w : Way) (r : Record) : (s.writeRec k w r).tt = s.tt := rfl
@[simp] theorem pool_writeRec (s : State) (k : SetIdx) (w : Way) (r : Record) : (s.writeRec k w r).pool = s.pool := rfl
@[simp] theorem pause_writeRec (s : State) (k : SetIdx) (w : Way) (r : Record) : (s.writeRec k w r).pause = s.pause := rfl
@[simp] theorem ports_writeRec (s : State) (k : SetIdx) (w : Way) (r : Record) : (s.writeRec k w r).ports = s.ports := rfl
@[simp] theorem intake_writeRec (s : State) (k : SetIdx) (w : Way) (r : Record) : (s.writeRec k w r).intake = s.intake := rfl
@[simp] theorem recallUnit_writeRec (s : State) (k : SetIdx) (w : Way) (r : Record) : (s.writeRec k w r).recallUnit = s.recallUnit := rfl
@[simp] theorem purge_writeRec (s : State) (k : SetIdx) (w : Way) (r : Record) : (s.writeRec k w r).purge = s.purge := rfl
@[simp] theorem leave_writeRec (s : State) (k : SetIdx) (w : Way) (r : Record) : (s.writeRec k w r).leave = s.leave := rfl
@[simp] theorem integ_writeRec (s : State) (k : SetIdx) (w : Way) (r : Record) : (s.writeRec k w r).integ = s.integ := rfl
@[simp] theorem err_writeRec (s : State) (k : SetIdx) (w : Way) (r : Record) : (s.writeRec k w r).err = s.err := rfl
@[simp] theorem svc_writeRec (s : State) (k : SetIdx) (w : Way) (r : Record) : (s.writeRec k w r).svc = s.svc := rfl
@[simp] theorem claims_writeRec (s : State) (k : SetIdx) (w : Way) (r : Record) : (s.writeRec k w r).claims = s.claims := rfl
@[simp] theorem outbox_writeRec (s : State) (k : SetIdx) (w : Way) (r : Record) : (s.writeRec k w r).outbox = s.outbox := rfl
@[simp] theorem reports_writeRec (s : State) (k : SetIdx) (w : Way) (r : Record) : (s.writeRec k w r).reports = s.reports := rfl
@[simp] theorem spi_writeRec (s : State) (k : SetIdx) (w : Way) (r : Record) : (s.writeRec k w r).spi = s.spi := rfl
@[simp] theorem pending_writeRec (s : State) (k : SetIdx) (w : Way) (r : Record) : (s.writeRec k w r).pending = s.pending := rfl

@[simp] theorem pwrok_updCfg (s : State) (f : Settings → Settings) : (s.updCfg f).pwrok = s.pwrok := rfl
@[simp] theorem resetN_updCfg (s : State) (f : Settings → Settings) : (s.updCfg f).resetN = s.resetN := rfl
@[simp] theorem part_updCfg (s : State) (f : Settings → Settings) : (s.updCfg f).part = s.part := rfl
@[simp] theorem walk_updCfg (s : State) (f : Settings → Settings) : (s.updCfg f).walk = s.walk := rfl
@[simp] theorem dir_updCfg (s : State) (f : Settings → Settings) : (s.updCfg f).dir = s.dir := rfl
@[simp] theorem tt_updCfg (s : State) (f : Settings → Settings) : (s.updCfg f).tt = s.tt := rfl
@[simp] theorem pool_updCfg (s : State) (f : Settings → Settings) : (s.updCfg f).pool = s.pool := rfl
@[simp] theorem pause_updCfg (s : State) (f : Settings → Settings) : (s.updCfg f).pause = s.pause := rfl
@[simp] theorem ports_updCfg (s : State) (f : Settings → Settings) : (s.updCfg f).ports = s.ports := rfl
@[simp] theorem intake_updCfg (s : State) (f : Settings → Settings) : (s.updCfg f).intake = s.intake := rfl
@[simp] theorem recallUnit_updCfg (s : State) (f : Settings → Settings) : (s.updCfg f).recallUnit = s.recallUnit := rfl
@[simp] theorem purge_updCfg (s : State) (f : Settings → Settings) : (s.updCfg f).purge = s.purge := rfl
@[simp] theorem leave_updCfg (s : State) (f : Settings → Settings) : (s.updCfg f).leave = s.leave := rfl
@[simp] theorem integ_updCfg (s : State) (f : Settings → Settings) : (s.updCfg f).integ = s.integ := rfl
@[simp] theorem err_updCfg (s : State) (f : Settings → Settings) : (s.updCfg f).err = s.err := rfl
@[simp] theorem svc_updCfg (s : State) (f : Settings → Settings) : (s.updCfg f).svc = s.svc := rfl
@[simp] theorem claims_updCfg (s : State) (f : Settings → Settings) : (s.updCfg f).claims = s.claims := rfl
@[simp] theorem outbox_updCfg (s : State) (f : Settings → Settings) : (s.updCfg f).outbox = s.outbox := rfl
@[simp] theorem reports_updCfg (s : State) (f : Settings → Settings) : (s.updCfg f).reports = s.reports := rfl
@[simp] theorem spi_updCfg (s : State) (f : Settings → Settings) : (s.updCfg f).spi = s.spi := rfl
@[simp] theorem pending_updCfg (s : State) (f : Settings → Settings) : (s.updCfg f).pending = s.pending := rfl

@[simp] theorem pwrok_updSvc (s : State) (f : ServicePort → ServicePort) : (s.updSvc f).pwrok = s.pwrok := rfl
@[simp] theorem resetN_updSvc (s : State) (f : ServicePort → ServicePort) : (s.updSvc f).resetN = s.resetN := rfl
@[simp] theorem part_updSvc (s : State) (f : ServicePort → ServicePort) : (s.updSvc f).part = s.part := rfl
@[simp] theorem walk_updSvc (s : State) (f : ServicePort → ServicePort) : (s.updSvc f).walk = s.walk := rfl
@[simp] theorem dir_updSvc (s : State) (f : ServicePort → ServicePort) : (s.updSvc f).dir = s.dir := rfl
@[simp] theorem cfg_updSvc (s : State) (f : ServicePort → ServicePort) : (s.updSvc f).cfg = s.cfg := rfl
@[simp] theorem tt_updSvc (s : State) (f : ServicePort → ServicePort) : (s.updSvc f).tt = s.tt := rfl
@[simp] theorem pool_updSvc (s : State) (f : ServicePort → ServicePort) : (s.updSvc f).pool = s.pool := rfl
@[simp] theorem pause_updSvc (s : State) (f : ServicePort → ServicePort) : (s.updSvc f).pause = s.pause := rfl
@[simp] theorem ports_updSvc (s : State) (f : ServicePort → ServicePort) : (s.updSvc f).ports = s.ports := rfl
@[simp] theorem intake_updSvc (s : State) (f : ServicePort → ServicePort) : (s.updSvc f).intake = s.intake := rfl
@[simp] theorem recallUnit_updSvc (s : State) (f : ServicePort → ServicePort) : (s.updSvc f).recallUnit = s.recallUnit := rfl
@[simp] theorem purge_updSvc (s : State) (f : ServicePort → ServicePort) : (s.updSvc f).purge = s.purge := rfl
@[simp] theorem leave_updSvc (s : State) (f : ServicePort → ServicePort) : (s.updSvc f).leave = s.leave := rfl
@[simp] theorem integ_updSvc (s : State) (f : ServicePort → ServicePort) : (s.updSvc f).integ = s.integ := rfl
@[simp] theorem err_updSvc (s : State) (f : ServicePort → ServicePort) : (s.updSvc f).err = s.err := rfl
@[simp] theorem claims_updSvc (s : State) (f : ServicePort → ServicePort) : (s.updSvc f).claims = s.claims := rfl
@[simp] theorem outbox_updSvc (s : State) (f : ServicePort → ServicePort) : (s.updSvc f).outbox = s.outbox := rfl
@[simp] theorem reports_updSvc (s : State) (f : ServicePort → ServicePort) : (s.updSvc f).reports = s.reports := rfl
@[simp] theorem spi_updSvc (s : State) (f : ServicePort → ServicePort) : (s.updSvc f).spi = s.spi := rfl
@[simp] theorem pending_updSvc (s : State) (f : ServicePort → ServicePort) : (s.updSvc f).pending = s.pending := rfl

@[simp] theorem pwrok_dropItem (s : State) (x : StartItem) : (s.dropItem x).pwrok = s.pwrok := rfl
@[simp] theorem resetN_dropItem (s : State) (x : StartItem) : (s.dropItem x).resetN = s.resetN := rfl
@[simp] theorem part_dropItem (s : State) (x : StartItem) : (s.dropItem x).part = s.part := rfl
@[simp] theorem walk_dropItem (s : State) (x : StartItem) : (s.dropItem x).walk = s.walk := rfl
@[simp] theorem dir_dropItem (s : State) (x : StartItem) : (s.dropItem x).dir = s.dir := rfl
@[simp] theorem cfg_dropItem (s : State) (x : StartItem) : (s.dropItem x).cfg = s.cfg := rfl
@[simp] theorem tt_dropItem (s : State) (x : StartItem) : (s.dropItem x).tt = s.tt := rfl
@[simp] theorem pool_dropItem (s : State) (x : StartItem) : (s.dropItem x).pool = s.pool := rfl
@[simp] theorem pause_dropItem (s : State) (x : StartItem) : (s.dropItem x).pause = s.pause := rfl
@[simp] theorem ports_dropItem (s : State) (x : StartItem) : (s.dropItem x).ports = s.ports := rfl
@[simp] theorem intake_dropItem (s : State) (x : StartItem) : (s.dropItem x).intake = s.intake := rfl
@[simp] theorem purge_dropItem (s : State) (x : StartItem) : (s.dropItem x).purge = s.purge := rfl
@[simp] theorem leave_dropItem (s : State) (x : StartItem) : (s.dropItem x).leave = s.leave := rfl
@[simp] theorem integ_dropItem (s : State) (x : StartItem) : (s.dropItem x).integ = s.integ := rfl
@[simp] theorem err_dropItem (s : State) (x : StartItem) : (s.dropItem x).err = s.err := rfl
@[simp] theorem svc_dropItem (s : State) (x : StartItem) : (s.dropItem x).svc = s.svc := rfl
@[simp] theorem claims_dropItem (s : State) (x : StartItem) : (s.dropItem x).claims = s.claims := rfl
@[simp] theorem outbox_dropItem (s : State) (x : StartItem) : (s.dropItem x).outbox = s.outbox := rfl
@[simp] theorem reports_dropItem (s : State) (x : StartItem) : (s.dropItem x).reports = s.reports := rfl
@[simp] theorem spi_dropItem (s : State) (x : StartItem) : (s.dropItem x).spi = s.spi := rfl
@[simp] theorem pending_dropItem (s : State) (x : StartItem) : (s.dropItem x).pending = s.pending := rfl

@[simp] theorem pwrok_dropAccess (s : State) (e : EntryIdx) : (s.dropAccess e).pwrok = s.pwrok := rfl
@[simp] theorem resetN_dropAccess (s : State) (e : EntryIdx) : (s.dropAccess e).resetN = s.resetN := rfl
@[simp] theorem part_dropAccess (s : State) (e : EntryIdx) : (s.dropAccess e).part = s.part := rfl
@[simp] theorem walk_dropAccess (s : State) (e : EntryIdx) : (s.dropAccess e).walk = s.walk := rfl
@[simp] theorem dir_dropAccess (s : State) (e : EntryIdx) : (s.dropAccess e).dir = s.dir := rfl
@[simp] theorem cfg_dropAccess (s : State) (e : EntryIdx) : (s.dropAccess e).cfg = s.cfg := rfl
@[simp] theorem tt_dropAccess (s : State) (e : EntryIdx) : (s.dropAccess e).tt = s.tt := rfl
@[simp] theorem pool_dropAccess (s : State) (e : EntryIdx) : (s.dropAccess e).pool = s.pool := rfl
@[simp] theorem pause_dropAccess (s : State) (e : EntryIdx) : (s.dropAccess e).pause = s.pause := rfl
@[simp] theorem ports_dropAccess (s : State) (e : EntryIdx) : (s.dropAccess e).ports = s.ports := rfl
@[simp] theorem intake_dropAccess (s : State) (e : EntryIdx) : (s.dropAccess e).intake = s.intake := rfl
@[simp] theorem purge_dropAccess (s : State) (e : EntryIdx) : (s.dropAccess e).purge = s.purge := rfl
@[simp] theorem leave_dropAccess (s : State) (e : EntryIdx) : (s.dropAccess e).leave = s.leave := rfl
@[simp] theorem integ_dropAccess (s : State) (e : EntryIdx) : (s.dropAccess e).integ = s.integ := rfl
@[simp] theorem err_dropAccess (s : State) (e : EntryIdx) : (s.dropAccess e).err = s.err := rfl
@[simp] theorem svc_dropAccess (s : State) (e : EntryIdx) : (s.dropAccess e).svc = s.svc := rfl
@[simp] theorem claims_dropAccess (s : State) (e : EntryIdx) : (s.dropAccess e).claims = s.claims := rfl
@[simp] theorem outbox_dropAccess (s : State) (e : EntryIdx) : (s.dropAccess e).outbox = s.outbox := rfl
@[simp] theorem reports_dropAccess (s : State) (e : EntryIdx) : (s.dropAccess e).reports = s.reports := rfl
@[simp] theorem spi_dropAccess (s : State) (e : EntryIdx) : (s.dropAccess e).spi = s.spi := rfl
@[simp] theorem pending_dropAccess (s : State) (e : EntryIdx) : (s.dropAccess e).pending = s.pending := rfl

@[simp] theorem pwrok_evalOutputs (s : State) : (s.evalOutputs).pwrok = s.pwrok := rfl
@[simp] theorem resetN_evalOutputs (s : State) : (s.evalOutputs).resetN = s.resetN := rfl
@[simp] theorem part_evalOutputs (s : State) : (s.evalOutputs).part = s.part := rfl
@[simp] theorem walk_evalOutputs (s : State) : (s.evalOutputs).walk = s.walk := rfl
@[simp] theorem dir_evalOutputs (s : State) : (s.evalOutputs).dir = s.dir := rfl
@[simp] theorem cfg_evalOutputs (s : State) : (s.evalOutputs).cfg = s.cfg := rfl
@[simp] theorem tt_evalOutputs (s : State) : (s.evalOutputs).tt = s.tt := rfl
@[simp] theorem pool_evalOutputs (s : State) : (s.evalOutputs).pool = s.pool := rfl
@[simp] theorem pause_evalOutputs (s : State) : (s.evalOutputs).pause = s.pause := rfl
@[simp] theorem ports_evalOutputs (s : State) : (s.evalOutputs).ports = s.ports := rfl
@[simp] theorem intake_evalOutputs (s : State) : (s.evalOutputs).intake = s.intake := rfl
@[simp] theorem recallUnit_evalOutputs (s : State) : (s.evalOutputs).recallUnit = s.recallUnit := rfl
@[simp] theorem purge_evalOutputs (s : State) : (s.evalOutputs).purge = s.purge := rfl
@[simp] theorem leave_evalOutputs (s : State) : (s.evalOutputs).leave = s.leave := rfl
@[simp] theorem integ_evalOutputs (s : State) : (s.evalOutputs).integ = s.integ := rfl
@[simp] theorem svc_evalOutputs (s : State) : (s.evalOutputs).svc = s.svc := rfl
@[simp] theorem claims_evalOutputs (s : State) : (s.evalOutputs).claims = s.claims := rfl
@[simp] theorem outbox_evalOutputs (s : State) : (s.evalOutputs).outbox = s.outbox := rfl
@[simp] theorem reports_evalOutputs (s : State) : (s.evalOutputs).reports = s.reports := rfl
@[simp] theorem spi_evalOutputs (s : State) : (s.evalOutputs).spi = s.spi := rfl
@[simp] theorem pending_evalOutputs (s : State) : (s.evalOutputs).pending = s.pending := rfl

@[simp] theorem pwrok_setFrame (s : State) (x : Option Frame) : (s.setFrame x).pwrok = s.pwrok := rfl
@[simp] theorem resetN_setFrame (s : State) (x : Option Frame) : (s.setFrame x).resetN = s.resetN := rfl
@[simp] theorem part_setFrame (s : State) (x : Option Frame) : (s.setFrame x).part = s.part := rfl
@[simp] theorem walk_setFrame (s : State) (x : Option Frame) : (s.setFrame x).walk = s.walk := rfl
@[simp] theorem dir_setFrame (s : State) (x : Option Frame) : (s.setFrame x).dir = s.dir := rfl
@[simp] theorem cfg_setFrame (s : State) (x : Option Frame) : (s.setFrame x).cfg = s.cfg := rfl
@[simp] theorem tt_setFrame (s : State) (x : Option Frame) : (s.setFrame x).tt = s.tt := rfl
@[simp] theorem pool_setFrame (s : State) (x : Option Frame) : (s.setFrame x).pool = s.pool := rfl
@[simp] theorem pause_setFrame (s : State) (x : Option Frame) : (s.setFrame x).pause = s.pause := rfl
@[simp] theorem ports_setFrame (s : State) (x : Option Frame) : (s.setFrame x).ports = s.ports := rfl
@[simp] theorem intake_setFrame (s : State) (x : Option Frame) : (s.setFrame x).intake = s.intake := rfl
@[simp] theorem recallUnit_setFrame (s : State) (x : Option Frame) : (s.setFrame x).recallUnit = s.recallUnit := rfl
@[simp] theorem purge_setFrame (s : State) (x : Option Frame) : (s.setFrame x).purge = s.purge := rfl
@[simp] theorem leave_setFrame (s : State) (x : Option Frame) : (s.setFrame x).leave = s.leave := rfl
@[simp] theorem integ_setFrame (s : State) (x : Option Frame) : (s.setFrame x).integ = s.integ := rfl
@[simp] theorem err_setFrame (s : State) (x : Option Frame) : (s.setFrame x).err = s.err := rfl
@[simp] theorem svc_setFrame (s : State) (x : Option Frame) : (s.setFrame x).svc = s.svc := rfl
@[simp] theorem claims_setFrame (s : State) (x : Option Frame) : (s.setFrame x).claims = s.claims := rfl
@[simp] theorem outbox_setFrame (s : State) (x : Option Frame) : (s.setFrame x).outbox = s.outbox := rfl
@[simp] theorem reports_setFrame (s : State) (x : Option Frame) : (s.setFrame x).reports = s.reports := rfl
@[simp] theorem pending_setFrame (s : State) (x : Option Frame) : (s.setFrame x).pending = s.pending := rfl
@[simp] theorem frame_setFrame (s : State) (x : Option Frame) : (s.setFrame x).spi.frame = x := rfl
@[simp] theorem pins_setFrame (s : State) (x : Option Frame) : (s.setFrame x).spi.pins = s.spi.pins := rfl

@[simp] theorem outbox_clearOutputs (s : State) : s.clearOutputs.outbox = [] := rfl
@[simp] theorem reports_clearOutputs (s : State) : s.clearOutputs.reports = [] := rfl
@[simp] theorem spi_clearOutputs (s : State) : s.clearOutputs.spi = s.spi := rfl
@[simp] theorem reports_report (s : State) (r : Report) : (s.report r).reports = s.reports ++ [r] := rfl
@[simp] theorem cfg_updCfg (s : State) (f : Settings → Settings) : (s.updCfg f).cfg = f s.cfg := rfl
@[simp] theorem svc_updSvc (s : State) (f : ServicePort → ServicePort) : (s.updSvc f).svc = f s.svc := rfl
@[simp] theorem dir_putSet (s : State) (k : SetIdx) (d : DirSet) : (s.putSet k d).dir = s.dir.store k.toNat d := rfl

end Sys2Proof.Machine.State
end

