-- ==== Sys2Proof/Laws/Directory.lean ====
section
/-! SUPPORT. What storing a set does to the directory, and reading an entry, a port or a waiter after a write. -/

namespace Sys2Proof.Machine

/-! ### The directory -/

theorem Directory.find_store_ne (d : Directory) {j k : Nat} (x : DirSet) (h : j ≠ k) :
    (d.store k x).find j = d.find j := by
  induction d with
  | nil => unfold Directory.store; split <;> simp [Directory.find, h.symm]
  | cons a rest ih =>
    obtain ⟨i, y⟩ := a
    unfold Directory.store
    split
    · split <;> simp [Directory.find, h.symm]
    · split
      · rename_i hk; subst hk
        split <;> simp [Directory.find, h.symm]
      · simp [Directory.find, ih]

theorem Directory.find_above (d : Directory) {lo k : Nat} (h : Directory.wfFrom lo d = true) (hk : k < lo) :
    d.find k = DirSet.empty := by
  induction d generalizing lo with
  | nil => rfl
  | cons a rest ih =>
    obtain ⟨i, y⟩ := a
    simp only [Directory.wfFrom, Bool.and_eq_true, decide_eq_true_eq] at h
    have hne : i ≠ k := by omega
    simp only [Directory.find, hne, if_false]
    exact ih h.2 (by omega)

theorem Directory.find_store_from (d : Directory) {lo k : Nat} (x : DirSet) (h : Directory.wfFrom lo d = true) :
    (d.store k x).find k = x := by
  induction d generalizing lo with
  | nil =>
    unfold Directory.store
    split
    · rename_i hx; simp [Directory.find, hx]
    · simp [Directory.find]
  | cons a rest ih =>
    obtain ⟨i, y⟩ := a
    have h' := h
    simp only [Directory.wfFrom, Bool.and_eq_true, decide_eq_true_eq] at h
    unfold Directory.store
    split
    · rename_i hk
      split
      · rename_i hx
        subst hx
        have hne : i ≠ k := by omega
        simp only [Directory.find, hne, if_false]
        exact Directory.find_above rest h.2 (by omega)
      · simp [Directory.find]
    · split
      · rename_i hk; subst hk
        split
        · rename_i hx; subst hx; exact Directory.find_above rest h.2 (by omega)
        · simp [Directory.find]
      · rename_i h1 h2
        have hne : i ≠ k := fun hh => h2 hh.symm
        simp only [Directory.find, hne, if_false]
        exact ih h.2

theorem Directory.find_store_same (d : Directory) (k : Nat) (x : DirSet) (h : d.wf = true) :
    (d.store k x).find k = x := d.find_store_from x h

theorem Directory.store_wfFrom (d : Directory) {lo k : Nat} (x : DirSet) (h : Directory.wfFrom lo d = true)
    (hlo : lo ≤ k) (hk : k < Config.sets) : Directory.wfFrom lo (d.store k x) = true := by
  induction d generalizing lo with
  | nil =>
    unfold Directory.store
    split
    · rfl
    · simp [Directory.wfFrom, *]
  | cons a rest ih =>
    obtain ⟨i, y⟩ := a
    have h' := h
    simp only [Directory.wfFrom, Bool.and_eq_true, decide_eq_true_eq] at h
    unfold Directory.store
    split
    · split
      · exact h'
      · simp only [Directory.wfFrom, Bool.and_eq_true, decide_eq_true_eq]
        refine ⟨⟨⟨hlo, hk⟩, by assumption⟩, ⟨⟨by omega, h.1.1.2⟩, h.1.2⟩, h.2⟩
    · split
      · rename_i hk; subst hk
        split
        · revert h
          intro h
          have := h.2
          clear ih h' hlo
          cases rest with
          | nil => rfl
          | cons b r =>
            obtain ⟨i', y'⟩ := b
            simp only [Directory.wfFrom, Bool.and_eq_true, decide_eq_true_eq] at this ⊢
            refine ⟨⟨⟨by omega, this.1.1.2⟩, this.1.2⟩, this.2⟩
        · simp only [Directory.wfFrom, Bool.and_eq_true, decide_eq_true_eq]
          exact ⟨⟨⟨hlo, hk⟩, by assumption⟩, h.2⟩
      · simp only [Directory.wfFrom, Bool.and_eq_true, decide_eq_true_eq]
        exact ⟨⟨⟨h.1.1.1, h.1.1.2⟩, h.1.2⟩, ih h.2 (by omega)⟩

/-- A write keeps the canonical form. -/
theorem Directory.wf_store (d : Directory) {k : Nat} (x : DirSet) (h : d.wf = true) (hk : k < Config.sets) :
    (d.store k x).wf = true := d.store_wfFrom x h (Nat.zero_le k) hk

theorem Directory.wfFrom_weaken (d : Directory) {lo hi : Nat} (h : Directory.wfFrom hi d = true) (hle : lo ≤ hi) :
    Directory.wfFrom lo d = true := by
  cases d with
  | nil => rfl
  | cons a rest =>
    obtain ⟨i, y⟩ := a
    simp only [Directory.wfFrom, Bool.and_eq_true, decide_eq_true_eq] at h ⊢
    exact ⟨⟨⟨by omega, h.1.1.2⟩, h.1.2⟩, h.2⟩

theorem Directory.wfFrom_mapSets (f : DirSet → DirSet) (d : Directory) {lo : Nat}
    (h : Directory.wfFrom lo d = true) : Directory.wfFrom lo (d.mapSets f) = true := by
  induction d generalizing lo with
  | nil => rfl
  | cons a rest ih =>
    obtain ⟨i, y⟩ := a
    simp only [Directory.wfFrom, Bool.and_eq_true, decide_eq_true_eq] at h
    simp only [Directory.mapSets]
    split
    · exact Directory.wfFrom_weaken _ (ih h.2) (by omega)
    · simp only [Directory.wfFrom, Bool.and_eq_true, decide_eq_true_eq]
      exact ⟨⟨⟨h.1.1.1, h.1.1.2⟩, by assumption⟩, ih h.2⟩

/-- A change of every set keeps the canonical form. -/
theorem Directory.wf_mapSets (f : DirSet → DirSet) (d : Directory) (h : d.wf = true) : (d.mapSets f).wf = true :=
  Directory.wfFrom_mapSets f d h

theorem Directory.find_mapSets_from (f : DirSet → DirSet) (hf : f DirSet.empty = DirSet.empty) (d : Directory)
    {lo : Nat} (h : Directory.wfFrom lo d = true) (k : Nat) : (d.mapSets f).find k = f (d.find k) := by
  induction d generalizing lo with
  | nil => exact hf.symm
  | cons a rest ih =>
    obtain ⟨i, y⟩ := a
    simp only [Directory.wfFrom, Bool.and_eq_true, decide_eq_true_eq] at h
    simp only [Directory.mapSets]
    by_cases hk : i = k
    · subst hk
      split
      · rename_i hy
        rw [Directory.find_above _ (Directory.wfFrom_mapSets f rest h.2) (by omega)]
        simp [Directory.find, hy]
      · simp [Directory.find]
    · split
      · simp only [Directory.find, hk, if_false]; exact ih h.2
      · simp only [Directory.find, hk, if_false]; exact ih h.2

/-- Every set of a mapped directory, for a change that leaves a cleared set cleared. -/
theorem Directory.find_mapSets (f : DirSet → DirSet) (hf : f DirSet.empty = DirSet.empty) (d : Directory)
    (h : d.wf = true) (k : Nat) : (d.mapSets f).find k = f (d.find k) := d.find_mapSets_from f hf h k

/-! ### Vectors -/

theorem Vector.get_set_self {α : Type} {n : Nat} (v : Vector α n) (i : Fin n) (x : α) : (v.set i.val x).get i = x := by
  simp [Vector.get_eq_getElem]

theorem Vector.get_set_other {α : Type} {n : Nat} (v : Vector α n) {i j : Fin n} (x : α) (h : j ≠ i) :
    (v.set i.val x).get j = v.get j := by
  have : i.val ≠ j.val := fun hh => h (Fin.ext hh.symm)
  simp [Vector.get_eq_getElem, this]

theorem get_mapVec {α : Type} {n : Nat} (f : α → α) (v : Vector α n) (i : Fin n) :
    (mapVec f v).get i = f (v.get i) := by
  simp [mapVec, Vector.get_eq_getElem]

theorem get_replicate {α : Type} {n : Nat} (x : α) (i : Fin n) : (Vector.replicate n x).get i = x := by
  simp [Vector.get_eq_getElem]

/-! ### Entries, ports, waiters, sets -/

@[simp] theorem State.entry_setEntry_same (s : State) (e : EntryIdx) (x : Entry) : (s.setEntry e x).entry e = x :=
  Vector.get_set_self _ _ _

theorem State.entry_setEntry_ne (s : State) {e e' : EntryIdx} (x : Entry) (h : e' ≠ e) :
    (s.setEntry e x).entry e' = s.entry e' := Vector.get_set_other _ _ h

@[simp] theorem State.entry_updEntry_same (s : State) (e : EntryIdx) (f : Entry → Entry) :
    (s.updEntry e f).entry e = f (s.entry e) := s.entry_setEntry_same e _

theorem State.entry_updEntry_ne (s : State) {e e' : EntryIdx} (f : Entry → Entry) (h : e' ≠ e) :
    (s.updEntry e f).entry e' = s.entry e' := s.entry_setEntry_ne _ h

/-- Writing an entry changes an entry's projection only where it changes that entry's. -/
theorem State.entry_updEntry (s : State) (e e' : EntryIdx) (f : Entry → Entry) :
    (s.updEntry e f).entry e' = if e' = e then f (s.entry e) else s.entry e' := by
  by_cases h : e' = e
  · subst h; simp
  · simp [State.entry_updEntry_ne, h]

@[simp] theorem State.waiter_setWaiter_same (s : State) (i : PoolIdx) (w : Option Waiter) :
    (s.setWaiter i w).waiter i = w := Vector.get_set_self _ _ _

theorem State.waiter_setWaiter_ne (s : State) {i j : PoolIdx} (w : Option Waiter) (h : j ≠ i) :
    (s.setWaiter i w).waiter j = s.waiter j := Vector.get_set_other _ _ h

@[simp] theorem State.port_setPort_same (s : State) (p : Agent) (x : Port) : (s.setPort p x).port p = x :=
  Vector.get_set_self _ _ _

theorem State.port_setPort_ne (s : State) {p q : Agent} (x : Port) (h : q ≠ p) :
    (s.setPort p x).port q = s.port q := Vector.get_set_other _ _ h

@[simp] theorem State.port_updPort_same (s : State) (p : Agent) (f : Port → Port) :
    (s.updPort p f).port p = f (s.port p) := s.port_setPort_same p _

theorem State.port_updPort_ne (s : State) {p q : Agent} (f : Port → Port) (h : q ≠ p) :
    (s.updPort p f).port q = s.port q := s.port_setPort_ne _ h

/-- Port `q` after a change of port `p`. -/
theorem State.port_updPort (s : State) (p q : Agent) (f : Port → Port) :
    (s.updPort p f).port q = if q = p then f (s.port p) else s.port q := by
  by_cases h : q = p
  · subst h; simp
  · simp [State.port_updPort_ne, h]

theorem State.dirSet_putSet_same (s : State) (k : SetIdx) (d : DirSet) (h : s.dir.wf = true) :
    (s.putSet k d).dirSet k = d := Directory.find_store_same _ _ _ h

theorem State.dirSet_putSet_ne (s : State) {j k : SetIdx} (d : DirSet) (h : j ≠ k) :
    (s.putSet k d).dirSet j = s.dirSet j :=
  Directory.find_store_ne _ _ fun hh => h (BitVec.eq_of_toNat_eq hh)

theorem State.dirSet_updSet_same (s : State) (k : SetIdx) (f : DirSet → DirSet) (h : s.dir.wf = true) :
    (s.updSet k f).dirSet k = f (s.dirSet k) := s.dirSet_putSet_same k _ h

theorem State.dirSet_updSet_ne (s : State) {j k : SetIdx} (f : DirSet → DirSet) (h : j ≠ k) :
    (s.updSet k f).dirSet j = s.dirSet j := s.dirSet_putSet_ne _ h

theorem State.wf_updSet (s : State) (k : SetIdx) (f : DirSet → DirSet) (h : s.dir.wf = true) :
    (s.updSet k f).dir.wf = true := Directory.wf_store _ _ h k.isLt

/-! ### What an update leaves of the entries, ports, waiters and sets -/

@[simp] theorem State.entry_updSet (s : State) (k : SetIdx) (f : DirSet → DirSet) (i : EntryIdx) : (s.updSet k f).entry i = s.entry i := rfl
@[simp] theorem State.entry_report (s : State) (r : Report) (i : EntryIdx) : (s.report r).entry i = s.entry i := rfl
@[simp] theorem State.entry_updSvc (s : State) (f : ServicePort → ServicePort) (i : EntryIdx) : (s.updSvc f).entry i = s.entry i := rfl
@[simp] theorem State.entry_updPort (s : State) (p : Agent) (f : Port → Port) (i : EntryIdx) : (s.updPort p f).entry i = s.entry i := rfl
@[simp] theorem State.entry_setWaiter (s : State) (j : PoolIdx) (w : Option Waiter) (i : EntryIdx) : (s.setWaiter j w).entry i = s.entry i := rfl
@[simp] theorem State.entry_clearOutputs (s : State) (i : EntryIdx) : (s.clearOutputs).entry i = s.entry i := rfl
@[simp] theorem State.entry_dropItem (s : State) (x : StartItem) (i : EntryIdx) : (s.dropItem x).entry i = s.entry i := rfl
@[simp] theorem State.entry_dropAccess (s : State) (e : EntryIdx) (i : EntryIdx) : (s.dropAccess e).entry i = s.entry i := rfl
@[simp] theorem State.entry_evalOutputs (s : State) (i : EntryIdx) : (s.evalOutputs).entry i = s.entry i := rfl
@[simp] theorem State.entry_writeRec (s : State) (k : SetIdx) (w : Way) (r : Record) (i : EntryIdx) : (s.writeRec k w r).entry i = s.entry i := rfl
@[simp] theorem State.entry_setSlot (s : State) (k : SetIdx) (w : Way) (x : Slot) (i : EntryIdx) : (s.setSlot k w x).entry i = s.entry i := rfl
@[simp] theorem State.entry_updCfg (s : State) (f : Settings → Settings) (i : EntryIdx) : (s.updCfg f).entry i = s.entry i := rfl

@[simp] theorem State.port_updSet (s : State) (k : SetIdx) (f : DirSet → DirSet) (i : Agent) : (s.updSet k f).port i = s.port i := rfl
@[simp] theorem State.port_report (s : State) (r : Report) (i : Agent) : (s.report r).port i = s.port i := rfl
@[simp] theorem State.port_updSvc (s : State) (f : ServicePort → ServicePort) (i : Agent) : (s.updSvc f).port i = s.port i := rfl
@[simp] theorem State.port_updEntry (s : State) (e : EntryIdx) (f : Entry → Entry) (i : Agent) : (s.updEntry e f).port i = s.port i := rfl
@[simp] theorem State.port_setWaiter (s : State) (j : PoolIdx) (w : Option Waiter) (i : Agent) : (s.setWaiter j w).port i = s.port i := rfl
@[simp] theorem State.port_clearOutputs (s : State) (i : Agent) : (s.clearOutputs).port i = s.port i := rfl
@[simp] theorem State.port_dropItem (s : State) (x : StartItem) (i : Agent) : (s.dropItem x).port i = s.port i := rfl
@[simp] theorem State.port_dropAccess (s : State) (e : EntryIdx) (i : Agent) : (s.dropAccess e).port i = s.port i := rfl
@[simp] theorem State.port_evalOutputs (s : State) (i : Agent) : (s.evalOutputs).port i = s.port i := rfl
@[simp] theorem State.port_writeRec (s : State) (k : SetIdx) (w : Way) (r : Record) (i : Agent) : (s.writeRec k w r).port i = s.port i := rfl
@[simp] theorem State.port_setSlot (s : State) (k : SetIdx) (w : Way) (x : Slot) (i : Agent) : (s.setSlot k w x).port i = s.port i := rfl
@[simp] theorem State.port_setEntry (s : State) (e : EntryIdx) (x : Entry) (i : Agent) : (s.setEntry e x).port i = s.port i := rfl
@[simp] theorem State.port_updCfg (s : State) (f : Settings → Settings) (i : Agent) : (s.updCfg f).port i = s.port i := rfl

@[simp] theorem State.waiter_updSet (s : State) (k : SetIdx) (f : DirSet → DirSet) (i : PoolIdx) : (s.updSet k f).waiter i = s.waiter i := rfl
@[simp] theorem State.waiter_report (s : State) (r : Report) (i : PoolIdx) : (s.report r).waiter i = s.waiter i := rfl
@[simp] theorem State.waiter_updSvc (s : State) (f : ServicePort → ServicePort) (i : PoolIdx) : (s.updSvc f).waiter i = s.waiter i := rfl
@[simp] theorem State.waiter_updPort (s : State) (p : Agent) (f : Port → Port) (i : PoolIdx) : (s.updPort p f).waiter i = s.waiter i := rfl
@[simp] theorem State.waiter_updEntry (s : State) (e : EntryIdx) (f : Entry → Entry) (i : PoolIdx) : (s.updEntry e f).waiter i = s.waiter i := rfl
@[simp] theorem State.waiter_clearOutputs (s : State) (i : PoolIdx) : (s.clearOutputs).waiter i = s.waiter i := rfl
@[simp] theorem State.waiter_dropItem (s : State) (x : StartItem) (i : PoolIdx) : (s.dropItem x).waiter i = s.waiter i := rfl
@[simp] theorem State.waiter_dropAccess (s : State) (e : EntryIdx) (i : PoolIdx) : (s.dropAccess e).waiter i = s.waiter i := rfl
@[simp] theorem State.waiter_evalOutputs (s : State) (i : PoolIdx) : (s.evalOutputs).waiter i = s.waiter i := rfl
@[simp] theorem State.waiter_writeRec (s : State) (k : SetIdx) (w : Way) (r : Record) (i : PoolIdx) : (s.writeRec k w r).waiter i = s.waiter i := rfl
@[simp] theorem State.waiter_setSlot (s : State) (k : SetIdx) (w : Way) (x : Slot) (i : PoolIdx) : (s.setSlot k w x).waiter i = s.waiter i := rfl
@[simp] theorem State.waiter_setEntry (s : State) (e : EntryIdx) (x : Entry) (i : PoolIdx) : (s.setEntry e x).waiter i = s.waiter i := rfl
@[simp] theorem State.waiter_updCfg (s : State) (f : Settings → Settings) (i : PoolIdx) : (s.updCfg f).waiter i = s.waiter i := rfl

@[simp] theorem State.dirSet_report (s : State) (r : Report) (i : SetIdx) : (s.report r).dirSet i = s.dirSet i := rfl
@[simp] theorem State.dirSet_updSvc (s : State) (f : ServicePort → ServicePort) (i : SetIdx) : (s.updSvc f).dirSet i = s.dirSet i := rfl
@[simp] theorem State.dirSet_updPort (s : State) (p : Agent) (f : Port → Port) (i : SetIdx) : (s.updPort p f).dirSet i = s.dirSet i := rfl
@[simp] theorem State.dirSet_updEntry (s : State) (e : EntryIdx) (f : Entry → Entry) (i : SetIdx) : (s.updEntry e f).dirSet i = s.dirSet i := rfl
@[simp] theorem State.dirSet_setWaiter (s : State) (j : PoolIdx) (w : Option Waiter) (i : SetIdx) : (s.setWaiter j w).dirSet i = s.dirSet i := rfl
@[simp] theorem State.dirSet_clearOutputs (s : State) (i : SetIdx) : (s.clearOutputs).dirSet i = s.dirSet i := rfl
@[simp] theorem State.dirSet_dropItem (s : State) (x : StartItem) (i : SetIdx) : (s.dropItem x).dirSet i = s.dirSet i := rfl
@[simp] theorem State.dirSet_dropAccess (s : State) (e : EntryIdx) (i : SetIdx) : (s.dropAccess e).dirSet i = s.dirSet i := rfl
@[simp] theorem State.dirSet_evalOutputs (s : State) (i : SetIdx) : (s.evalOutputs).dirSet i = s.dirSet i := rfl
@[simp] theorem State.dirSet_setEntry (s : State) (e : EntryIdx) (x : Entry) (i : SetIdx) : (s.setEntry e x).dirSet i = s.dirSet i := rfl
@[simp] theorem State.dirSet_updCfg (s : State) (f : Settings → Settings) (i : SetIdx) : (s.updCfg f).dirSet i = s.dirSet i := rfl

@[simp] theorem State.port_updLeave (s : State) (f : LeaveWalker → LeaveWalker) (i : Agent) :
    (s.updLeave f).port i = s.port i := rfl
@[simp] theorem State.entry_updLeave (s : State) (f : LeaveWalker → LeaveWalker) (i : EntryIdx) :
    (s.updLeave f).entry i = s.entry i := rfl
@[simp] theorem State.leave_updLeave (s : State) (f : LeaveWalker → LeaveWalker) : (s.updLeave f).leave = f s.leave := rfl

/-! ### Messages -/

@[simp] theorem State.pwrok_send (s : State) (p : Agent) (m : OutMsg) : (s.send p m).pwrok = s.pwrok := by
  unfold State.send; split <;> rfl
@[simp] theorem State.resetN_send (s : State) (p : Agent) (m : OutMsg) : (s.send p m).resetN = s.resetN := by
  unfold State.send; split <;> rfl
@[simp] theorem State.part_send (s : State) (p : Agent) (m : OutMsg) : (s.send p m).part = s.part := by
  unfold State.send; split <;> rfl
@[simp] theorem State.walk_send (s : State) (p : Agent) (m : OutMsg) : (s.send p m).walk = s.walk := by
  unfold State.send; split <;> rfl
@[simp] theorem State.dir_send (s : State) (p : Agent) (m : OutMsg) : (s.send p m).dir = s.dir := by
  unfold State.send; split <;> rfl
@[simp] theorem State.cfg_send (s : State) (p : Agent) (m : OutMsg) : (s.send p m).cfg = s.cfg := by
  unfold State.send; split <;> rfl
@[simp] theorem State.tt_send (s : State) (p : Agent) (m : OutMsg) : (s.send p m).tt = s.tt := by
  unfold State.send; split <;> rfl
@[simp] theorem State.pool_send (s : State) (p : Agent) (m : OutMsg) : (s.send p m).pool = s.pool := by
  unfold State.send; split <;> rfl
@[simp] theorem State.pause_send (s : State) (p : Agent) (m : OutMsg) : (s.send p m).pause = s.pause := by
  unfold State.send; split <;> rfl
@[simp] theorem State.ports_send (s : State) (p : Agent) (m : OutMsg) : (s.send p m).ports = s.ports := by
  unfold State.send; split <;> rfl
@[simp] theorem State.intake_send (s : State) (p : Agent) (m : OutMsg) : (s.send p m).intake = s.intake := by
  unfold State.send; split <;> rfl
@[simp] theorem State.recallUnit_send (s : State) (p : Agent) (m : OutMsg) : (s.send p m).recallUnit = s.recallUnit := by
  unfold State.send; split <;> rfl
@[simp] theorem State.purge_send (s : State) (p : Agent) (m : OutMsg) : (s.send p m).purge = s.purge := by
  unfold State.send; split <;> rfl
@[simp] theorem State.leave_send (s : State) (p : Agent) (m : OutMsg) : (s.send p m).leave = s.leave := by
  unfold State.send; split <;> rfl
@[simp] theorem State.integ_send (s : State) (p : Agent) (m : OutMsg) : (s.send p m).integ = s.integ := by
  unfold State.send; split <;> rfl
@[simp] theorem State.err_send (s : State) (p : Agent) (m : OutMsg) : (s.send p m).err = s.err := by
  unfold State.send; split <;> rfl
@[simp] theorem State.svc_send (s : State) (p : Agent) (m : OutMsg) : (s.send p m).svc = s.svc := by
  unfold State.send; split <;> rfl
@[simp] theorem State.claims_send (s : State) (p : Agent) (m : OutMsg) : (s.send p m).claims = s.claims := by
  unfold State.send; split <;> rfl
@[simp] theorem State.reports_send (s : State) (p : Agent) (m : OutMsg) : (s.send p m).reports = s.reports := by
  unfold State.send; split <;> rfl
@[simp] theorem State.spi_send (s : State) (p : Agent) (m : OutMsg) : (s.send p m).spi = s.spi := by
  unfold State.send; split <;> rfl
@[simp] theorem State.pending_send (s : State) (p : Agent) (m : OutMsg) : (s.send p m).pending = s.pending := by
  unfold State.send; split <;> rfl
@[simp] theorem State.entry_send (s : State) (p : Agent) (m : OutMsg) (i : EntryIdx) : (s.send p m).entry i = s.entry i := by
  unfold State.send; split <;> rfl
@[simp] theorem State.port_send (s : State) (p : Agent) (m : OutMsg) (i : Agent) : (s.send p m).port i = s.port i := by
  unfold State.send; split <;> rfl
@[simp] theorem State.waiter_send (s : State) (p : Agent) (m : OutMsg) (i : PoolIdx) : (s.send p m).waiter i = s.waiter i := by
  unfold State.send; split <;> rfl
@[simp] theorem State.dirSet_send (s : State) (p : Agent) (m : OutMsg) (i : SetIdx) : (s.send p m).dirSet i = s.dirSet i := by
  unfold State.send; split <;> rfl
@[simp] theorem State.member_send (s : State) (p : Agent) (m : OutMsg) (i : Agent) : (s.send p m).member i = s.member i := by
  unfold State.send; split <;> rfl

@[simp] theorem State.pwrok_reply (s : State) (p : Agent) (tag : ReqTag) (m : OutMsg) :
    (s.reply p tag m).pwrok = s.pwrok := State.pwrok_send s p m
@[simp] theorem State.resetN_reply (s : State) (p : Agent) (tag : ReqTag) (m : OutMsg) :
    (s.reply p tag m).resetN = s.resetN := State.resetN_send s p m
@[simp] theorem State.part_reply (s : State) (p : Agent) (tag : ReqTag) (m : OutMsg) :
    (s.reply p tag m).part = s.part := State.part_send s p m
@[simp] theorem State.walk_reply (s : State) (p : Agent) (tag : ReqTag) (m : OutMsg) :
    (s.reply p tag m).walk = s.walk := State.walk_send s p m
@[simp] theorem State.dir_reply (s : State) (p : Agent) (tag : ReqTag) (m : OutMsg) :
    (s.reply p tag m).dir = s.dir := State.dir_send s p m
@[simp] theorem State.cfg_reply (s : State) (p : Agent) (tag : ReqTag) (m : OutMsg) :
    (s.reply p tag m).cfg = s.cfg := State.cfg_send s p m
@[simp] theorem State.tt_reply (s : State) (p : Agent) (tag : ReqTag) (m : OutMsg) :
    (s.reply p tag m).tt = s.tt := State.tt_send s p m
@[simp] theorem State.pool_reply (s : State) (p : Agent) (tag : ReqTag) (m : OutMsg) :
    (s.reply p tag m).pool = s.pool := State.pool_send s p m
@[simp] theorem State.pause_reply (s : State) (p : Agent) (tag : ReqTag) (m : OutMsg) :
    (s.reply p tag m).pause = s.pause := State.pause_send s p m
@[simp] theorem State.intake_reply (s : State) (p : Agent) (tag : ReqTag) (m : OutMsg) :
    (s.reply p tag m).intake = s.intake := State.intake_send s p m
@[simp] theorem State.recallUnit_reply (s : State) (p : Agent) (tag : ReqTag) (m : OutMsg) :
    (s.reply p tag m).recallUnit = s.recallUnit := State.recallUnit_send s p m
@[simp] theorem State.purge_reply (s : State) (p : Agent) (tag : ReqTag) (m : OutMsg) :
    (s.reply p tag m).purge = s.purge := State.purge_send s p m
@[simp] theorem State.leave_reply (s : State) (p : Agent) (tag : ReqTag) (m : OutMsg) :
    (s.reply p tag m).leave = s.leave := State.leave_send s p m
@[simp] theorem State.integ_reply (s : State) (p : Agent) (tag : ReqTag) (m : OutMsg) :
    (s.reply p tag m).integ = s.integ := State.integ_send s p m
@[simp] theorem State.err_reply (s : State) (p : Agent) (tag : ReqTag) (m : OutMsg) :
    (s.reply p tag m).err = s.err := State.err_send s p m
@[simp] theorem State.svc_reply (s : State) (p : Agent) (tag : ReqTag) (m : OutMsg) :
    (s.reply p tag m).svc = s.svc := State.svc_send s p m
@[simp] theorem State.claims_reply (s : State) (p : Agent) (tag : ReqTag) (m : OutMsg) :
    (s.reply p tag m).claims = s.claims := State.claims_send s p m
@[simp] theorem State.reports_reply (s : State) (p : Agent) (tag : ReqTag) (m : OutMsg) :
    (s.reply p tag m).reports = s.reports := State.reports_send s p m
@[simp] theorem State.spi_reply (s : State) (p : Agent) (tag : ReqTag) (m : OutMsg) :
    (s.reply p tag m).spi = s.spi := State.spi_send s p m
@[simp] theorem State.pending_reply (s : State) (p : Agent) (tag : ReqTag) (m : OutMsg) :
    (s.reply p tag m).pending = s.pending := State.pending_send s p m
@[simp] theorem State.entry_reply (s : State) (p : Agent) (tag : ReqTag) (m : OutMsg) (i : EntryIdx) :
    (s.reply p tag m).entry i = s.entry i := State.entry_send s p m i
@[simp] theorem State.waiter_reply (s : State) (p : Agent) (tag : ReqTag) (m : OutMsg) (i : PoolIdx) :
    (s.reply p tag m).waiter i = s.waiter i := State.waiter_send s p m i
@[simp] theorem State.dirSet_reply (s : State) (p : Agent) (tag : ReqTag) (m : OutMsg) (i : SetIdx) :
    (s.reply p tag m).dirSet i = s.dirSet i := State.dirSet_send s p m i
@[simp] theorem State.pwrok_returnCredit (s : State) (p : Agent) : (s.returnCredit p).pwrok = s.pwrok :=
  State.pwrok_send _ p _
@[simp] theorem State.resetN_returnCredit (s : State) (p : Agent) : (s.returnCredit p).resetN = s.resetN :=
  State.resetN_send _ p _
@[simp] theorem State.part_returnCredit (s : State) (p : Agent) : (s.returnCredit p).part = s.part :=
  State.part_send _ p _
@[simp] theorem State.walk_returnCredit (s : State) (p : Agent) : (s.returnCredit p).walk = s.walk :=
  State.walk_send _ p _
@[simp] theorem State.dir_returnCredit (s : State) (p : Agent) : (s.returnCredit p).dir = s.dir :=
  State.dir_send _ p _
@[simp] theorem State.cfg_returnCredit (s : State) (p : Agent) : (s.returnCredit p).cfg = s.cfg :=
  State.cfg_send _ p _
@[simp] theorem State.tt_returnCredit (s : State) (p : Agent) : (s.returnCredit p).tt = s.tt :=
  State.tt_send _ p _
@[simp] theorem State.pool_returnCredit (s : State) (p : Agent) : (s.returnCredit p).pool = s.pool :=
  State.pool_send _ p _
@[simp] theorem State.pause_returnCredit (s : State) (p : Agent) : (s.returnCredit p).pause = s.pause :=
  State.pause_send _ p _
@[simp] theorem State.intake_returnCredit (s : State) (p : Agent) : (s.returnCredit p).intake = s.intake :=
  State.intake_send _ p _
@[simp] theorem State.recallUnit_returnCredit (s : State) (p : Agent) : (s.returnCredit p).recallUnit = s.recallUnit :=
  State.recallUnit_send _ p _
@[simp] theorem State.purge_returnCredit (s : State) (p : Agent) : (s.returnCredit p).purge = s.purge :=
  State.purge_send _ p _
@[simp] theorem State.leave_returnCredit (s : State) (p : Agent) : (s.returnCredit p).leave = s.leave :=
  State.leave_send _ p _
@[simp] theorem State.integ_returnCredit (s : State) (p : Agent) : (s.returnCredit p).integ = s.integ :=
  State.integ_send _ p _
@[simp] theorem State.err_returnCredit (s : State) (p : Agent) : (s.returnCredit p).err = s.err :=
  State.err_send _ p _
@[simp] theorem State.svc_returnCredit (s : State) (p : Agent) : (s.returnCredit p).svc = s.svc :=
  State.svc_send _ p _
@[simp] theorem State.claims_returnCredit (s : State) (p : Agent) : (s.returnCredit p).claims = s.claims :=
  State.claims_send _ p _
@[simp] theorem State.reports_returnCredit (s : State) (p : Agent) : (s.returnCredit p).reports = s.reports :=
  State.reports_send _ p _
@[simp] theorem State.spi_returnCredit (s : State) (p : Agent) : (s.returnCredit p).spi = s.spi :=
  State.spi_send _ p _
@[simp] theorem State.pending_returnCredit (s : State) (p : Agent) : (s.returnCredit p).pending = s.pending :=
  State.pending_send _ p _
@[simp] theorem State.entry_returnCredit (s : State) (p : Agent) (i : EntryIdx) :
    (s.returnCredit p).entry i = s.entry i := State.entry_send _ p _ i
@[simp] theorem State.waiter_returnCredit (s : State) (p : Agent) (i : PoolIdx) :
    (s.returnCredit p).waiter i = s.waiter i := State.waiter_send _ p _ i
@[simp] theorem State.dirSet_returnCredit (s : State) (p : Agent) (i : SetIdx) :
    (s.returnCredit p).dirSet i = s.dirSet i := State.dirSet_send _ p _ i

theorem State.port_reply (s : State) (p q : Agent) (tag : ReqTag) (m : OutMsg) :
    (s.reply p tag m).port q =
      if q = p then { s.port p with tags := without (s.port p).tags tag } else s.port q := by
  unfold State.reply; rw [State.port_updPort]; simp

theorem State.port_returnCredit (s : State) (p q : Agent) :
    (s.returnCredit p).port q = if q = p then { s.port p with credits := (s.port p).credits + 1 } else s.port q := by
  unfold State.returnCredit; rw [State.port_send, State.port_updPort]

theorem State.outbox_send (s : State) (p : Agent) (m : OutMsg) :
    (s.send p m).outbox = s.outbox ++ if s.member p then [⟨p, m⟩] else [] := by
  unfold State.send; split <;> simp

/-! ### Slots -/

@[simp] theorem DirSet.slot_setSlot_same (d : DirSet) (w : Way) (x : Slot) : (d.setSlot w x).slot w = x :=
  Vector.get_set_self _ _ _

theorem DirSet.slot_setSlot_ne (d : DirSet) {w v : Way} (x : Slot) (h : v ≠ w) : (d.setSlot w x).slot v = d.slot v :=
  Vector.get_set_other _ _ h

theorem DirSet.slot_setSlot (d : DirSet) (w v : Way) (x : Slot) :
    (d.setSlot w x).slot v = if v = w then x else d.slot v := by
  by_cases h : v = w
  · subst h; simp
  · simp [DirSet.slot_setSlot_ne, h]

@[simp] theorem DirSet.slot_mapSlots (d : DirSet) (f : Slot → Slot) (w : Way) : (d.mapSlots f).slot w = f (d.slot w) :=
  get_mapVec _ _ _

end Sys2Proof.Machine
end

