-- ==== Sys2Proof/Laws/Keeps.lean ====
section
/-! SUPPORT. What the writes of one access on set `k` leave alone (R11) and the record law they keep (R3): one lemma for
each shared operation, from the primitives to the close of an entry. -/

namespace Sys2Proof.Machine

/-- The fields of a port that no access outcome but the intake's and the purge's changes. -/
structure SamePort (x y : Port) : Prop where
  state : y.state = x.state
  enable : y.enable = x.enable
  link : y.link = x.link
  hold : y.rejoinHold = x.rejoinHold
  req : y.reqCredits = x.reqCredits
  credits : y.credits = x.credits
  discards : y.discards = x.discards

theorem SamePort.rfl {x : Port} : SamePort x x := ⟨Eq.refl _, Eq.refl _, Eq.refl _, Eq.refl _, Eq.refl _, Eq.refl _, Eq.refl _⟩

theorem SamePort.trans {x y z : Port} (h : SamePort x y) (g : SamePort y z) : SamePort x z :=
  ⟨g.1.trans h.1, g.2.trans h.2, g.3.trans h.3, g.4.trans h.4, g.5.trans h.5, g.6.trans h.6, g.7.trans h.7⟩

/-- `t` comes from `s` by writes to set `k` alone that keep the record law, with the ports' credits and states, the
settings, the intake queue and the error reporting unit as they were. -/
structure Keeps (k : SetIdx) (s t : State) : Prop where
  pwrok : t.pwrok = s.pwrok
  resetN : t.resetN = s.resetN
  part : t.part = s.part
  walk : t.walk = s.walk
  cfg : t.cfg = s.cfg
  intake : t.intake = s.intake
  err : t.err = s.err
  pending : t.pending = s.pending
  spi : t.spi = s.spi
  ports : ∀ p, SamePort (s.port p) (t.port p)
  other : ∀ j : Nat, j ≠ k.toNat → t.dir.find j = s.dir.find j
  law : s.lawful → t.lawful

theorem Keeps.refl {k : SetIdx} (s : State) : Keeps k s s :=
  ⟨rfl, rfl, rfl, rfl, rfl, rfl, rfl, rfl, rfl, fun _ => SamePort.rfl, fun _ _ => rfl, id⟩

theorem Keeps.trans {k : SetIdx} {s t u : State} (h : Keeps k s t) (g : Keeps k t u) : Keeps k s u :=
  ⟨g.1.trans h.1, g.2.trans h.2, g.3.trans h.3, g.4.trans h.4, g.5.trans h.5, g.6.trans h.6, g.7.trans h.7,
    g.8.trans h.8, g.9.trans h.9, fun p => (h.ports p).trans (g.ports p),
    fun j hj => (g.other j hj).trans (h.other j hj), fun l => g.law (h.law l)⟩

/-- The fields `Keeps` speaks of. -/
def State.kept (s : State) :=
  (s.pwrok, s.resetN, s.part, s.walk, s.cfg, s.intake, s.err, s.pending, s.spi, s.ports, s.dir)

theorem State.lawful_congr {s t : State} (h : t.dir = s.dir) : t.lawful ↔ s.lawful := by
  unfold State.lawful; rw [h]

/-- A change of the other fields alone. -/
theorem Keeps.of_eq {k : SetIdx} {s t : State} (h : t.kept = s.kept) : Keeps k s t := by
  simp only [State.kept, Prod.mk.injEq] at h
  obtain ⟨h1, h2, h3, h4, h5, h6, h7, h8, h9, h10, h11⟩ := h
  refine ⟨h1, h2, h3, h4, h5, h6, h7, h8, h9, fun p => ?_, fun j _ => by rw [h11], (State.lawful_congr h11).mpr⟩
  unfold State.port; rw [h10]; exact SamePort.rfl

theorem Keeps.foldl {α : Type} {k : SetIdx} (g : State → α → State) (h : ∀ s a, Keeps k s (g s a)) (l : List α)
    (s : State) : Keeps k s (l.foldl g s) := by
  induction l generalizing s with
  | nil => exact .refl s
  | cons a l ih => exact (h s a).trans (ih _)

theorem Keeps.updPort {k : SetIdx} (s : State) (p : Agent) (f : Port → Port) (h : ∀ q, SamePort q (f q)) :
    Keeps k s (s.updPort p f) := by
  refine ⟨rfl, rfl, rfl, rfl, rfl, rfl, rfl, rfl, rfl, fun q => ?_, fun _ _ => rfl, id⟩
  rw [State.port_updPort]
  split
  · rename_i hq; subst hq; exact h _
  · exact SamePort.rfl

theorem Keeps.putSet {k : SetIdx} (s : State) (d : DirSet) (h : s.lawful → d.lawful) : Keeps k s (s.putSet k d) := by
  refine ⟨rfl, rfl, rfl, rfl, rfl, rfl, rfl, rfl, rfl, fun q => SamePort.rfl,
    fun j hj => Directory.find_store_ne _ _ hj, fun l => ⟨Directory.wf_store _ _ l.1 k.isLt, fun j => ?_⟩⟩
  by_cases hj : j = k.toNat
  · subst hj
    show ((s.dir.store k.toNat d).find k.toNat).lawful
    rw [Directory.find_store_same s.dir k.toNat d l.1]
    exact h l
  · show ((s.dir.store k.toNat d).find j).lawful
    rw [Directory.find_store_ne s.dir d hj]
    exact l.2 j

theorem Keeps.updSet {k : SetIdx} (s : State) (f : DirSet → DirSet)
    (h : s.lawful → (s.dirSet k).lawful → (f (s.dirSet k)).lawful) : Keeps k s (s.updSet k f) :=
  Keeps.putSet s _ fun l => h l (l.2 k.toNat)

/-! ### Sets that keep the record law -/

theorem DirSet.lawful_setSlot {d : DirSet} (w : Way) (x : Slot) (h : d.lawful)
    (hx : ∀ r, x.content = some r → r.lawful) : (d.setSlot w x).lawful := by
  intro v r hr
  unfold DirSet.record at hr
  rw [DirSet.slot_setSlot] at hr
  split at hr
  · exact hx r hr
  · exact h v r hr

theorem DirSet.lawful_recency {d : DirSet} (l : List Way) (h : d.lawful) : ({ d with recency := l } : DirSet).lawful := h

theorem DirSet.lawful_lost {d : DirSet} (b : Bool) (h : d.lawful) : ({ d with lost := b } : DirSet).lawful := h

theorem DirSet.lawful_mapSlots {d : DirSet} (f : Slot → Slot) (h : d.lawful)
    (hf : ∀ x, (f x).content = x.content ∨ (f x).content = none) : (d.mapSlots f).lawful := by
  intro w r hr
  unfold DirSet.record at hr
  rw [DirSet.slot_mapSlots] at hr
  rcases hf (d.slot w) with h' | h' <;> rw [h'] at hr
  · exact h w r hr
  · cases hr

theorem DirSet.lawful_keep {d : DirSet} (w : Way) (x : Slot) (h : d.lawful) (hx : x.content = (d.slot w).content) :
    (d.setSlot w x).lawful := DirSet.lawful_setSlot w x h fun r hr => h w r (hx.symm.trans hr)

theorem DirSet.lawful_free {d : DirSet} (w : Way) (x : Slot) (h : d.lawful) (hx : x.content = none) :
    (d.setSlot w x).lawful := DirSet.lawful_setSlot w x h fun r hr => by rw [hx] at hr; cases hr

theorem DirSet.lawful_writeRec {d : DirSet} (w : Way) (r : Record) (h : d.lawful) (hr : r.lawful) :
    (d.writeRec w r).lawful := DirSet.lawful_setSlot w _ h fun _ hx => by cases hx; exact hr

theorem DirSet.lawful_freeRec {d : DirSet} (w : Way) (h : d.lawful) : (d.freeRec w).lawful :=
  DirSet.lawful_recency _ (DirSet.lawful_free w _ h rfl)

theorem DirSet.lawful_alloc {d : DirSet} (w : Way) (r : Record) (b : Option EntryIdx) (h : d.lawful) (hr : r.lawful) :
    (d.alloc w r b).lawful :=
  DirSet.lawful_recency _ (DirSet.lawful_setSlot w _ h fun _ hx => by cases hx; exact hr)

theorem DirSet.lawful_setBound {d : DirSet} (w : Way) (b : Option EntryIdx) (h : d.lawful) : (d.setBound w b).lawful :=
  DirSet.lawful_keep w _ h rfl

theorem DirSet.lawful_setReservation {d : DirSet} (w : Way) (b : Option EntryIdx) (h : d.lawful) :
    (d.setReservation w b).lawful := DirSet.lawful_keep w _ h rfl

theorem DirSet.lawful_withdraw {d : DirSet} (w : Way) (m : ServiceMark) (h : d.lawful) : (d.withdraw w m).lawful :=
  DirSet.lawful_recency _ (DirSet.lawful_free w _ h rfl)

theorem DirSet.lawful_move {d : DirSet} (w v : Way) (h : d.lawful) : (d.move w v).lawful := by
  refine DirSet.lawful_recency _ (DirSet.lawful_free w _ (DirSet.lawful_setSlot v _ h fun r hr => h w r hr) rfl)

theorem DirSet.lawful_dropReservation {d : DirSet} (e : EntryIdx) (h : d.lawful) : (d.dropReservation e).lawful :=
  DirSet.lawful_mapSlots _ h fun x => by split <;> exact .inl rfl

theorem DirSet.lawful_dropBound {d : DirSet} (e : EntryIdx) (h : d.lawful) : (d.dropBound e).lawful :=
  DirSet.lawful_mapSlots _ h fun x => by split <;> exact .inl rfl

theorem DirSet.lawful_decay {d : DirSet} (h : d.lawful) : d.decay.lawful :=
  DirSet.lawful_mapSlots _ h fun _ => .inl rfl

theorem DirSet.lawful_empty : DirSet.empty.lawful := by
  intro w r hr
  have : DirSet.empty.record w = none := by
    show ((Vector.replicate 16 Slot.empty).get w).content = none
    rw [get_replicate]; rfl
  rw [this] at hr; cases hr

theorem DirSet.lawful_clear (d : DirSet) : d.clear.lawful := by
  intro w r hr
  have : d.clear.record w = none := by
    show ((mapVec _ d.slots).get w).content = none
    rw [get_mapVec]; rfl
  rw [this] at hr; cases hr

/-! ### Records that keep the law -/

theorem addTo_ne_zero {n : Nat} (x : BitVec n) {i : Nat} (h : i < n) : addTo x i ≠ 0 := by
  intro hh
  have := congrArg (fun v => v.getLsbD i) hh
  simp [addTo, h] at this

theorem Record.lawful_poisoned (r : Record) :
    ({ r with state := .poisoned, holders := 0, poison := true } : Record).lawful := ⟨rfl, rfl⟩

theorem Record.lawful_ownedBy (t : Tag) (a : Agent) (b : Bool) : (⟨t, .owned, only a, b⟩ : Record).lawful := ⟨a, rfl⟩

theorem only_ne_zero (a : Agent) : (only a : AgentSet) ≠ 0 := by revert a; decide

theorem Record.lawful_sharedBy (t : Tag) (a : Agent) (b : Bool) : (⟨t, .shared, only a, b⟩ : Record).lawful :=
  only_ne_zero a

/-! ### Primitives -/

theorem Keeps.setEntry {k : SetIdx} (s : State) (e : EntryIdx) (x : Entry) : Keeps k s (s.setEntry e x) := .of_eq rfl

theorem Keeps.updEntry {k : SetIdx} (s : State) (e : EntryIdx) (f : Entry → Entry) : Keeps k s (s.updEntry e f) :=
  .of_eq rfl

theorem Keeps.setWaiter {k : SetIdx} (s : State) (i : PoolIdx) (w : Option Waiter) : Keeps k s (s.setWaiter i w) :=
  .of_eq rfl

theorem Keeps.joinWaiters {k : SetIdx} (s : State) (e : EntryIdx) (i : PoolIdx) (w : Waiter) :
    Keeps k s (s.joinWaiters e i w) := .of_eq rfl

theorem Keeps.report {k : SetIdx} (s : State) (r : Report) : Keeps k s (s.report r) := .of_eq rfl

theorem Keeps.send {k : SetIdx} (s : State) (p : Agent) (m : OutMsg) : Keeps k s (s.send p m) := by
  unfold State.send; split
  · exact .of_eq rfl
  · exact .refl _

theorem Keeps.reply {k : SetIdx} (s : State) (p : Agent) (tag : ReqTag) (m : OutMsg) : Keeps k s (s.reply p tag m) :=
  (Keeps.send s p m).trans (Keeps.updPort _ p _ fun _ => ⟨rfl, rfl, rfl, rfl, rfl, rfl, rfl⟩)

theorem Keeps.updSvc {k : SetIdx} (s : State) (f : ServicePort → ServicePort) : Keeps k s (s.updSvc f) := .of_eq rfl

theorem Keeps.complete {k : SetIdx} (s : State) (r : Result) : Keeps k s (s.complete r) := .of_eq rfl

theorem Keeps.completeWith {k : SetIdx} (s : State) (o : ResultOutcome) : Keeps k s (s.completeWith o) := .of_eq rfl

theorem Keeps.completeRecall {k : SetIdx} (s : State) (e : EntryIdx) (o : ResultOutcome) :
    Keeps k s (s.completeRecall e o) := .of_eq rfl

theorem Keeps.fail {k : SetIdx} (s : State) (why : FailReason) : Keeps k s (s.fail why) := .of_eq rfl

theorem Keeps.setSlot {k : SetIdx} (s : State) (w : Way) (x : Slot)
    (h : s.lawful → ∀ r, x.content = some r → r.lawful) : Keeps k s (s.setSlot k w x) :=
  Keeps.updSet s _ fun l hd => DirSet.lawful_setSlot w x hd (h l)

/-- A slot written with the record it holds. -/
theorem Keeps.setSlot_same {k : SetIdx} (s : State) (w : Way) (x : Slot) (h : x.content = (s.slot k w).content) :
    Keeps k s (s.setSlot k w x) := Keeps.updSet s _ fun _ hd => DirSet.lawful_keep w x hd h

/-! ### Records (R3, R14, R15) -/

theorem Keeps.writeRec {k : SetIdx} (s : State) (w : Way) (r : Record) (h : s.lawful → r.lawful) :
    Keeps k s (s.writeRec k w r) := Keeps.updSet s _ fun l hd => DirSet.lawful_writeRec w r hd (h l)

theorem Keeps.freeRec {k : SetIdx} (s : State) (w : Way) : Keeps k s (s.freeRec k w) := by
  unfold State.freeRec
  split
  · exact (Keeps.updEntry _ _ _).trans (Keeps.updSet _ _ fun _ hd => DirSet.lawful_freeRec w hd)
  · exact Keeps.updSet _ _ fun _ hd => DirSet.lawful_freeRec w hd

theorem Keeps.writePoisoned {k : SetIdx} (s : State) (w : Way) (r : Record) : Keeps k s (s.writePoisoned k w r) :=
  Keeps.writeRec s w _ fun _ => r.lawful_poisoned

theorem Keeps.freeOrPoison {k : SetIdx} (s : State) (w : Way) (r : Record) : Keeps k s (s.freeOrPoison k w r) := by
  unfold State.freeOrPoison; split
  · exact Keeps.writePoisoned s w r
  · exact Keeps.freeRec s w

theorem Keeps.bind {k : SetIdx} (s : State) (w : Way) (e : EntryIdx) : Keeps k s (s.bind k w e) :=
  (Keeps.updSet s _ fun _ hd => DirSet.lawful_setBound w _ hd).trans (Keeps.updEntry _ _ _)

theorem Keeps.alloc {k : SetIdx} (s : State) (w : Way) (r : Record) (e : EntryIdx) (h : r.lawful) :
    Keeps k s (s.alloc k w r e) :=
  (Keeps.updSet s _ fun _ hd => DirSet.lawful_alloc w r _ hd h).trans (Keeps.updEntry _ _ _)

theorem Keeps.reportPoison {k : SetIdx} (s : State) (j : SetIdx) (w : Way) (l : Line) (a : Option Agent)
    (n : Option Txn) : Keeps k s (s.reportPoison j w l a n) := .of_eq rfl

/-! ### Probe rounds (R69) -/

theorem Keeps.startProbe {k : SetIdx} (e : EntryIdx) (s : State) (a : Agent) : Keeps k s (State.startProbe e s a) := by
  unfold State.startProbe; split
  · exact (Keeps.updEntry _ _ _).trans (Keeps.updPort _ a _ fun _ => ⟨rfl, rfl, rfl, rfl, rfl, rfl, rfl⟩)
  · exact Keeps.updEntry _ _ _

theorem Keeps.startRound {k : SetIdx} (s : State) (e : EntryIdx) (kind : ProbeKind) (set : AgentSet) (b : Bool) :
    Keeps k s (s.startRound e kind set b) := by
  unfold State.startRound
  refine .trans ?_ (Keeps.foldl _ (fun s a => Keeps.startProbe e s a) _ _)
  refine ⟨rfl, rfl, rfl, rfl, rfl, rfl, rfl, rfl, rfl, fun p => ?_, fun _ _ => rfl, id⟩
  show SamePort (s.ports.get p) ((mapVec _ s.ports).get p)
  rw [get_mapVec]
  exact ⟨rfl, rfl, rfl, rfl, rfl, rfl, rfl⟩

theorem Keeps.startRepair {k : SetIdx} (s : State) (e : EntryIdx) (keep : Option Agent) :
    Keeps k s (s.startRepair e keep) := (Keeps.updEntry _ _ _).trans (Keeps.startRound _ _ _ _ _)

/-! ### The end of a transaction (R57 to R60) -/

theorem Keeps.takeEntry {k : SetIdx} (s : State) (e : EntryIdx) (l : Line) (kind : EntryKind) (who : Party)
    (req : Option EntryRequest) : Keeps k s (s.takeEntry e l kind who req) := .of_eq rfl

theorem Keeps.queueStarts {k : SetIdx} (s : State) (l : List StartItem) : Keeps k s (s.queueStarts l) := .of_eq rfl

theorem Keeps.queueParked {k : SetIdx} (s : State) (e : EntryIdx) (front : Bool) : Keeps k s (s.queueParked e front) :=
  .of_eq rfl

theorem Keeps.park {k : SetIdx} (s : State) (e : EntryIdx) (again : Bool) : Keeps k s (s.park e again) := .of_eq rfl

theorem Keeps.joinPurge {k : SetIdx} (s : State) (p : Agent) : Keeps k s (s.joinPurge p) := .of_eq rfl

theorem Keeps.leaveSnapshot {k : SetIdx} (e : EntryIdx) (s : State) (p : Agent) :
    Keeps k s (State.leaveSnapshot e s p) := by
  have h : Keeps k s (s.updPort p fun q => { q with snapshot := without q.snapshot e }) :=
    Keeps.updPort _ p _ fun _ => ⟨rfl, rfl, rfl, rfl, rfl, rfl, rfl⟩
  unfold State.leaveSnapshot
  dsimp only
  split
  · split
    · exact h.trans (Keeps.joinPurge _ _)
    · exact h
  · exact .refl _

theorem Keeps.leaveSnapshots {k : SetIdx} (s : State) (e : EntryIdx) : Keeps k s (s.leaveSnapshots e) :=
  Keeps.foldl _ (fun s p => Keeps.leaveSnapshot e s p) _ _

theorem Keeps.reportClose {k : SetIdx} (s : State) (e : EntryIdx) : Keeps k s (s.reportClose e) := by
  unfold State.reportClose
  refine .trans ?_ (Keeps.leaveSnapshots _ e)
  exact .of_eq rfl

theorem Keeps.announceFree {k : SetIdx} (s : State) (e : EntryIdx) : Keeps k s (s.announceFree e) := by
  unfold State.announceFree
  refine .trans (Keeps.leaveSnapshots s e) ?_
  exact .of_eq rfl

theorem Keeps.releaseEntry {k : SetIdx} (s : State) (e : EntryIdx) : Keeps k s (s.releaseEntry k e) := by
  unfold State.releaseEntry
  refine .trans (.trans (Keeps.updSet s _ fun _ hd => DirSet.lawful_dropBound e hd) ?_) (Keeps.announceFree _ e)
  exact .of_eq rfl

theorem Keeps.enterReleasing {k : SetIdx} (s : State) (e : EntryIdx) : Keeps k s (s.enterReleasing e) := .of_eq rfl

theorem Keeps.handTo {k : SetIdx} (s : State) (e : EntryIdx) (i : PoolIdx) (rest : List PoolIdx) (who : Party)
    (kind : EntryKind) (req : EntryRequest) : Keeps k s (s.handTo e i rest who kind req) := .of_eq rfl

theorem Keeps.handOn {k : SetIdx} (s : State) (e : EntryIdx) : Keeps k s (s.handOn k e) := by
  unfold State.handOn
  split
  · exact Keeps.releaseEntry s e
  · split
    · split
      · exact Keeps.handTo _ _ _ _ _ _ _
      · exact Keeps.enterReleasing _ _
    · exact .of_eq rfl
    · exact Keeps.enterReleasing _ _
    · exact Keeps.enterReleasing _ _

theorem Keeps.filterRecord {k : SetIdx} (s : State) (w : Way) (r : Record) (n : Txn) :
    Keeps k s (s.filterRecord k w r n) := by
  unfold State.filterRecord
  split
  · rename_i hst
    dsimp only
    split
    · exact Keeps.freeOrPoison s w r
    · rename_i hh
      exact Keeps.writeRec s w _ fun _ => by unfold Record.lawful; simp only [hst]; exact hh
  · split
    · split
      · exact (Keeps.writePoisoned s w r).trans (Keeps.reportPoison _ _ _ _ _ _)
      · exact .refl _
    · exact .refl _
  · exact .refl _
  · exact .refl _

theorem Keeps.closeFilter {k : SetIdx} (s : State) (e : EntryIdx) : Keeps k s (s.closeFilter k e) := by
  unfold State.closeFilter
  split
  · split
    · exact Keeps.filterRecord _ _ _ _
    · exact .refl _
  · exact .refl _

theorem Keeps.closeEntry {k : SetIdx} (s : State) (e : EntryIdx) : Keeps k s (s.closeEntry k e) := by
  unfold State.closeEntry
  refine .trans (.trans (.trans (Keeps.closeFilter s e) ?_) (Keeps.reportClose _ e)) (Keeps.handOn _ e)
  exact Keeps.updSet _ _ fun _ hd => DirSet.lawful_dropReservation e hd

end Sys2Proof.Machine
end

