-- ==== Sys2Proof/Laws/Checks.lean ====
section
/-! SUPPORT. The integrity checks, the retirement steps and the frame of an access as a whole keep what `Keeps` says. -/

namespace Sys2Proof.Machine

theorem Keeps.foldl_fst {α β : Type} {k : SetIdx} (g : State × β → α → State × β)
    (h : ∀ x a, Keeps k x.1 (g x a).1) (l : List α) (x : State × β) : Keeps k x.1 (l.foldl g x).1 := by
  induction l generalizing x with
  | nil => exact .refl _
  | cons a l ih => exact (h x a).trans (ih _)

/-! ### Checks (R131 to R136) -/

theorem Keeps.strike {k : SetIdx} (s : State) (f : List CellFault) : Keeps k s (s.strike k f) := by
  unfold State.strike
  refine Keeps.foldl _ (fun s c => Keeps.updSet s _ fun _ hd => DirSet.lawful_keep _ _ hd ?_) _ _
  unfold Slot.strike
  split <;> rfl

theorem Keeps.markDamage {k : SetIdx} (s : State) (w : Way) : Keeps k s (s.markDamage k w) := by
  unfold State.markDamage
  refine .trans (Keeps.setSlot_same s w { s.slot k w with damageMark := true } rfl) ?_
  exact .of_eq rfl

theorem Keeps.endDamage {k : SetIdx} (s : State) (w : Way) : Keeps k s (s.endDamage k w) := by
  unfold State.endDamage
  split
  · refine .trans (Keeps.setSlot_same s w { s.slot k w with damageMark := false } rfl) ?_
    exact .of_eq rfl
  · exact .refl _

theorem Keeps.writeDamaged {k : SetIdx} (s : State) (w : Way) (t : Tag) (b : Bool) (sel : WordSel) (n : Option Txn) :
    Keeps k s (s.writeDamaged k w t b sel n) := by
  unfold State.writeDamaged
  refine .trans (.trans (Keeps.setSlot s w ((s.slot k w).write (some ⟨t, .damaged, 0, b⟩)) ?_) (Keeps.markDamage _ w))
    (Keeps.report _ _)
  intro _ r hr; cases hr; exact trivial

theorem Keeps.rewriteHolder {k : SetIdx} (s : State) (w : Way) : Keeps k s (s.rewriteHolder k w) := by
  unfold State.rewriteHolder State.reportCorrected
  refine .trans ?_ (Keeps.report _ _)
  exact Keeps.setSlot_same s w _ rfl

theorem Keeps.checkHolder {k : SetIdx} (s : State) (w : Way) (h : WordCond) : Keeps k s (s.checkHolder k w h) := by
  unfold State.checkHolder
  split
  · exact .refl _
  · exact Keeps.rewriteHolder s w
  · split
    · exact Keeps.rewriteHolder s w
    · split
      · exact Keeps.rewriteHolder s w
      · exact Keeps.writeDamaged _ _ _ _ _ _

theorem Keeps.withdrawSlot {k : SetIdx} (s : State) (w : Way) (m : ServiceMark) :
    Keeps k s (s.withdrawSlot k w m) := Keeps.updSet s _ fun _ hd => DirSet.lawful_withdraw w m hd

theorem Keeps.setLost {k : SetIdx} (s : State) (b : Bool) : Keeps k s (s.updSet k fun d => { d with lost := b }) :=
  Keeps.updSet s _ fun _ hd => DirSet.lawful_lost b hd

theorem Keeps.withdraw {k : SetIdx} (c : Checked) (w : Way) : Keeps k c.s (c.withdraw k w).s := by
  unfold Checked.withdraw
  dsimp only
  have h : ∀ m, Keeps k c.s ((c.s.endDamage k w).withdrawSlot k w m) := fun m =>
    (Keeps.endDamage c.s w).trans (Keeps.withdrawSlot _ w m)
  have tail : ∀ (t : State) (r : Report) (b : Bool) (q : Report), Keeps k t (if b then (t.report r).report q else t.report r) := by
    intro t r b q; split <;> exact .of_eq rfl
  refine .trans ?_ (tail _ _ _ _)
  split
  · exact (h _).trans (.of_eq rfl)
  · refine .trans ?_ (Keeps.setLost _ _)
    exact (h _).trans (.of_eq rfl)

theorem Slot.worn_content (x : Slot) : x.worn.content = x.content := rfl

theorem Keeps.reportCorrected {k : SetIdx} (s : State) (w : Way) (sel : WordSel) :
    Keeps k s (s.reportCorrected k w sel) := .of_eq rfl

theorem Keeps.checkSlot {k : SetIdx} (c : Checked) (w : Way) : Keeps k c.s (Checked.slot k c w).s := by
  unfold Checked.slot
  dsimp only
  have h : Keeps k c.s (c.s.setSlot k w (c.s.slot k w).worn) := Keeps.setSlot_same _ _ _ rfl
  split
  · exact .refl _
  · split
    · exact h.trans (Keeps.checkHolder _ _ _)
    · refine .trans (.trans (.trans h ?_) (Keeps.report _ _)) (Keeps.checkHolder _ _ _)
      exact Keeps.setSlot_same _ _ _ rfl
    · split
      · dsimp only
        split
        · exact h.trans (Keeps.writeDamaged _ _ _ _ _ _)
        · exact (h.trans (Keeps.writeDamaged _ _ _ _ _ _)).trans (Keeps.reportCorrected _ _ _)
      · exact h.trans (Keeps.withdraw { c with s := c.s.setSlot k w (c.s.slot k w).worn } w)

theorem Keeps.check {k : SetIdx} (s : State) : Keeps k s (s.check k).s := by
  unfold State.check
  have h : ∀ (l : List Way) (c : Checked), Keeps k c.s (l.foldl (Checked.slot k) c).s := by
    intro l
    induction l with
    | nil => intro c; exact .refl _
    | cons w l ih => intro c; exact (Keeps.checkSlot c w).trans (ih _)
  exact h allWays ⟨s, [], [], false⟩

/-! ### Retirement (R142, R143, R146) -/

theorem Keeps.retireFree {k : SetIdx} (s : State) (w : Way) : Keeps k s (s.retireFree k w).1 := by
  unfold State.retireFree; split
  · exact Keeps.withdrawSlot _ _ _
  · exact .refl _

theorem Keeps.joinRetireList {k : SetIdx} (s : State) (j : SetIdx) (w : Way) (st : RetireStatus) :
    Keeps k s (s.joinRetireList j w st) := by
  unfold State.joinRetireList; split
  · exact .refl _
  · exact .of_eq rfl

theorem Keeps.leaveRetireList {k : SetIdx} (s : State) (j : SetIdx) (w : Way) :
    Keeps k s (s.leaveRetireList j w) := .of_eq rfl

theorem Keeps.setRetireStatus {k : SetIdx} (s : State) (j : SetIdx) (w : Way) (st : RetireStatus) :
    Keeps k s (s.setRetireStatus j w st) := .of_eq rfl

theorem Keeps.moveRecord {k : SetIdx} (s : State) (w v : Way) : Keeps k s (s.moveRecord k w v) := by
  have h : ∀ t : State, Keeps k t (t.updSet k fun d => d.move w v) := fun t =>
    Keeps.updSet t _ fun _ hd => DirSet.lawful_move w v hd
  unfold State.moveRecord
  dsimp only
  refine .trans ?_ (Keeps.report _ _)
  split
  · exact .trans (Keeps.updEntry _ _ _) (h _)
  · exact h _

theorem Keeps.judgeSlot {k : SetIdx} (x : State × List Way) (w : Way) : Keeps k x.1 (State.judgeSlot k x w).1 := by
  unfold State.judgeSlot
  dsimp only
  split
  · exact .refl _
  · split
    · exact Keeps.report _ _
    · split
      · exact (Keeps.retireFree _ _).trans (Keeps.report _ _)
      · split
        · exact Keeps.joinRetireList _ _ _ _
        · split
          · exact .refl _
          · split
            · exact Keeps.moveRecord _ _ _
            · exact Keeps.joinRetireList _ _ _ _

theorem Keeps.examineSlot {k : SetIdx} (x : State × List Way) (w : Way) : Keeps k x.1 (State.examineSlot k x w).1 := by
  unfold State.examineSlot
  dsimp only
  split
  · exact .refl _
  · split
    · exact Keeps.leaveRetireList _ _ _
    · split
      · exact ((Keeps.retireFree _ _).trans (Keeps.report _ _)).trans (Keeps.leaveRetireList _ _ _)
      · split
        · exact Keeps.setRetireStatus _ _ _ _
        · split
          · exact .refl _
          · split
            · exact (Keeps.moveRecord _ _ _).trans (Keeps.leaveRetireList _ _ _)
            · refine .trans ?_ (Keeps.setRetireStatus _ _ _ _)
              split
              · exact .refl _
              · exact Keeps.report _ _

theorem Keeps.dropQueued {k : SetIdx} (s : State) (w : Way) : Keeps k s (State.dropQueued k s w) := by
  unfold State.dropQueued; split
  · exact Keeps.leaveRetireList _ _ _
  · exact .refl _

theorem Keeps.endOfAccess {k : SetIdx} (s : State) (judge : List Way) : Keeps k s (s.endOfAccess k judge) := by
  unfold State.endOfAccess
  refine .trans (.trans (.trans (Keeps.foldl_fst (State.judgeSlot k) Keeps.judgeSlot judge (s, []))
    (Keeps.foldl_fst (State.examineSlot k) Keeps.examineSlot allWays _)) (Keeps.queueStarts _ _))
    (Keeps.foldl (State.dropQueued k) (fun s w => Keeps.dropQueued s w) _ _)

/-! ### The access as a whole (R11) -/

theorem Keeps.consider {k : SetIdx} (a : Access) (w : Way) : Keeps k a.s (Access.consider k a w).s := by
  unfold Access.consider
  split
  · split
    · exact Keeps.retireFree _ _
    · exact .refl _
  · exact .refl _

theorem Keeps.considered {k : SetIdx} (s : State) (l : List Way) (a : Access) (h : Keeps k s a.s) :
    Keeps k s (l.foldl (Access.consider k) a).s := by
  induction l generalizing a with
  | nil => exact h
  | cons w l ih => exact ih _ (h.trans (Keeps.consider a w))

theorem Keeps.beginAccess {k : SetIdx} (s : State) (f : List CellFault) : Keeps k s (s.beginAccess k f).s := by
  have h0 : Keeps k s ((s.strike k f).check k).s := (Keeps.strike s f).trans (Keeps.check (s.strike k f))
  unfold State.beginAccess
  generalize (s.strike k f).check k = c at h0 ⊢
  by_cases hp : s.part = .run
  · simp only [hp, if_true]
    exact Keeps.considered s _ _ h0
  · simp only [hp, if_false]
    exact h0

/-- An access is in the relation `R` where `Keeps` and the claimant's outcome are. -/
theorem access_rel {k : SetIdx} (R : State → State → Prop) (hR : ∀ s t, Keeps k s t → R s t)
    (trans : ∀ s t u, R s t → R t u → R s u) (s : State) (f : List CellFault) (outcome : Access → State)
    (h : R (s.beginAccess k f).s (outcome (s.beginAccess k f))) : R s (s.access k f outcome) := by
  have h0 := hR _ _ (Keeps.beginAccess (k := k) s f)
  have h1 := trans _ _ _ h0 h
  unfold State.access
  generalize s.beginAccess k f = a at h1 ⊢
  by_cases hp : s.part = .run
  · simp only [hp, if_true]
    refine trans _ _ _ h1 (hR _ _ (Keeps.trans (t := { outcome a with reports := (outcome a).reports ++ a.late }) ?_
      (Keeps.endOfAccess _ _)))
    exact .of_eq rfl
  · simp only [hp, if_false]
    exact h1

/-- An access whose claimant's outcome keeps the rest. -/
theorem Keeps.access {k : SetIdx} (s : State) (f : List CellFault) (outcome : Access → State)
    (h : Keeps k (s.beginAccess k f).s (outcome (s.beginAccess k f))) : Keeps k s (s.access k f outcome) :=
  access_rel (Keeps k) (fun _ _ => id) (fun _ _ _ => Keeps.trans) s f outcome h

end Sys2Proof.Machine
end

