-- ==== Sys2Proof/Laws/Outcomes.lean ====
section
/-! SUPPORT. The outcome of each access keeps what `Keeps` says: grants, notices, closes, recalls, repairs, walks and the
service commands. -/

namespace Sys2Proof.Machine

/-! ### Grants (R29 to R35) -/

theorem grantShared_lawful (a : Agent) (r : Record) (x : Entry) : (grantShared a r x).record.lawful := by
  unfold grantShared
  split
  · rename_i h; unfold Record.lawful; simp only [h]; exact addTo_ne_zero _ a.isLt
  · rename_i h
    split
    · rename_i ho; unfold Record.lawful; simp only [h]; exact ⟨a, ho⟩
    · exact addTo_ne_zero _ a.isLt
  · exact Record.lawful_sharedBy _ _ _
  · exact only_ne_zero a

theorem grantOwn_lawful (a : Agent) (full : Bool) (r : Record) (x : Entry) : (grantOwn a full r x).record.lawful := by
  unfold grantOwn
  split
  · rename_i h; unfold Record.lawful; simp only [h.1]; exact ⟨a, h.2⟩
  · exact Record.lawful_ownedBy _ _ _

theorem grantUpgrade_record (a : Agent) (r : Record) (x : Entry) :
    (grantUpgrade a r x).record = (grantOwn a false r x).record := by
  unfold grantUpgrade; dsimp only; split <;> rfl

theorem grantOn_lawful (k : ReqKind) (a : Agent) (full : Bool) (r : Record) (x : Entry) :
    (grantOn k a full r x).record.lawful := by
  cases k <;> simp only [grantOn, grantUpgrade_record] <;>
    first | exact grantShared_lawful _ _ _ | exact grantOwn_lawful _ _ _ _

theorem grantNew_lawful (k : ReqKind) (a : Agent) (full : Bool) (t : Tag) : (grantNew k a full t).record.lawful := by
  cases k <;> first | exact Record.lawful_sharedBy _ _ _ | exact Record.lawful_ownedBy _ _ _

theorem Keeps.grantReports {k : SetIdx} (s : State) (j : SetIdx) (w : Way) (e : EntryIdx) (r : Request) (g : Grant) :
    Keeps k s (s.grantReports j w e r g) := by
  unfold State.grantReports
  dsimp only
  have h : Keeps k s (if g.rerequest then s.report (s.rerequestReport j w e r) else s) := by
    split
    · exact Keeps.report _ _
    · exact .refl _
  split
  · exact h.trans (Keeps.reportPoison _ _ _ _ _ _)
  · exact h

theorem Keeps.finishGrant {k : SetIdx} (s : State) (e : EntryIdx) (r : Request) (g : Grant) :
    Keeps k s (s.finishGrant k e r g) := by
  unfold State.finishGrant
  split
  · exact Keeps.closeEntry _ _
  · exact (Keeps.updEntry _ _ _).trans (Keeps.reply _ _ _ _)

theorem Keeps.toFront {k : SetIdx} (s : State) (w : Way) : Keeps k s (s.updSet k fun d => d.toFront w) :=
  Keeps.updSet s _ fun _ hd => DirSet.lawful_recency _ hd

theorem Keeps.grantInPlace {k : SetIdx} (s : State) (w : Way) (e : EntryIdx) (r : Request) (g : Grant)
    (h : g.record.lawful) : Keeps k s (s.grantInPlace k w e r g) := by
  unfold State.grantInPlace
  exact ((((Keeps.writeRec s w _ fun _ => h).trans (Keeps.toFront _ w)).trans (Keeps.bind _ w e)).trans
    (Keeps.grantReports _ _ _ _ _ _)).trans (Keeps.finishGrant _ _ _ _)

theorem Keeps.grantAbsent {k : SetIdx} (s : State) (e : EntryIdx) (r : Request) (freed : Option Way) (b : Bool) :
    Keeps k s (s.grantAbsent k e r freed b) := by
  unfold State.grantAbsent
  split
  · exact (Keeps.alloc s _ _ e (grantNew_lawful _ _ _ _)).trans (Keeps.finishGrant _ _ _ _)
  · exact Keeps.park _ _ _

theorem Keeps.resolve {k : SetIdx} (s : State) (e : EntryIdx) (r : Request) (freed : Option Way) (b : Bool)
    (h : setOf r.line = k) : Keeps k s (s.resolve e r freed b) := by
  subst h
  unfold State.resolve
  dsimp only
  split
  · split
    · exact Keeps.grantInPlace _ _ _ _ _ (grantOn_lawful _ _ _ _ _)
    · exact .refl _
  · exact Keeps.grantAbsent _ _ _ _ _

theorem Keeps.decideRequest {k : SetIdx} (s : State) (e : EntryIdx) (r : Request) (b : Bool)
    (h : setOf r.line = k) : Keeps k s (s.decideRequest e r b) := by
  unfold State.decideRequest
  dsimp only
  rw [h]
  split
  · split
    · split
      · exact (Keeps.bind _ _ _).trans (Keeps.startRepair _ _ _)
      · split
        · exact (Keeps.bind _ _ _).trans (Keeps.startRound _ _ _ _ _)
        · exact Keeps.resolve _ _ _ _ _ h
    · exact .refl _
  · exact Keeps.resolve _ _ _ _ _ h

theorem Keeps.resolveHeld {k : SetIdx} (s : State) (e : EntryIdx) (r : Request) (b : Bool) (h : setOf r.line = k) :
    Keeps k s (s.resolveHeld e r b) := by
  unfold State.resolveHeld
  split
  · split
    · split
      · exact Keeps.startRepair _ _ _
      · exact Keeps.resolve _ _ _ _ _ h
    · exact .refl _
  · exact Keeps.resolve _ _ _ _ _ h

/-! ### Notices (R36 to R39) -/

theorem Keeps.removeHolder {k : SetIdx} (s : State) (w : Way) (r : Record) (a : Agent) (h : r.state = .shared) :
    Keeps k s (s.removeHolder k w r a) := by
  unfold State.removeHolder
  split
  · exact Keeps.freeOrPoison _ _ _
  · rename_i hh
    exact Keeps.writeRec s w _ fun _ => by unfold Record.lawful; simp only [h]; exact hh

theorem Keeps.ack {k : SetIdx} (s : State) (r : Request) (b : Bool) : Keeps k s (s.ack r b) := Keeps.reply _ _ _ _

theorem Keeps.noticeOn {k : SetIdx} (s : State) (w : Way) (old : Record) (r : Request) :
    Keeps k s (s.noticeOn k w old r) := by
  unfold State.noticeOn
  split
  · rename_i h
    split
    · exact (Keeps.removeHolder _ _ _ _ h).trans (Keeps.ack _ _ _)
    · exact Keeps.ack _ _ _
  · split
    · exact (Keeps.freeOrPoison _ _ _).trans (Keeps.ack _ _ _)
    · exact Keeps.ack _ _ _
  · exact Keeps.ack _ _ _
  · exact Keeps.ack _ _ _

theorem Keeps.decideNotice {k : SetIdx} (s : State) (r : Request) (h : setOf r.line = k) :
    Keeps k s (s.decideNotice r) := by
  unfold State.decideNotice
  rw [h]
  split
  · split
    · exact Keeps.noticeOn _ _ _ _
    · exact Keeps.ack _ _ _
  · exact Keeps.ack _ _ _

/-! ### The intake head (R26), after its request has left the queue -/

theorem Keeps.waitOn {k : SetIdx} (s : State) (r : Request) (e : EntryIdx) : Keeps k s (s.waitOn r e) := by
  unfold State.waitOn
  split
  · exact Keeps.joinWaiters _ _ _ _
  · exact (Keeps.reply _ _ _ _).trans (Keeps.report _ _)

theorem Keeps.refuseLost {k : SetIdx} (s : State) (r : Request) : Keeps k s (s.refuseLost r) :=
  (Keeps.reply _ _ _ _).trans (Keeps.report _ _)

theorem Keeps.beginRequest {k : SetIdx} (s : State) (r : Request) (e : EntryIdx) (h : setOf r.line = k) :
    Keeps k s (s.beginRequest r e) := (Keeps.takeEntry _ _ _ _ _ _).trans (Keeps.decideRequest _ _ _ _ h)

/-! ### Resolutions, closes, hand-ons (R34, R53, R58, R61, R97) -/

/-- The request of an entry is on the entry's line. -/
theorem State.requestOf_line {s : State} {e : EntryIdx} {r : Request} (h : s.requestOf e = some r) :
    s.lineOfEntry e = r.line := by
  unfold State.requestOf at h
  split at h
  · rename_i hl; cases h; unfold State.lineOfEntry; rw [hl]; rfl
  · cases h

theorem Keeps.resolutionOutcome {k : SetIdx} (e : EntryIdx) (a : Access) (h : setOf (a.s.lineOfEntry e) = k) :
    Keeps k a.s (resolutionOutcome e a) := by
  unfold Machine.resolutionOutcome
  split
  · rename_i hr; exact Keeps.resolveHeld _ _ _ _ (by rw [← State.requestOf_line hr]; exact h)
  · exact .refl _

theorem Keeps.parkedOutcome {k : SetIdx} (e : EntryIdx) (a : Access) (h : setOf (a.s.lineOfEntry e) = k) :
    Keeps k a.s (parkedOutcome e a) := by
  unfold Machine.parkedOutcome
  split
  · rw [h]; exact Keeps.closeEntry _ _
  · split
    · rename_i hr; exact Keeps.resolveHeld _ _ _ _ (by rw [← State.requestOf_line hr]; exact h)
    · exact .refl _

theorem Keeps.closeOutcome {k : SetIdx} (e : EntryIdx) (a : Access) (h : setOf (a.s.lineOfEntry e) = k) :
    Keeps k a.s (closeOutcome e a) := by
  unfold Machine.closeOutcome
  dsimp only
  split
  · exact Keeps.startRepair _ _ _
  · rw [h]; exact Keeps.closeEntry _ _

theorem Keeps.closeRecall {k : SetIdx} (s : State) (e : EntryIdx) (o : ResultOutcome)
    (h : setOf (s.lineOfEntry e) = k) : Keeps k s (s.closeRecall e o) := by
  unfold State.closeRecall
  rw [h]
  exact (Keeps.completeRecall s e o).trans (Keeps.closeEntry _ _)

theorem Keeps.serveRecall {k : SetIdx} (s : State) (e : EntryIdx) (w : Way) (old : Record)
    (h : setOf (s.lineOfEntry e) = k) : Keeps k s (s.serveRecall e w old) := by
  unfold State.serveRecall
  split
  · rw [h]; exact (Keeps.bind _ _ _).trans (Keeps.startRound _ _ _ _ _)
  · rw [h]; exact (Keeps.bind _ _ _).trans (Keeps.startRound _ _ _ _ _)
  · rw [h]; exact (Keeps.bind _ _ _).trans (Keeps.startRepair _ _ _)
  · exact Keeps.closeRecall _ _ _ h

theorem Keeps.handedRecall {k : SetIdx} (s : State) (e : EntryIdx) (h : setOf (s.lineOfEntry e) = k) :
    Keeps k s (s.handedRecall e) := by
  unfold State.handedRecall
  split
  · split
    · exact Keeps.serveRecall _ _ _ _ h
    · exact .refl _
  · exact Keeps.closeRecall _ _ _ h

theorem Keeps.handedOnOutcome {k : SetIdx} (e : EntryIdx) (a : Access) (h : setOf (a.s.lineOfEntry e) = k) :
    Keeps k a.s (handedOnOutcome e a) := by
  unfold Machine.handedOnOutcome
  split
  · exact Keeps.handedRecall _ _ h
  · split
    · rw [h]; exact Keeps.closeEntry _ _
    · split
      · rename_i hr; exact Keeps.decideRequest _ _ _ _ (by rw [← State.requestOf_line hr]; exact h)
      · exact .refl _

theorem State.record_lawful {s : State} {k : SetIdx} {w : Way} {r : Record} (l : s.lawful)
    (h : (s.dirSet k).record w = some r) : r.lawful := l.2 k.toNat w r h

theorem Keeps.clearPoisonOn {k : SetIdx} (s : State) (w : Way) (old : Record) (h : s.lawful → old.lawful) :
    Keeps k s (s.clearPoisonOn k w old) := by
  unfold State.clearPoisonOn
  have hw : (old.state = .shared ∨ old.state = .owned) →
      Keeps k s ((s.writeRec k w { old with poison := false }).completeWith .cleared) := by
    intro hs
    refine (Keeps.writeRec s w _ fun l => ?_).trans (Keeps.completeWith _ _)
    have := h l
    unfold Record.lawful at this ⊢
    rcases hs with hs | hs <;> simp only [hs] at this ⊢ <;> exact this
  split
  · exact (Keeps.freeRec _ _).trans (Keeps.completeWith _ _)
  · exact Keeps.completeWith _ _
  · rename_i hs
    split
    · exact hw (.inl hs)
    · exact Keeps.completeWith _ _
  · rename_i hs
    split
    · exact hw (.inr hs)
    · exact Keeps.completeWith _ _

theorem Keeps.decideClearPoison {k : SetIdx} (s : State) (l : Line) (h : setOf l = k) :
    Keeps k s (s.decideClearPoison l) := by
  unfold State.decideClearPoison
  rw [h]
  split
  · split
    · rename_i hr; exact Keeps.clearPoisonOn _ _ _ fun l => State.record_lawful l hr
    · exact Keeps.completeWith _ _
  · exact Keeps.completeWith _ _

theorem Keeps.decideWaiter {k : SetIdx} (s : State) (e : EntryIdx) (i : PoolIdx) (rest : List PoolIdx) (w : Waiter)
    (h : setOf (s.lineOfEntry e) = k) : Keeps k s (s.decideWaiter e i rest w) := by
  unfold State.decideWaiter
  dsimp only
  have h0 : Keeps k s ((s.setWaiter i none).updEntry e fun x => { x with waiters := rest }) := .of_eq rfl
  split
  · exact h0.trans (Keeps.decideNotice _ _ h)
  · exact h0.trans (Keeps.decideClearPoison _ _ h)
  · exact h0

theorem Keeps.releasingOutcome {k : SetIdx} (e : EntryIdx) (a : Access) (h : setOf (a.s.lineOfEntry e) = k) :
    Keeps k a.s (releasingOutcome e a) := by
  unfold Machine.releasingOutcome
  dsimp only
  rw [h]
  refine .trans ?_ (Keeps.handOn _ _)
  split
  · split
    · split
      · exact Keeps.decideWaiter _ _ _ _ _ h
      · exact .refl _
    · exact .refl _
  · exact .refl _

/-! ### Recalls and retirements (chapter 5, section 7.5) -/

theorem Keeps.dropItem {k : SetIdx} (s : State) (x : StartItem) : Keeps k s (s.dropItem x) := .of_eq rfl

theorem Keeps.dropAccess {k : SetIdx} (s : State) (e : EntryIdx) : Keeps k s (s.dropAccess e) := .of_eq rfl

theorem Keeps.takeBack {k : SetIdx} (s : State) (w : Way) (r : Record) (e : EntryIdx) :
    Keeps k s (s.takeBack k w r e) := by
  unfold State.takeBack
  split
  · exact (Keeps.bind _ _ _).trans (Keeps.startRepair _ _ _)
  · exact (Keeps.bind _ _ _).trans (Keeps.startRound _ _ _ _ _)

theorem Keeps.reserveFor {k : SetIdx} (s : State) (w : Way) (p : EntryIdx) : Keeps k s (s.reserveFor k w p) :=
  (Keeps.updSet s _ fun _ hd => DirSet.lawful_setReservation w _ hd).trans (Keeps.updEntry _ _ _)

theorem Keeps.refuseNoSlot {k : SetIdx} (s : State) (p : EntryIdx) : Keeps k s (s.refuseNoSlot k p) := by
  unfold State.refuseNoSlot
  split
  · exact ((Keeps.reply _ _ _ _).trans (Keeps.report _ _)).trans (Keeps.closeEntry _ _)
  · exact Keeps.closeEntry _ _

theorem Keeps.beginRecall {k : SetIdx} (s : State) (w : Way) (r : Record) (p e : EntryIdx) :
    Keeps k s (s.beginRecall k w r p e) := by
  unfold State.beginRecall
  refine .trans ?_ (Keeps.takeBack _ _ _ _)
  exact .of_eq rfl

theorem Keeps.recallStartOutcome {k : SetIdx} (p : EntryIdx) (a : Access) (h : setOf (a.s.lineOfEntry p) = k) :
    Keeps k a.s (recallStartOutcome p a) := by
  unfold Machine.recallStartOutcome
  dsimp only
  rw [h]
  have h0 := Keeps.dropItem (k := k) a.s (.parked p)
  split
  · exact h0.trans (Keeps.closeEntry _ _)
  · split
    · exact h0.trans (Keeps.reserveFor _ _ _)
    · split
      · split
        · exact h0.trans (Keeps.beginRecall _ _ _ _ _)
        · exact .refl _
        · exact .refl _
      · exact h0.trans (Keeps.refuseNoSlot _ _)

theorem Keeps.freeVictim {k : SetIdx} (s : State) (w : Way) (e : EntryIdx) : Keeps k s (s.freeVictim k w e) := by
  unfold State.freeVictim
  split
  · exact (Keeps.freeRec _ _).trans (Keeps.reserveFor _ _ _)
  · exact Keeps.freeRec _ _

theorem Keeps.withhold {k : SetIdx} (s : State) (e : EntryIdx) : Keeps k s (s.withhold e) := by
  unfold State.withhold
  split
  · exact Keeps.queueParked _ _ _
  · exact .refl _

theorem Keeps.poisonLost {k : SetIdx} (s : State) (w : Way) (r : Record) (o : Agent) (e : EntryIdx) :
    Keeps k s (s.poisonLost k w r o e) := (Keeps.writePoisoned _ _ _).trans (Keeps.reportPoison _ _ _ _ _ _)

theorem Keeps.resolveRecall {k : SetIdx} (s : State) (w : Way) (r : Record) (e : EntryIdx) :
    Keeps k s (s.resolveRecall k w r e) := by
  unfold State.resolveRecall
  split
  · exact Keeps.startRepair _ _ _
  · split
    · exact ((Keeps.poisonLost _ _ _ _ _).trans (Keeps.withhold _ _)).trans (Keeps.closeEntry _ _)
    · exact (Keeps.freeVictim _ _ _).trans (Keeps.closeEntry _ _)

theorem Keeps.recallOutcome {k : SetIdx} (e : EntryIdx) (a : Access) (h : setOf (a.s.lineOfEntry e) = k) :
    Keeps k a.s (recallOutcome e a) := by
  have h' : setOf ((a.s.dropAccess e).lineOfEntry e) = k := h
  unfold Machine.recallOutcome
  dsimp only
  rw [h']
  split
  · exact (Keeps.dropAccess _ _).trans (Keeps.resolveRecall _ _ _ _)
  · exact (Keeps.dropAccess _ _).trans (Keeps.closeEntry _ _)

theorem Keeps.beginStart {k : SetIdx} (s : State) (w : Way) (r : Record) (kind : EntryKind) (e : EntryIdx) :
    Keeps k s (s.beginStart k w r kind e) := (Keeps.takeEntry _ _ _ _ _ _).trans (Keeps.takeBack _ _ _ _)

theorem Keeps.moveOrWait {k : SetIdx} (s : State) (w : Way) : Keeps k s (s.moveOrWait k w) := by
  unfold State.moveOrWait
  split
  · exact Keeps.moveRecord _ _ _
  · exact Keeps.joinRetireList _ _ _ _

theorem Keeps.retireRecord {k : SetIdx} (s : State) (x : StartItem) (w : Way) (r : Record) :
    Keeps k s (s.retireRecord (s.dropItem x) k w r) := by
  have h0 := Keeps.dropItem (k := k) s x
  unfold State.retireRecord
  split
  · exact h0.trans (Keeps.joinRetireList _ _ _ _)
  · split
    · split
      · exact h0.trans (Keeps.beginStart _ _ _ _ _)
      · exact .refl _
    · exact h0.trans (Keeps.moveOrWait _ _)

theorem Keeps.retireStartOutcome {k : SetIdx} (w : Way) (a : Access) : Keeps k a.s (retireStartOutcome k w a) := by
  have h0 := Keeps.dropItem (k := k) a.s (.retire k w)
  unfold Machine.retireStartOutcome
  dsimp only
  split
  · exact h0
  · split
    · exact h0.trans (Keeps.report _ _)
    · split
      · exact (h0.trans (Keeps.retireFree _ _)).trans (Keeps.report _ _)
      · exact Keeps.retireRecord _ _ _ _

theorem Keeps.withdrawFreed {k : SetIdx} (s : State) (w : Way) : Keeps k s (s.withdrawFreed k w) :=
  (Keeps.retireFree _ _).trans (Keeps.report _ _)

theorem Keeps.resolveRetire {k : SetIdx} (s : State) (w : Way) (r : Record) (e : EntryIdx) :
    Keeps k s (s.resolveRetire k w r e) := by
  unfold State.resolveRetire
  split
  · exact Keeps.startRepair _ _ _
  · split
    · exact ((Keeps.poisonLost _ _ _ _ _).trans (Keeps.moveOrWait _ _)).trans (Keeps.closeEntry _ _)
    · exact ((Keeps.freeRec _ _).trans (Keeps.withdrawFreed _ _)).trans (Keeps.closeEntry _ _)

theorem Keeps.retireOutcome {k : SetIdx} (e : EntryIdx) (a : Access) (h : setOf (a.s.lineOfEntry e) = k) :
    Keeps k a.s (retireOutcome e a) := by
  have h' : setOf ((a.s.dropAccess e).lineOfEntry e) = k := h
  unfold Machine.retireOutcome
  dsimp only
  rw [h']
  split
  · exact (Keeps.dropAccess _ _).trans (Keeps.resolveRetire _ _ _ _)
  · exact (Keeps.dropAccess _ _).trans (Keeps.closeEntry _ _)

/-! ### Repairs (section 7.4) -/

theorem Keeps.repairStartOutcome {k : SetIdx} (t : Tag) (a : Access) : Keeps k a.s (repairStartOutcome k t a) := by
  have h0 := Keeps.dropItem (k := k) a.s (.repair k t)
  unfold Machine.repairStartOutcome
  dsimp only
  split
  · exact h0
  · split
    · exact h0.trans (Keeps.beginStart _ _ _ _ _)
    · exact .refl _
    · exact h0
    · exact h0

theorem Keeps.repairReport {k : SetIdx} (s : State) (j : SetIdx) (w : Way) (r : Record) (e : EntryIdx) :
    Keeps k s (s.repairReport j w r e) := Keeps.reportPoison _ _ _ _ _ _

theorem keepRecord_lawful (r : Record) (a : Agent) (g : Option GrantKind) (b : Bool) : (keepRecord r a g b).lawful := by
  unfold keepRecord Record.lawful
  split
  · rename_i h; split at h <;> exact only_ne_zero a
  · exact ⟨a, rfl⟩
  · rename_i h; split at h <;> cases h
  · exact trivial

theorem Keeps.repairKeep {k : SetIdx} (s : State) (w : Way) (r : Record) (e : EntryIdx) (a : Agent) (b : Bool) :
    Keeps k s (s.repairKeep k w r e a b) := by
  unfold State.repairKeep
  dsimp only
  have h := (Keeps.writeRec (k := k) s w (keepRecord r a (s.entry e).grantSent b) fun _ =>
    keepRecord_lawful _ _ _ _).trans (Keeps.toFront _ w)
  split
  · exact (h.trans (Keeps.repairReport _ _ _ _ _)).trans (Keeps.closeEntry _ _)
  · exact h.trans (Keeps.closeEntry _ _)

theorem Keeps.repairToPoison {k : SetIdx} (s : State) (w : Way) (r : Record) (e : EntryIdx) :
    Keeps k s (s.repairToPoison k w r e) := (Keeps.writePoisoned _ _ _).trans (Keeps.repairReport _ _ _ _ _)

theorem State.lineOfEntry_repairToPoison (s : State) (k : SetIdx) (w : Way) (r : Record) (e f : EntryIdx) :
    (s.repairToPoison k w r e).lineOfEntry f = s.lineOfEntry f := rfl

theorem Keeps.repairBad {k : SetIdx} (s : State) (w : Way) (r : Record) (e : EntryIdx)
    (h : setOf (s.lineOfEntry e) = k) : Keeps k s (s.repairBad k w r e) := by
  have h0 := Keeps.repairToPoison (k := k) s w r e
  unfold State.repairBad
  dsimp only
  split
  · split
    · rename_i hr
      exact h0.trans (Keeps.resolve _ _ _ _ _ (by rw [← State.requestOf_line hr]; exact h))
    · exact h0
  · exact (h0.trans (Keeps.withhold _ _)).trans (Keeps.closeEntry _ _)
  · exact (h0.trans (Keeps.moveOrWait _ _)).trans (Keeps.closeEntry _ _)
  · exact h0.trans (Keeps.closeEntry _ _)
  · exact h0.trans (Keeps.closeEntry _ _)
  · exact h0.trans (Keeps.closeRecall _ _ _ h)
  · exact h0

theorem State.line_freeRec (s : State) (k : SetIdx) (w : Way) (e : EntryIdx) :
    ((s.freeRec k w).entry e).line = (s.entry e).line := by
  unfold State.freeRec
  dsimp only
  split
  · rename_i f _
    rw [State.entry_updSet, State.entry_updEntry]
    split
    · rename_i h; subst h; rfl
    · rfl
  · rfl

theorem State.lineOfEntry_freeRec (s : State) (k : SetIdx) (w : Way) (e : EntryIdx) :
    (s.freeRec k w).lineOfEntry e = s.lineOfEntry e := by
  unfold State.lineOfEntry; rw [State.line_freeRec]

theorem Keeps.repairGood {k : SetIdx} (s : State) (w : Way) (e : EntryIdx) (h : setOf (s.lineOfEntry e) = k) :
    Keeps k s (s.repairGood k w e) := by
  have h0 := Keeps.freeRec (k := k) s w
  unfold State.repairGood
  dsimp only
  split
  · split
    · rename_i hr
      exact h0.trans (Keeps.resolve _ _ _ _ _ (by rw [← State.requestOf_line hr]; exact h))
    · exact h0
  · exact (Keeps.freeVictim _ _ _).trans (Keeps.closeEntry _ _)
  · exact (h0.trans (Keeps.withdrawFreed _ _)).trans (Keeps.closeEntry _ _)
  · exact h0.trans (Keeps.closeEntry _ _)
  · exact h0.trans (Keeps.closeEntry _ _)
  · exact h0.trans (Keeps.closeRecall _ _ _ (by rw [State.lineOfEntry_freeRec]; exact h))
  · exact h0

theorem State.lineOfEntry_endDamage (s : State) (k : SetIdx) (w : Way) (e : EntryIdx) :
    (s.endDamage k w).lineOfEntry e = s.lineOfEntry e := by
  unfold State.endDamage; dsimp only; split <;> rfl

theorem Keeps.resolveRepair {k : SetIdx} (s : State) (w : Way) (r : Record) (e : EntryIdx)
    (h : setOf (s.lineOfEntry e) = k) : Keeps k s (s.resolveRepair k w r e) := by
  have h0 := Keeps.endDamage (k := k) s w
  have h' : setOf ((s.endDamage k w).lineOfEntry e) = k := by rw [State.lineOfEntry_endDamage]; exact h
  unfold State.resolveRepair
  dsimp only
  split
  · exact h0.trans (Keeps.repairKeep _ _ _ _ _ _)
  · split
    · exact h0.trans (Keeps.repairBad _ _ _ _ h')
    · exact h0.trans (Keeps.repairGood _ _ _ h')

theorem Keeps.repairOutcome {k : SetIdx} (e : EntryIdx) (a : Access) (h : setOf (a.s.lineOfEntry e) = k) :
    Keeps k a.s (repairOutcome e a) := by
  have h' : setOf ((a.s.dropAccess e).lineOfEntry e) = k := h
  unfold Machine.repairOutcome
  dsimp only
  rw [h']
  split
  · split
    · exact (Keeps.dropAccess _ _).trans (Keeps.startRepair _ _ _)
    · exact (Keeps.dropAccess _ _).trans (Keeps.resolveRepair _ _ _ _ h')
  · exact (Keeps.dropAccess _ _).trans (Keeps.closeEntry _ _)

/-! ### Walks (sections 6.5 and 6.6) -/

theorem Keeps.purgeRecord {k : SetIdx} (s : State) (w : Way) (r : Record) : Keeps k s (s.purgeRecord k w r) := by
  unfold State.purgeRecord
  split
  · rename_i hst
    dsimp only
    split
    · exact .refl _
    · split
      · exact Keeps.freeOrPoison _ _ _
      · rename_i hh
        exact Keeps.writeRec s w _ fun _ => by unfold Record.lawful; simp only [hst]; exact hh
  · split
    · split
      · exact (Keeps.writePoisoned _ _ _).trans (Keeps.reportPoison _ _ _ _ _ _)
      · exact .refl _
    · exact .refl _
  · exact .refl _
  · exact .refl _

theorem Keeps.purgeSlot {k : SetIdx} (s : State) (w : Way) : Keeps k s (State.purgeSlot k s w) := by
  unfold State.purgeSlot
  dsimp only
  split
  · split
    · exact Keeps.purgeRecord _ _ _
    · exact .refl _
  · exact .refl _

/-- The slots of a purge step (R120). -/
theorem Keeps.purgeSlots {k : SetIdx} (s : State) : Keeps k s (allWays.foldl (State.purgeSlot k) s) :=
  Keeps.foldl _ (fun s w => Keeps.purgeSlot s w) _ _

theorem Keeps.beginRetract {k : SetIdx} (s : State) (w : Way) (r : Record) (p : Agent) (e : EntryIdx) :
    Keeps k s (s.beginRetract k w r p e) := by
  unfold State.beginRetract
  dsimp only
  split
  · refine .trans (.trans ?_ (Keeps.bind _ w e)) (Keeps.startRepair _ _ _)
    exact .of_eq rfl
  · refine .trans (.trans ?_ (Keeps.bind _ w e)) (Keeps.startRound _ _ _ _ _)
    exact .of_eq rfl

theorem Keeps.leaveWaits {k : SetIdx} (s : State) (x : LeaveWait) : Keeps k s (s.leaveWaits x) := .of_eq rfl

theorem Keeps.leaveOn {k : SetIdx} (s : State) : Keeps k s s.leaveOn := .of_eq rfl

theorem Keeps.leaveOutcome {k : SetIdx} (p : Agent) (a : Access) : Keeps k a.s (leaveOutcome k p a) := by
  unfold Machine.leaveOutcome
  dsimp only
  split
  · split
    · split
      · exact Keeps.beginRetract _ _ _ _ _
      · exact Keeps.leaveWaits _ _
    · exact Keeps.leaveWaits _ _
    · exact .refl _
  · split
    · exact Keeps.leaveWaits _ _
    · exact Keeps.leaveOn _

theorem Keeps.retractFrom {k : SetIdx} (s : State) (w : Way) (r : Record) (p : Agent) :
    Keeps k s (s.retractFrom k w r p) := by
  unfold State.retractFrom
  split
  · rename_i h
    split
    · exact Keeps.removeHolder _ _ _ _ h
    · exact .refl _
  · split
    · exact Keeps.freeOrPoison _ _ _
    · exact .refl _
  · exact .refl _
  · exact .refl _

theorem Keeps.resolveRetract {k : SetIdx} (s : State) (w : Way) (r : Record) (e : EntryIdx) (p : Agent) :
    Keeps k s (s.resolveRetract k w r e p) := by
  unfold State.resolveRetract
  split
  · exact Keeps.startRepair _ _ _
  · split
    · exact Keeps.closeEntry _ _
    · exact (Keeps.retractFrom _ _ _ _).trans (Keeps.closeEntry _ _)

theorem Keeps.retractOutcome {k : SetIdx} (e : EntryIdx) (a : Access) (h : setOf (a.s.lineOfEntry e) = k) :
    Keeps k a.s (retractOutcome e a) := by
  unfold Machine.retractOutcome
  dsimp only
  rw [h]
  split
  · exact Keeps.resolveRetract _ _ _ _ _
  · exact Keeps.closeEntry _ _
  · exact Keeps.closeEntry _ _

/-! ### Service commands (sections 10.4 and 10.5) -/

theorem Keeps.fillInspect {k : SetIdx} (s : State) : Keeps k s s.fillInspect := .of_eq rfl

theorem Keeps.fillLookup {k : SetIdx} (s : State) : Keeps k s s.fillLookup := .of_eq rfl

theorem Keeps.lookupOutcome {k : SetIdx} (a : Access) : Keeps k a.s (lookupOutcome a) := by
  unfold Machine.lookupOutcome
  split
  · exact Keeps.report _ _
  · exact Keeps.refl _

theorem Keeps.serviceWaits {k : SetIdx} (s : State) (e : EntryIdx) (w : Waiter) : Keeps k s (s.serviceWaits e w) := by
  unfold State.serviceWaits
  split
  · exact (Keeps.joinWaiters _ _ _ _).trans (Keeps.updSvc _ _)
  · exact Keeps.fail _ _

theorem Keeps.serviceMiss {k : SetIdx} (s : State) (l : Line) : Keeps k s (s.serviceMiss l) := by
  unfold State.serviceMiss
  split
  · exact (Keeps.completeWith _ _).trans (Keeps.report _ _)
  · exact Keeps.completeWith _ _

theorem Keeps.beginService {k : SetIdx} (s : State) (l : Line) (w : Way) (r : Record) (h : setOf l = k) :
    Keeps k s (s.beginService l w r) := by
  unfold State.beginService
  split
  · rename_i e _
    refine ((Keeps.takeEntry _ _ _ _ _ _).trans (Keeps.updSvc _ _)).trans (Keeps.serveRecall _ _ _ _ ?_)
    have : (((s.takeEntry e l .service .service (some .recallLine)).updSvc fun v =>
        { v with waiting := .entry e }).lineOfEntry e) = l := by
      show (((s.setEntry e _).entry e).line).getD 0 = l
      rw [State.entry_setEntry_same]; rfl
    rw [this]; exact h
  · exact Keeps.updSvc _ _

theorem Keeps.recallLineOutcome {k : SetIdx} (a : Access) (h : setOf a.s.svc.lineArg = k) :
    Keeps k a.s (recallLineOutcome a) := by
  unfold Machine.recallLineOutcome
  dsimp only
  split
  · exact Keeps.serviceWaits _ _ _
  · split
    · exact Keeps.serviceMiss _ _
    · split
      · split
        · exact Keeps.completeWith _ _
        · exact Keeps.beginService _ _ _ _ h
      · exact .refl _

theorem Keeps.resolveService {k : SetIdx} (s : State) (w : Way) (r : Record) (e : EntryIdx)
    (h : setOf (s.lineOfEntry e) = k) : Keeps k s (s.resolveService k w r e) := by
  have hb : Keeps k s (match r.lostOwner (s.entry e) with
    | some o =>
      ((s.writePoisoned k w r).reportPoison k w (lineOf k r.tag) (some o) (some (s.txn e))).closeRecall e .poisoned
    | none =>
      if r.poison then (s.writePoisoned k w r).closeRecall e .poisoned
      else (s.freeRec k w).closeRecall e .recalled) := by
    split
    · exact ((Keeps.writePoisoned _ _ _).trans (Keeps.reportPoison _ _ _ _ _ _)).trans (Keeps.closeRecall _ _ _ h)
    · split
      · exact (Keeps.writePoisoned _ _ _).trans (Keeps.closeRecall _ _ _ h)
      · exact (Keeps.freeRec _ _).trans (Keeps.closeRecall _ _ _ (by rw [State.lineOfEntry_freeRec]; exact h))
  unfold State.resolveService
  cases r.state
  · exact hb
  · exact hb
  · exact hb
  · exact Keeps.startRepair _ _ _

theorem Keeps.serviceOutcome {k : SetIdx} (e : EntryIdx) (a : Access) (h : setOf (a.s.lineOfEntry e) = k) :
    Keeps k a.s (serviceOutcome e a) := by
  unfold Machine.serviceOutcome
  dsimp only
  rw [h]
  split
  · split
    · exact Keeps.resolveService _ _ _ _ h
    · exact .refl _
  · exact Keeps.closeRecall _ _ _ h

theorem Keeps.clearPoisonOutcome {k : SetIdx} (a : Access) (h : setOf a.s.svc.lineArg = k) :
    Keeps k a.s (clearPoisonOutcome a) := by
  unfold Machine.clearPoisonOutcome
  dsimp only
  split
  · exact Keeps.serviceWaits _ _ _
  · split
    · exact Keeps.serviceMiss _ _
    · exact Keeps.decideClearPoison _ _ h

theorem Keeps.clearSetOutcome {k : SetIdx} (a : Access) (h : a.s.svc.setArg = k) : Keeps k a.s (clearSetOutcome a) := by
  unfold Machine.clearSetOutcome
  dsimp only
  rw [h]
  split
  · exact Keeps.completeWith _ _
  · split
    · exact (Keeps.setLost _ _).trans (Keeps.completeWith _ _)
    · exact Keeps.completeWith _ _

end Sys2Proof.Machine
end

