-- ==== Sys2Proof/Laws/Settles.lean ====
section
/-! SUPPORT. What the end of an event leaves alone: the settling of the blocks, and the reports reaching the error
reporting unit. -/

namespace Sys2Proof.Machine

/-- The fields of a port that settling never changes. -/
structure PortSettles (x y : Port) : Prop where
  enable : y.enable = x.enable
  link : y.link = x.link
  req : y.reqCredits = x.reqCredits
  discards : y.discards = x.discards
  lastFence : y.lastFence = x.lastFence
  snapshot : y.snapshot = x.snapshot

theorem PortSettles.rfl {x : Port} : PortSettles x x := ⟨Eq.refl _, Eq.refl _, Eq.refl _, Eq.refl _, Eq.refl _, Eq.refl _⟩

theorem PortSettles.trans {x y z : Port} (h : PortSettles x y) (g : PortSettles y z) : PortSettles x z :=
  ⟨g.1.trans h.1, g.2.trans h.2, g.3.trans h.3, g.4.trans h.4, g.5.trans h.5, g.6.trans h.6⟩

/-- `t` comes from `s` by the settling of the blocks: LEAVEs taken, departures answered, walks begun, probes sent,
accesses listed, claims raised; nothing else changes. -/
structure Settles (s t : State) : Prop where
  pwrok : t.pwrok = s.pwrok
  resetN : t.resetN = s.resetN
  part : t.part = s.part
  walk : t.walk = s.walk
  dir : t.dir = s.dir
  cfg : t.cfg = s.cfg
  pause : t.pause = s.pause
  purge : t.purge = s.purge
  integ : t.integ = s.integ
  err : t.err = s.err
  svc : t.svc = s.svc
  reports : t.reports = s.reports
  spi : t.spi = s.spi
  pending : t.pending = s.pending
  queue : t.recallUnit.queue = s.recallUnit.queue
  inFlight : t.recallUnit.inFlight = s.recallUnit.inFlight
  serves : t.recallUnit.serves = s.recallUnit.serves
  entry : ∀ e, (t.entry e).core = (s.entry e).core
  ports : ∀ p, PortSettles (s.port p) (t.port p)
  waiter : ∀ i w, t.waiter i = some w → s.waiter i = some w
  outbox : ∃ more, t.outbox = s.outbox ++ more

/-- A field that `Entry.core` keeps. -/
theorem Entry.of_core {α : Type} (g : Entry → α) (hg : ∀ z : Entry, g z.core = g z) {x y : Entry}
    (h : y.core = x.core) : g y = g x := by rw [← hg y, h, hg x]

theorem Settles.refl (s : State) : Settles s s :=
  ⟨rfl, rfl, rfl, rfl, rfl, rfl, rfl, rfl, rfl, rfl, rfl, rfl, rfl, rfl, rfl, rfl, rfl, fun _ => rfl,
    fun _ => PortSettles.rfl, fun _ _ => id, ⟨[], (List.append_nil _).symm⟩⟩

theorem Settles.trans {s t u : State} (h : Settles s t) (g : Settles t u) : Settles s u := by
  obtain ⟨a, ha⟩ := h.outbox
  obtain ⟨b, hb⟩ := g.outbox
  exact ⟨g.1.trans h.1, g.2.trans h.2, g.3.trans h.3, g.4.trans h.4, g.5.trans h.5, g.6.trans h.6, g.7.trans h.7,
    g.8.trans h.8, g.9.trans h.9, g.10.trans h.10, g.11.trans h.11, g.12.trans h.12, g.13.trans h.13,
    g.14.trans h.14, g.15.trans h.15, g.16.trans h.16, g.17.trans h.17, fun e => (g.entry e).trans (h.entry e),
    fun p => (h.ports p).trans (g.ports p), fun i w hw => h.waiter i w (g.waiter i w hw), ⟨a ++ b, by rw [hb, ha, List.append_assoc]⟩⟩

theorem Settles.foldl {α : Type} (g : State → α → State) (h : ∀ s a, Settles s (g s a)) (l : List α) (s : State) :
    Settles s (l.foldl g s) := by
  induction l generalizing s with
  | nil => exact .refl s
  | cons a l ih => exact (h s a).trans (ih _)

theorem Settles.updPort (s : State) (p : Agent) (f : Port → Port) (h : ∀ q, PortSettles q (f q)) :
    Settles s (s.updPort p f) := by
  refine ⟨rfl, rfl, rfl, rfl, rfl, rfl, rfl, rfl, rfl, rfl, rfl, rfl, rfl, rfl, rfl, rfl, rfl, fun _ => rfl,
    fun q => ?_, fun _ _ => id, ⟨[], (List.append_nil _).symm⟩⟩
  rw [State.port_updPort]
  split
  · rename_i hq; subst hq; exact h _
  · exact PortSettles.rfl

theorem Settles.updEntry (s : State) (e : EntryIdx) (f : Entry → Entry) (h : ∀ x, (f x).core = x.core) :
    Settles s (s.updEntry e f) := by
  refine ⟨rfl, rfl, rfl, rfl, rfl, rfl, rfl, rfl, rfl, rfl, rfl, rfl, rfl, rfl, rfl, rfl, rfl, fun i => ?_,
    fun q => PortSettles.rfl, fun _ _ => id, ⟨[], (List.append_nil _).symm⟩⟩
  rw [State.entry_updEntry]
  split
  · rename_i hi; subst hi; exact h _
  · rfl

theorem Settles.removeWaiters (s : State) (f : Request → Bool) : Settles s (s.removeWaiters f) := by
  refine ⟨rfl, rfl, rfl, rfl, rfl, rfl, rfl, rfl, rfl, rfl, rfl, rfl, rfl, rfl, rfl, rfl, rfl, fun i => ?_,
    fun q => PortSettles.rfl, fun i w hw => ?_, ⟨[], (List.append_nil _).symm⟩⟩
  · show ((mapVec _ s.tt).get i).core = (s.tt.get i).core
    rw [get_mapVec]; rfl
  · have h : freeSelected f (s.waiter i) = some w := by
      rw [← hw]; exact (get_mapVec (freeSelected f) s.pool i).symm
    unfold freeSelected at h
    split at h
    · split at h
      · cases h
      · exact h
    · exact h

/-- The fields `Settles` speaks of. -/
def State.settled (s : State) :=
  ((s.pwrok, s.resetN, s.part, s.walk, s.dir, s.cfg, s.pause, s.purge, s.integ, s.err),
    (s.svc, s.reports, s.spi, s.pending, s.recallUnit.queue, s.recallUnit.inFlight, s.recallUnit.serves, s.tt, s.ports,
      s.outbox, s.pool))

/-- A change of claims, the leave walker, the intake queue or the list of pending accesses alone. -/
theorem Settles.of_eq {s t : State} (h : t.settled = s.settled) : Settles s t := by
  simp only [State.settled, Prod.mk.injEq] at h
  obtain ⟨⟨h1, h2, h3, h4, h5, h6, h7, h8, h9, h10⟩, h11, h12, h13, h14, h15, h16, h17, h18, h19, h20, h21⟩ := h
  refine ⟨h1, h2, h3, h4, h5, h6, h7, h8, h9, h10, h11, h12, h13, h14, h15, h16, h17, fun e => ?_, fun p => ?_,
    fun i w hw => ?_, ⟨[], by rw [h20, List.append_nil]⟩⟩
  · unfold State.entry; rw [h18]
  · unfold State.port; rw [h19]; exact PortSettles.rfl
  · unfold State.waiter at hw ⊢; rw [← h21]; exact hw

theorem Settles.send (s : State) (p : Agent) (m : OutMsg) : Settles s (s.send p m) := by
  unfold State.send
  split
  · exact ⟨rfl, rfl, rfl, rfl, rfl, rfl, rfl, rfl, rfl, rfl, rfl, rfl, rfl, rfl, rfl, rfl, rfl, fun _ => rfl,
      fun _ => PortSettles.rfl, fun _ _ => id, ⟨_, rfl⟩⟩
  · exact .refl _

theorem Settles.reply (s : State) (p : Agent) (tag : ReqTag) (m : OutMsg) : Settles s (s.reply p tag m) :=
  (Settles.send s p m).trans (Settles.updPort _ p _ fun _ => by constructor <;> rfl)

theorem Settles.returnCredit (s : State) (p : Agent) : Settles s (s.returnCredit p) :=
  (Settles.updPort s p _ fun _ => by constructor <;> rfl).trans (Settles.send _ _ _)

/-! ### LEAVEs at the head, departures, walks (R112, R124, R127) -/

theorem Settles.nackLeaving (s : State) (r : Request) : Settles s (s.nackLeaving r) := Settles.reply _ _ _ _

theorem Settles.updLeave (s : State) (f : LeaveWalker → LeaveWalker) : Settles s (s.updLeave f) := .of_eq rfl

theorem Settles.setIntake (s : State) (l : List Request) : Settles s (s.setIntake l) := .of_eq rfl

theorem Settles.startDrain (s : State) (p : Agent) : Settles s (s.startDrain p) :=
  (Settles.updPort s p _ fun _ => by constructor <;> rfl).trans (Settles.updLeave _ _)

theorem Settles.refuseQueued (s : State) (p : Agent) : Settles s (s.refuseQueued p) :=
  (Settles.setIntake s _).trans
    (Settles.foldl _ (fun s r => (Settles.nackLeaving s r).trans (Settles.returnCredit _ _)) _ _)

theorem Settles.refuseWaiting (s : State) (p : Agent) : Settles s (s.refuseWaiting p) :=
  (Settles.removeWaiters s _).trans (Settles.foldl _ (fun s r => Settles.nackLeaving s r) _ _)

theorem Settles.takeLeave (s : State) (p : Agent) : Settles s (s.takeLeave p) := by
  unfold State.takeLeave
  dsimp only
  split
  · exact (((Settles.returnCredit s p).trans (Settles.startDrain _ p)).trans (Settles.refuseQueued _ p)).trans
      (Settles.refuseWaiting _ p)
  · exact Settles.returnCredit s p

theorem Settles.takeLeaves (n : Nat) (s : State) : Settles s (State.takeLeaves n s) := by
  induction n generalizing s with
  | zero => exact .refl s
  | succ n ih =>
    unfold State.takeLeaves
    split
    · split
      · exact ((Settles.setIntake s _).trans (Settles.takeLeave _ _)).trans (ih _)
      · exact .refl s
    · exact .refl s

theorem Settles.portLeft (s : State) (p : Agent) : Settles s (s.portLeft p) :=
  (Settles.updPort s p _ fun _ => by constructor <;> rfl).trans (Settles.updLeave _ _)

theorem Settles.sendLeaveDone (s : State) : Settles s s.sendLeaveDone := by
  unfold State.sendLeaveDone
  split
  · split
    · exact (Settles.send s _ _).trans (Settles.portLeft _ _)
    · exact .refl s
  · exact .refl s

theorem Settles.enterWalk (s : State) : Settles s s.enterWalk := by
  unfold State.enterWalk
  split
  · split
    · exact (Settles.updPort s _ _ fun _ => by constructor <;> rfl).trans (Settles.updLeave _ _)
    · exact .refl s
  · exact .refl s

/-! ### Sending probes, listing accesses, raising claims (R72, R91, R17) -/

theorem Settles.sendProbe (s : State) (p : Agent) (e : EntryIdx) : Settles s (s.sendProbe p e) := by
  unfold State.sendProbe
  dsimp only
  refine .trans (.trans (Settles.send s p _) (Settles.updEntry _ e _ ?_))
    (Settles.updPort _ p _ fun _ => by constructor <;> rfl)
  intro x; split <;> rfl

theorem Settles.pumpQueue (p : Agent) (l : List EntryIdx) (s : State) : Settles s (State.pumpQueue p l s) := by
  induction l generalizing s with
  | nil => exact Settles.updPort _ _ _ fun _ => by constructor <;> rfl
  | cons e l ih =>
    unfold State.pumpQueue
    split
    · exact (Settles.sendProbe s p e).trans (ih _)
    · exact Settles.updPort _ _ _ fun _ => by constructor <;> rfl

theorem Settles.pump (s : State) : Settles s s.pump := by
  unfold State.pump
  refine Settles.foldl _ (fun s p => ?_) _ _
  unfold State.pumpPort
  split
  · exact Settles.pumpQueue _ _ _
  · exact .refl _

theorem Settles.listAccesses (s : State) : Settles s s.listAccesses := Settles.of_eq rfl

theorem Settles.refreshClaims (s : State) : Settles s s.refreshClaims :=
  Settles.of_eq rfl

theorem Settles.refreshService (s : State) : Settles s s.refreshService := by
  unfold State.refreshService
  split
  · split
    · exact .refl s
    · exact Settles.of_eq rfl
  · exact Settles.of_eq rfl

theorem Settles.settleRun (s : State) : Settles s s.settleRun :=
  (((((Settles.takeLeaves _ s).trans (Settles.sendLeaveDone _)).trans (Settles.enterWalk _)).trans
    (Settles.pump _)).trans (Settles.listAccesses _)).trans (Settles.refreshClaims _)

/-- All that the settling of an event changes. -/
theorem Settles.settle (s : State) : Settles s s.settle := by
  unfold State.settle
  split
  · exact Settles.settleRun s
  · exact Settles.refreshService s
  · exact Settles.of_eq rfl

/-! ### The reports reach the error reporting unit (R152, R161, R164) -/

/-- Everything but the error reporting unit, the part state, the service port and the claims. -/
def State.unreported (s : State) :=
  ((s.pwrok, s.resetN, s.walk, s.dir, s.cfg, s.tt, s.pool, s.pause, s.ports),
    (s.intake, s.recallUnit, s.purge, s.leave, s.integ, s.outbox, s.reports, s.spi, s.pending))

theorem State.unreported_haltCommand (s : State) : s.haltCommand.unreported = s.unreported := by
  unfold State.haltCommand; split <;> rfl

theorem State.unreported_takeReports (s : State) : s.takeReports.unreported = s.unreported := by
  unfold State.takeReports
  dsimp only
  split
  · exact State.unreported_haltCommand _
  · rfl

/-- An event without a report that halts the part changes the part state and the service port no further. -/
theorem State.takeReports_noHalt (s : State) (h : s.haltingKind = none) :
    s.takeReports = { s with err := s.reports.foldl ErrorUnit.absorb s.err }.evalOutputs := by
  unfold State.takeReports
  simp only [h]

theorem State.part_haltCommand (s : State) : s.haltCommand.part = s.part := by
  unfold State.haltCommand; split <;> rfl

theorem State.part_takeReports (s : State) : s.takeReports.part = s.part ∨ s.takeReports.part = .halted := by
  unfold State.takeReports
  dsimp only
  split
  · right
    rw [State.part_evalOutputs]
    unfold State.enterHalted
    rw [State.part_haltCommand]
  · exact .inl rfl

/-- The outputs follow the capture after every event (R157, R158). -/
theorem State.outputsLawful_evalOutputs (s : State) : s.evalOutputs.outputsLawful := ⟨rfl, rfl⟩

theorem State.outputsLawful_finish (s : State) : s.finish.outputsLawful := State.outputsLawful_evalOutputs _

/-! ### The whole event -/

/-- What an event changes after its own writes: `t` is the state at its end, `s` the state its writes have left. -/
structure Finishes (s t : State) : Prop where
  pwrok : t.pwrok = s.pwrok
  resetN : t.resetN = s.resetN
  part : t.part = s.part ∨ t.part = .halted
  walk : t.walk = s.walk
  dir : t.dir = s.dir
  cfg : t.cfg = s.cfg
  pause : t.pause = s.pause
  purge : t.purge = s.purge
  integ : t.integ = s.integ
  reports : t.reports = s.reports
  spi : t.spi = s.spi
  pending : t.pending = s.pending
  queue : t.recallUnit.queue = s.recallUnit.queue
  inFlight : t.recallUnit.inFlight = s.recallUnit.inFlight
  serves : t.recallUnit.serves = s.recallUnit.serves
  entry : ∀ e, (t.entry e).core = (s.entry e).core
  ports : ∀ p, PortSettles (s.port p) (t.port p)
  waiter : ∀ i w, t.waiter i = some w → s.waiter i = some w
  outbox : ∃ more, t.outbox = s.outbox ++ more
  outputs : t.outputsLawful
  calm : s.haltingKind = none → t.part = s.part ∧ t.svc = s.svc

theorem State.haltingKind_settle (s : State) : s.settle.haltingKind = s.haltingKind := by
  have h := Settles.settle s
  unfold State.haltingKind
  rw [h.part, h.reports, h.err]

theorem Finishes.finish (s : State) : Finishes s s.finish := by
  have h := Settles.settle s
  have g := State.unreported_takeReports s.settle
  unfold State.finish
  simp only [State.unreported, Prod.mk.injEq] at g
  obtain ⟨⟨g1, g2, g3, g4, g5, g6, g7, g8, g9⟩, g10, g11, g12, g13, g14, g15, g16, g17, g18⟩ := g
  refine ⟨g1.trans h.1, g2.trans h.2, ?_, g3.trans h.walk, g4.trans h.dir, g5.trans h.cfg, g8.trans h.pause,
    g12.trans h.purge, g14.trans h.integ, g16.trans h.reports, g17.trans h.spi, g18.trans h.pending, ?_, ?_, ?_, ?_,
    ?_, ?_, ?_, State.outputsLawful_evalOutputs _, ?_⟩
  · have := State.part_takeReports s.settle
    rw [h.part] at this
    exact this
  · rw [g11]; exact h.queue
  · rw [g11]; exact h.inFlight
  · rw [g11]; exact h.serves
  · intro e; unfold State.entry; rw [g6]; exact h.entry e
  · intro p; unfold State.port; rw [g9]; exact h.ports p
  · intro i w hw
    refine h.waiter i w ?_
    unfold State.waiter at hw ⊢; rw [← g7]; exact hw
  · rw [g15]; exact h.outbox
  · intro hk
    rw [State.takeReports_noHalt _ (by rw [State.haltingKind_settle]; exact hk)]
    exact ⟨h.part, h.svc⟩

end Sys2Proof.Machine
end

