-- ==== Sys2Proof/Laws/Access.lean ====
section
/-! SUPPORT. An access from its claim to its end: what the checks leave alone, and what the state at the end has of the
state that the claimant's writes left. -/

namespace Sys2Proof.Machine

/-! ### The checks change the array, the integrity unit and the reports alone -/

/-- Everything but the directory, the integrity unit and the reports. -/
def State.unchecked (s : State) :=
  ((s.pwrok, s.resetN, s.part, s.walk, s.cfg, s.tt, s.pool, s.pause, s.ports, s.intake),
    (s.recallUnit, s.purge, s.leave, s.err, s.svc, s.claims, s.outbox, s.spi, s.pending))

theorem unchecked_foldl {α : Type} (g : State → α → State) (h : ∀ s a, (g s a).unchecked = s.unchecked) (l : List α)
    (s : State) : (l.foldl g s).unchecked = s.unchecked := by
  induction l generalizing s with
  | nil => rfl
  | cons a l ih => exact (ih _).trans (h s a)

theorem unchecked_strike (s : State) (k : SetIdx) (f : List CellFault) : (s.strike k f).unchecked = s.unchecked :=
  unchecked_foldl (fun (s : State) (c : CellFault) => s.updSet k fun d => d.setSlot c.way ((d.slot c.way).strike c))
    (fun _ _ => rfl) f s

theorem unchecked_updSet (s : State) (k : SetIdx) (f : DirSet → DirSet) : (s.updSet k f).unchecked = s.unchecked := rfl

theorem unchecked_setSlot (s : State) (k : SetIdx) (w : Way) (x : Slot) :
    (s.setSlot k w x).unchecked = s.unchecked := rfl

theorem unchecked_report (s : State) (r : Report) : (s.report r).unchecked = s.unchecked := rfl

theorem unchecked_integ (s : State) (x : IntegrityUnit) : ({ s with integ := x } : State).unchecked = s.unchecked := rfl

theorem unchecked_withdrawSlot (s : State) (k : SetIdx) (w : Way) (m : ServiceMark) :
    (s.withdrawSlot k w m).unchecked = s.unchecked := rfl

theorem unchecked_rewriteHolder (s : State) (k : SetIdx) (w : Way) :
    (s.rewriteHolder k w).unchecked = s.unchecked := rfl

theorem unchecked_reportCorrected (s : State) (k : SetIdx) (w : Way) (sel : WordSel) :
    (s.reportCorrected k w sel).unchecked = s.unchecked := rfl

theorem unchecked_writeDamaged (s : State) (k : SetIdx) (w : Way) (t : Tag) (b : Bool) (sel : WordSel)
    (n : Option Txn) : (s.writeDamaged k w t b sel n).unchecked = s.unchecked := rfl

theorem unchecked_endDamage (s : State) (k : SetIdx) (w : Way) : (s.endDamage k w).unchecked = s.unchecked := by
  unfold State.endDamage; dsimp only; split <;> rfl

theorem unchecked_checkHolder (s : State) (k : SetIdx) (w : Way) (h : WordCond) :
    (s.checkHolder k w h).unchecked = s.unchecked := by
  unfold State.checkHolder
  split
  · rfl
  · exact unchecked_rewriteHolder _ _ _
  · split
    · exact unchecked_rewriteHolder _ _ _
    · split
      · exact unchecked_rewriteHolder _ _ _
      · exact unchecked_writeDamaged _ _ _ _ _ _ _

theorem unchecked_withdraw (c : Checked) (k : SetIdx) (w : Way) : (c.withdraw k w).s.unchecked = c.s.unchecked := by
  have h := unchecked_endDamage c.s k w
  unfold Checked.withdraw
  dsimp only
  split <;> split <;>
    simp only [unchecked_report, unchecked_updSet, unchecked_integ, unchecked_withdrawSlot, h]

theorem unchecked_slot (k : SetIdx) (c : Checked) (w : Way) : (Checked.slot k c w).s.unchecked = c.s.unchecked := by
  unfold Checked.slot
  dsimp only
  split
  · rfl
  · split
    · simp only [unchecked_checkHolder, unchecked_setSlot]
    · simp only [unchecked_checkHolder, unchecked_setSlot, unchecked_reportCorrected]
    · split
      · dsimp only
        split <;> simp only [unchecked_reportCorrected, unchecked_writeDamaged, unchecked_setSlot]
      · simp only [unchecked_withdraw, unchecked_setSlot]

theorem unchecked_check (s : State) (k : SetIdx) : (s.check k).s.unchecked = s.unchecked := by
  have h : ∀ (l : List Way) (c : Checked), (l.foldl (Checked.slot k) c).s.unchecked = c.s.unchecked := by
    intro l
    induction l with
    | nil => intro c; rfl
    | cons w l ih => intro c; exact (ih _).trans (unchecked_slot k c w)
  exact h allWays ⟨s, [], [], false⟩

theorem unchecked_retireFree (s : State) (k : SetIdx) (w : Way) : (s.retireFree k w).1.unchecked = s.unchecked := by
  unfold State.retireFree; split <;> rfl

theorem unchecked_consider (k : SetIdx) (a : Access) (w : Way) : (Access.consider k a w).s.unchecked = a.s.unchecked := by
  unfold Access.consider
  split
  · split
    · exact unchecked_retireFree _ _ _
    · rfl
  · rfl

theorem unchecked_considered (k : SetIdx) (l : List Way) (a : Access) :
    (l.foldl (Access.consider k) a).s.unchecked = a.s.unchecked := by
  induction l generalizing a with
  | nil => rfl
  | cons w l ih => exact (ih _).trans (unchecked_consider k a w)

theorem unchecked_beginAccess (s : State) (k : SetIdx) (f : List CellFault) :
    (s.beginAccess k f).s.unchecked = s.unchecked := by
  have h0 : ((s.strike k f).check k).s.unchecked = s.unchecked :=
    (unchecked_check _ k).trans (unchecked_strike s k f)
  unfold State.beginAccess
  generalize (s.strike k f).check k = c at h0 ⊢
  by_cases hp : s.part = .run
  · simp only [hp, if_true]
    exact (unchecked_considered k _ _).trans h0
  · simp only [hp, if_false]
    exact h0

/-- What the checks of an access leave as the claim found it: everything but the directory, the integrity unit and the
reports. -/
structure SameOutside (s t : State) : Prop where
  pwrok : t.pwrok = s.pwrok
  resetN : t.resetN = s.resetN
  part : t.part = s.part
  walk : t.walk = s.walk
  cfg : t.cfg = s.cfg
  tt : t.tt = s.tt
  pool : t.pool = s.pool
  pause : t.pause = s.pause
  ports : t.ports = s.ports
  intake : t.intake = s.intake
  recallUnit : t.recallUnit = s.recallUnit
  purge : t.purge = s.purge
  leave : t.leave = s.leave
  err : t.err = s.err
  svc : t.svc = s.svc
  claims : t.claims = s.claims
  outbox : t.outbox = s.outbox
  spi : t.spi = s.spi
  pending : t.pending = s.pending

theorem SameOutside.beginAccess (s : State) (k : SetIdx) (f : List CellFault) :
    SameOutside s (s.beginAccess k f).s := by
  have h := unchecked_beginAccess s k f
  simp only [State.unchecked, Prod.mk.injEq] at h
  obtain ⟨⟨h1, h2, h3, h4, h5, h6, h7, h8, h9, h10⟩, h11, h12, h13, h14, h15, h16, h17, h18, h19⟩ := h
  exact ⟨h1, h2, h3, h4, h5, h6, h7, h8, h9, h10, h11, h12, h13, h14, h15, h16, h17, h18, h19⟩

/-! ### The claim is taken (R17) -/

theorem State.takeClaim_cases (s : State) : ∃ c, s.takeClaim = { s.clearOutputs with claims := c } := by
  unfold State.takeClaim
  split
  · exact ⟨_, rfl⟩
  · exact ⟨s.claims, rfl⟩

theorem SameOutside.takeClaim (s : State) :
    SameOutside { s with outbox := [], claims := s.takeClaim.claims } s.takeClaim := by
  obtain ⟨c, hc⟩ := s.takeClaim_cases
  rw [hc]
  exact ⟨rfl, rfl, rfl, rfl, rfl, rfl, rfl, rfl, rfl, rfl, rfl, rfl, rfl, rfl, rfl, rfl, rfl, rfl, rfl⟩

theorem State.dir_takeClaim (s : State) : s.takeClaim.dir = s.dir := by
  obtain ⟨c, hc⟩ := s.takeClaim_cases
  rw [hc]; rfl

theorem State.integ_takeClaim (s : State) : s.takeClaim.integ = s.integ := by
  obtain ⟨c, hc⟩ := s.takeClaim_cases
  rw [hc]; rfl

theorem State.part_takeClaim (s : State) : s.takeClaim.part = s.part := (SameOutside.takeClaim s).part

/-- What a claimant's outcome finds as it was before the access. -/
theorem SameOutside.checked (s : State) (k : SetIdx) (f : List CellFault) :
    SameOutside { s with outbox := [], claims := s.takeClaim.claims } (s.checked k f) := by
  have h := SameOutside.takeClaim s
  have g := SameOutside.beginAccess s.takeClaim k f
  exact ⟨g.1.trans h.1, g.2.trans h.2, g.3.trans h.3, g.4.trans h.4, g.5.trans h.5, g.6.trans h.6, g.7.trans h.7,
    g.8.trans h.8, g.9.trans h.9, g.10.trans h.10, g.11.trans h.11, g.12.trans h.12, g.13.trans h.13, g.14.trans h.14,
    g.15.trans h.15, g.16.trans h.16, g.17.trans h.17, g.18.trans h.18, g.19.trans h.19⟩

theorem State.checked_entry (s : State) (k : SetIdx) (f : List CellFault) (e : EntryIdx) :
    (s.checked k f).entry e = s.entry e := by
  unfold State.entry; rw [(SameOutside.checked s k f).tt]

theorem State.checked_port (s : State) (k : SetIdx) (f : List CellFault) (p : Agent) :
    (s.checked k f).port p = s.port p := by
  unfold State.port; rw [(SameOutside.checked s k f).ports]

theorem State.checked_lineOfEntry (s : State) (k : SetIdx) (f : List CellFault) (e : EntryIdx) :
    (s.checked k f).lineOfEntry e = s.lineOfEntry e := by
  unfold State.lineOfEntry; rw [State.checked_entry]

theorem State.checked_svc (s : State) (k : SetIdx) (f : List CellFault) : (s.checked k f).svc = s.svc :=
  (SameOutside.checked s k f).svc

/-- The directory as the checks leave it: other sets as before, the record law kept. -/
theorem Keeps.checked (s : State) (k : SetIdx) (f : List CellFault) :
    Keeps k s (s.checked k f) := by
  refine .trans ?_ (Keeps.beginAccess s.takeClaim f)
  obtain ⟨c, hc⟩ := s.takeClaim_cases
  rw [hc]
  exact .of_eq rfl

/-! ### The end of an access that judges nothing for retirement -/

/-- No item of the retire list lies in set `k`. -/
def State.unlistedSet (s : State) (k : SetIdx) : Prop := ∀ i ∈ s.integ.retireList, i.set ≠ k

theorem State.examine_unlisted (s : State) (k : SetIdx) (h : s.unlistedSet k) (l : List Way) (b : List Way) :
    l.foldl (State.examineSlot k) (s, b) = (s, b) := by
  have hs : ∀ w, State.examineSlot k (s, b) w = (s, b) := by
    intro w
    have : s.onRetireList k w = false := by
      unfold State.onRetireList
      rw [List.any_eq_false]
      intro i hi
      simp [h i hi]
    unfold State.examineSlot
    simp [this]
  induction l with
  | nil => rfl
  | cons w l ih => rw [List.foldl_cons, hs w]; exact ih

theorem State.endOfAccess_unlisted (s : State) (k : SetIdx) (h : s.unlistedSet k) :
    s.endOfAccess k [] = s.queueStarts (allWays.flatMap (s.startsOf k [])) := by
  unfold State.endOfAccess
  simp only [List.foldl_nil, State.examine_unlisted s k h]

/-- The state `t` at the end of an access, beside the state `u` that its claimant's writes left. -/
structure Served (late : List Report) (u t : State) : Prop where
  pwrok : t.pwrok = u.pwrok
  resetN : t.resetN = u.resetN
  part : t.part = u.part ∨ t.part = .halted
  walk : t.walk = u.walk
  dir : t.dir = u.dir
  cfg : t.cfg = u.cfg
  pause : t.pause = u.pause
  purge : t.purge = u.purge
  integ : t.integ = u.integ
  reports : t.reports = u.reports ++ late
  spi : t.spi = u.spi
  pending : t.pending = u.pending
  queue : ∃ starts, t.recallUnit.queue = starts ++ u.recallUnit.queue
  inFlight : t.recallUnit.inFlight = u.recallUnit.inFlight
  serves : t.recallUnit.serves = u.recallUnit.serves
  entry : ∀ e, (t.entry e).core = (u.entry e).core
  ports : ∀ p, PortSettles (u.port p) (t.port p)
  waiter : ∀ i w, t.waiter i = some w → u.waiter i = some w
  outbox : ∃ more, t.outbox = u.outbox ++ more
  outputs : t.outputsLawful
  calm : (∀ r ∈ t.reports, u.err.halts r = false) → t.part = u.part ∧ t.svc = u.svc

theorem State.haltingKind_none (s : State) (h : ∀ r ∈ s.reports, s.err.halts r = false) : s.haltingKind = none := by
  unfold State.haltingKind
  split
  · rw [List.find?_eq_none.mpr]
    · rfl
    · intro r hr; simp [h r hr]
  · rfl

/-- The reports that an access makes after its claimant's outcome. -/
def State.lateReports (s : State) (k : SetIdx) (f : List CellFault) : List Report :=
  if s.part = .run then (s.takeClaim.beginAccess k f).late else []

/-- An access that judges nothing: what its claimant wrote is what it leaves (R11). -/
theorem State.serve_spec (s : State) (k : SetIdx) (f : List CellFault) (outcome : Access → State) (u : State)
    (hu : s.undisturbed k f) (hout : outcome (s.takeClaim.beginAccess k f) = u)
    (hi : s.part = .run → u.unlistedSet k) : Served (s.lateReports k f) u (s.serve k f outcome) := by
  have hp := s.part_takeClaim
  by_cases hr : s.part = .run
  · have e1 : s.serve k f outcome =
        (State.queueStarts { u with reports := u.reports ++ (s.takeClaim.beginAccess k f).late }
          (allWays.flatMap (State.startsOf { u with reports := u.reports ++ (s.takeClaim.beginAccess k f).late }
            k []))).finish := by
      unfold State.serve State.access
      dsimp only
      rw [hp, if_pos hr, hout, hu.1, State.endOfAccess_unlisted]
      exact hi hr
    have e2 : s.lateReports k f = (s.takeClaim.beginAccess k f).late := if_pos hr
    rw [e1, e2]
    have h := Finishes.finish (State.queueStarts { u with reports := u.reports ++ (s.takeClaim.beginAccess k f).late }
          (allWays.flatMap (State.startsOf { u with reports := u.reports ++ (s.takeClaim.beginAccess k f).late }
            k [])))
    refine ⟨h.pwrok, h.resetN, h.part, h.walk, h.dir, h.cfg, h.pause, h.purge, h.integ, h.reports, h.spi, h.pending,
      ⟨_, h.queue⟩, h.inFlight, h.serves, h.entry, h.ports, h.waiter, h.outbox, h.outputs, fun hc => ?_⟩
    exact h.calm (State.haltingKind_none _ (by rw [h.reports] at hc; exact hc))
  · have e1 : s.serve k f outcome = u.finish := by
      unfold State.serve State.access
      dsimp only
      rw [hp, if_neg hr, hout]
    have e2 : s.lateReports k f = [] := if_neg hr
    rw [e1, e2]
    have h := Finishes.finish u
    refine ⟨h.pwrok, h.resetN, h.part, h.walk, h.dir, h.cfg, h.pause, h.purge, h.integ,
      by rw [List.append_nil]; exact h.reports, h.spi, h.pending,
      ⟨[], by rw [List.nil_append]; exact h.queue⟩, h.inFlight, h.serves, h.entry, h.ports, h.waiter, h.outbox, h.outputs,
      fun hc => ?_⟩
    exact h.calm (State.haltingKind_none _ (by rw [h.reports] at hc; exact hc))

/-- An access keeps the settings, the other sets and the record law, whatever is judged (R3, R11). -/
theorem State.serve_keeps (s : State) (k : SetIdx) (f : List CellFault) (outcome : Access → State)
    (h : Keeps k (s.checked k f) (outcome (s.takeClaim.beginAccess k f))) :
    (s.serve k f outcome).cfg = s.cfg ∧ (∀ j : Nat, j ≠ k.toNat → (s.serve k f outcome).dir.find j = s.dir.find j)
      ∧ (s.lawful → (s.serve k f outcome).lawful) := by
  have h1 : Keeps k s.takeClaim (s.takeClaim.access k f outcome) := Keeps.access _ _ _ h
  have h2 := Finishes.finish (s.takeClaim.access k f outcome)
  have hd := s.dir_takeClaim
  refine ⟨?_, fun j hj => ?_, fun l => ?_⟩
  · exact (h2.cfg.trans h1.cfg).trans (SameOutside.takeClaim s).cfg
  · show (State.finish _).dir.find j = _
    rw [h2.dir, h1.other j hj, hd]
  · exact (State.lawful_congr h2.dir).mpr (h1.law ((State.lawful_congr hd).mpr l))

end Sys2Proof.Machine
end

