-- ==== Sys2Proof/Laws/Calm.lean ====
section
/-! SUPPORT. A calm state settles by sending probes, listing accesses and raising claims alone; every event leaves a calm
state; a port outside the domain is left alone. -/

namespace Sys2Proof.Machine

/-! ### What sending probes leaves -/

/-- `t` comes from `s` by sending probes, listing accesses and raising claims. -/
structure Pumps (s t : State) : Prop where
  settles : Settles s t
  intake : t.intake = s.intake
  pool : t.pool = s.pool
  leave : t.leave = s.leave
  entry : ∀ e, (t.entry e).still = (s.entry e).still
  port : ∀ p, (t.port p).still = (s.port p).still
  outside : ∀ p, s.member p = false → t.port p = s.port p

theorem Pumps.refl (s : State) : Pumps s s :=
  ⟨.refl s, rfl, rfl, rfl, fun _ => rfl, fun _ => rfl, fun _ _ => rfl⟩

/-- A field that `Port.still` keeps. -/
theorem Port.of_still {α : Type} (g : Port → α) (hg : ∀ z : Port, g z.still = g z) {x y : Port}
    (h : y.still = x.still) : g y = g x := by rw [← hg y, h, hg x]

/-- A field that `Entry.still` keeps. -/
theorem Entry.of_still {α : Type} (g : Entry → α) (hg : ∀ z : Entry, g z.still = g z) {x y : Entry}
    (h : y.still = x.still) : g y = g x := by rw [← hg y, h, hg x]

theorem Port.still_state {x y : Port} (h : y.still = x.still) : y.state = x.state :=
  Port.of_still Port.state (fun _ => rfl) h

theorem member_of_still {s t : State} {p : Agent} (h : (t.port p).still = (s.port p).still) :
    t.member p = s.member p := by
  unfold State.member; rw [Port.still_state h]

theorem Pumps.trans {s t u : State} (h : Pumps s t) (g : Pumps t u) : Pumps s u :=
  ⟨h.settles.trans g.settles, g.intake.trans h.intake, g.pool.trans h.pool, g.leave.trans h.leave,
    fun e => (g.entry e).trans (h.entry e), fun p => (g.port p).trans (h.port p), fun p hp =>
      (g.outside p (by rw [member_of_still (h.port p)]; exact hp)).trans (h.outside p hp)⟩

theorem Pumps.updPort (s : State) (p : Agent) (f : Port → Port) (hp : s.member p = true)
    (h : ∀ q, (f q).still = q.still) : Pumps s (s.updPort p f) := by
  have hs : ∀ q, PortSettles q (f q) := fun q =>
    ⟨Port.of_still Port.enable (fun _ => rfl) (h q), Port.of_still Port.link (fun _ => rfl) (h q),
      Port.of_still Port.reqCredits (fun _ => rfl) (h q), Port.of_still Port.discards (fun _ => rfl) (h q),
      Port.of_still Port.lastFence (fun _ => rfl) (h q), Port.of_still Port.snapshot (fun _ => rfl) (h q)⟩
  refine ⟨Settles.updPort s p f hs, rfl, rfl, rfl, fun _ => rfl, fun q => ?_, fun q hq => ?_⟩
  · rw [State.port_updPort]
    split
    · rename_i hqp; subst hqp; exact h _
    · rfl
  · exact State.port_updPort_ne s f (fun hh => by subst hh; rw [hp] at hq; cases hq)

theorem Pumps.sendProbe (s : State) (p : Agent) (e : EntryIdx) (hp : s.member p = true) :
    Pumps s (s.sendProbe p e) := by
  have h1 : Pumps s (s.send p (s.probeMsg e)) := by
    refine ⟨Settles.send s p _, ?_, ?_, ?_, fun _ => ?_, fun _ => ?_, fun _ _ => ?_⟩ <;>
      (unfold State.send; rw [if_pos hp]) <;> rfl
  have h2 : ∀ u : State, Pumps u (u.updEntry e fun x => match x.probes.get p with
      | some b => { x with probes := x.probes.set p.val (some { b with status := .sent }) }
      | none => x) := by
    intro u
    refine ⟨Settles.updEntry u e _ (fun x => by split <;> rfl), rfl, rfl, rfl, fun i => ?_, fun _ => rfl,
      fun _ _ => rfl⟩
    rw [State.entry_updEntry]
    split
    · rename_i hi; subst hi; split <;> rfl
    · rfl
  unfold State.sendProbe
  dsimp only
  refine .trans (.trans h1 (h2 _)) (Pumps.updPort _ p _ ?_ fun _ => rfl)
  show State.member (State.send s p _) p = true
  unfold State.send; rw [if_pos hp]; exact hp

theorem Pumps.pumpQueue (p : Agent) (l : List EntryIdx) (s : State) (hp : s.member p = true) :
    Pumps s (State.pumpQueue p l s) := by
  induction l generalizing s with
  | nil => exact Pumps.updPort _ _ _ hp fun _ => rfl
  | cons e l ih =>
    unfold State.pumpQueue
    split
    · have h := Pumps.sendProbe s p e hp
      exact h.trans (ih _ (by rw [member_of_still (h.port p)]; exact hp))
    · exact Pumps.updPort _ _ _ hp fun _ => rfl

theorem Pumps.pump (s : State) : Pumps s s.pump := by
  unfold State.pump
  generalize allAgents = l
  induction l generalizing s with
  | nil => exact .refl s
  | cons p l ih =>
    refine .trans ?_ (ih _)
    unfold State.pumpPort
    split
    · rename_i hp; exact Pumps.pumpQueue _ _ _ hp
    · exact .refl s

theorem Pumps.listAccesses (s : State) : Pumps s s.listAccesses :=
  ⟨Settles.listAccesses s, rfl, rfl, rfl, fun _ => rfl, fun _ => rfl, fun _ _ => rfl⟩

theorem Pumps.refreshClaims (s : State) : Pumps s s.refreshClaims :=
  ⟨Settles.refreshClaims s, rfl, rfl, rfl, fun _ => rfl, fun _ => rfl, fun _ _ => rfl⟩

theorem Pumps.refreshService (s : State) : Pumps s s.refreshService := by
  refine ⟨Settles.refreshService s, ?_, ?_, ?_, fun _ => ?_, fun _ => ?_, fun _ _ => ?_⟩ <;>
    (unfold State.refreshService; split <;> [split; skip] <;> rfl)

/-! ### Calm states -/

theorem State.takeLeaves_calm (s : State)
    (h : ∀ r : Request, s.intake.head? = some r → r.kind = .leave → s.pause = true) (n : Nat) :
    State.takeLeaves n s = s := by
  cases n with
  | zero => rfl
  | succ n =>
    unfold State.takeLeaves
    split
    · rename_i r rest hi
      rw [if_neg]
      rintro ⟨hk, hp⟩
      rw [h r (by rw [hi]; rfl) hk] at hp
      cases hp
    · rfl

theorem State.sendLeaveDone_calm (s : State) (h : ∀ p : Agent, s.leave.port = some p → s.leaveDoneReady p = false) :
    s.sendLeaveDone = s := by
  unfold State.sendLeaveDone
  split
  · rename_i p hp
    rw [h p hp]; rfl
  · rfl

theorem State.enterWalk_calm (s : State) (h : ∀ p : Agent, s.leave.order.head? = some p → s.leave.port = none →
    (s.port p).state = .leaving .drain → s.hasTransaction p = true) : s.enterWalk = s := by
  unfold State.enterWalk
  split
  · rename_i p rest ho
    rw [if_neg]
    rintro ⟨h1, h2, h3⟩
    rw [h p (by rw [ho]; rfl) h1 h2] at h3
    cases h3
  · rfl

theorem State.setPort_self (s : State) (p : Agent) : s.setPort p (s.port p) = s := by
  have h : s.ports.set p.val (s.port p) = s.ports := by
    unfold State.port; exact Vector.set_getElem_self p.isLt
  unfold State.setPort; rw [h]

theorem State.pumpPort_pumped {s : State} {p : Agent}
    (h : s.member p = true → (s.port p).probeQueue ≠ [] → s.probeCredit p = false) : s.pumpPort p = s := by
  unfold State.pumpPort
  split
  · rename_i hm
    have hs : s.updPort p (fun x => { x with probeQueue := (s.port p).probeQueue }) = s := s.setPort_self p
    generalize hq : (s.port p).probeQueue = q at h hs ⊢
    cases q with
    | nil => exact hs
    | cons e rest =>
      unfold State.pumpQueue
      rw [h hm (List.cons_ne_nil _ _)]
      exact hs
  · rfl

/-- Where what can be sent has been sent, no port sends (R72). -/
theorem State.pump_pumped {s : State} (h : s.pumped) : s.pump = s := by
  unfold State.pump
  generalize allAgents = l
  induction l with
  | nil => rfl
  | cons p l ih => rw [List.foldl_cons, State.pumpPort_pumped (h p)]; exact ih

/-- A calm state settles without touching the intake queue, the pool, the leave walker or a port's state and credits. -/
theorem Pumps.settle {s : State} (h : s.calm) : Pumps s s.settle := by
  unfold State.settle
  split
  · rename_i hr
    obtain ⟨_, h1, h2, h3⟩ := h hr
    unfold State.settleRun
    rw [State.takeLeaves_calm s h1, State.sendLeaveDone_calm s h2, State.enterWalk_calm s h3]
    exact ((Pumps.pump s).trans (Pumps.listAccesses _)).trans (Pumps.refreshClaims _)
  · exact Pumps.refreshService s
  · exact ⟨.of_eq rfl, rfl, rfl, rfl, fun _ => rfl, fun _ => rfl, fun _ _ => rfl⟩

/-- A calm state settles by listing accesses and raising claims alone: nothing is sent, and no entry or port changes. -/
theorem State.settle_calm {s : State} (h : s.calm) :
    s.settle.tt = s.tt ∧ s.settle.ports = s.ports ∧ s.settle.outbox = s.outbox := by
  unfold State.settle
  split
  · rename_i hr
    obtain ⟨h0, h1, h2, h3⟩ := h hr
    unfold State.settleRun
    rw [State.takeLeaves_calm s h1, State.sendLeaveDone_calm s h2, State.enterWalk_calm s h3, State.pump_pumped h0]
    exact ⟨rfl, rfl, rfl⟩
  · unfold State.refreshService
    split <;> [split; skip] <;> exact ⟨rfl, rfl, rfl⟩
  · exact ⟨rfl, rfl, rfl⟩

/-- The whole end of an event in a calm state. -/
structure CalmEnd (s t : State) : Prop where
  ends : Finishes s t
  intake : t.intake = s.intake
  pool : t.pool = s.pool
  leave : t.leave = s.leave
  entry : ∀ e, (t.entry e).still = (s.entry e).still
  port : ∀ p, (t.port p).still = (s.port p).still
  outside : ∀ p, s.member p = false → t.port p = s.port p
  table : t.tt = s.tt
  ports : t.ports = s.ports
  outbox : t.outbox = s.outbox

theorem CalmEnd.finish {s : State} (h : s.calm) : CalmEnd s s.finish := by
  have g := Pumps.settle h
  have u := State.unreported_takeReports s.settle
  simp only [State.unreported, Prod.mk.injEq] at u
  obtain ⟨⟨_, _, _, _, _, u6, u7, _, u9⟩, u10, _, _, u13, _, u15, _, _, _⟩ := u
  obtain ⟨c1, c2, c3⟩ := State.settle_calm h
  refine ⟨Finishes.finish s, u10.trans g.intake, u7.trans g.pool, u13.trans g.leave, fun e => ?_, fun p => ?_,
    fun p hp => ?_, u6.trans c1, u9.trans c2, u15.trans c3⟩
  · show ((State.takeReports s.settle).entry e).still = _
    unfold State.entry; rw [u6]; exact g.entry e
  · show ((State.takeReports s.settle).port p).still = _
    unfold State.port; rw [u9]; exact g.port p
  · show (State.takeReports s.settle).port p = _
    unfold State.port; rw [u9]; exact g.outside p hp

/-! ### Every event ends calm -/

theorem State.poolSelects_congr {s t : State} (h : t.pool = s.pool) (f : Request → Bool) (i : PoolIdx) :
    t.poolSelects f i = s.poolSelects f i := by
  unfold State.poolSelects State.waiter; rw [h]

theorem State.selectedWaiters_congr {s t : State} (h : t.pool = s.pool)
    (hw : ∀ e, (t.entry e).waiters = (s.entry e).waiters) (f : Request → Bool) :
    t.selectedWaiters f = s.selectedWaiters f := by
  unfold State.selectedWaiters
  have hp : t.poolSelects f = s.poolSelects f := funext fun i => State.poolSelects_congr h f i
  have hq : (fun i => (t.waiter i).bind Waiter.request?) = fun i => (s.waiter i).bind Waiter.request? := by
    funext i; unfold State.waiter; rw [h]
  simp only [hp, hq, hw]

theorem State.leaveDoneReady_congr {s t : State} (h : Pumps s t) (p : Agent) :
    t.leaveDoneReady p = s.leaveDoneReady p := by
  unfold State.leaveDoneReady
  rw [h.leave, h.intake, State.selectedWaiters_congr h.pool (fun e => Entry.of_still Entry.waiters (fun _ => rfl) (h.entry e))]
  have : ∀ e, (t.entry e).pendingSet = (s.entry e).pendingSet := fun e => Entry.of_still Entry.pendingSet (fun _ => rfl) (h.entry e)
  simp only [this]

theorem State.hasTransaction_congr {s t : State} (h : ∀ e, (t.entry e).phase = (s.entry e).phase)
    (g : ∀ e, (t.entry e).requester = (s.entry e).requester) (p : Agent) :
    t.hasTransaction p = s.hasTransaction p := by
  unfold State.hasTransaction Entry.inUse
  simp only [h, g]

/-- What a calm state needs in RUN. -/
structure CalmRun (s : State) : Prop where
  head : ∀ r : Request, s.intake.head? = some r → r.kind = .leave → s.pause = true
  done : ∀ p : Agent, s.leave.port = some p → s.leaveDoneReady p = false
  walk : ∀ p : Agent, s.leave.order.head? = some p → s.leave.port = none → (s.port p).state = .leaving .drain →
    s.hasTransaction p = true

theorem CalmRun.pumps {s t : State} (h : Pumps s t) (g : CalmRun s) : CalmRun t := by
  refine ⟨?_, fun p hp => ?_, fun p ho hn hs => ?_⟩
  · rw [h.intake, h.settles.pause]; exact g.head
  · rw [h.leave] at hp
    rw [State.leaveDoneReady_congr h]; exact g.done p hp
  · rw [h.leave] at ho hn
    rw [Port.still_state (h.port p)] at hs
    rw [State.hasTransaction_congr (fun e => Entry.of_still Entry.phase (fun _ => rfl) (h.entry e))
      (fun e => Entry.of_still Entry.requester (fun _ => rfl) (h.entry e))]
    exact g.walk p ho hn hs

theorem State.intake_foldl_nack (l : List Request) (s : State) :
    (l.foldl (fun s r => (s.nackLeaving r).returnCredit r.port) s).intake = s.intake := by
  induction l generalizing s with
  | nil => rfl
  | cons r l ih =>
    rw [List.foldl_cons, ih]
    simp only [State.returnCredit, State.nackLeaving, State.reply, State.send]
    split <;> split <;> rfl

theorem State.intake_foldl_nackLeaving (l : List Request) (s : State) :
    (l.foldl State.nackLeaving s).intake = s.intake := by
  induction l generalizing s with
  | nil => rfl
  | cons r l ih =>
    rw [List.foldl_cons, ih]
    simp only [State.nackLeaving, State.reply, State.send]
    split <;> rfl

theorem State.length_takeLeave (s : State) (p : Agent) : (s.takeLeave p).intake.length ≤ s.intake.length := by
  unfold State.takeLeave
  dsimp only
  split
  · unfold State.refuseWaiting
    rw [State.intake_foldl_nackLeaving]
    show (State.refuseQueued _ p).intake.length ≤ _
    unfold State.refuseQueued
    rw [State.intake_foldl_nack]
    show (List.filter _ (State.startDrain _ p).intake).length ≤ _
    refine (List.length_filter_le _ _).trans ?_
    show (State.returnCredit s p).intake.length ≤ _
    rw [State.intake_returnCredit]
  · rw [State.intake_returnCredit]

theorem State.head_takeLeaves (n : Nat) (s : State) (h : s.intake.length ≤ n) :
    ∀ r : Request, (State.takeLeaves n s).intake.head? = some r → r.kind = .leave →
      (State.takeLeaves n s).pause = true := by
  induction n generalizing s with
  | zero =>
    intro r hr
    have : s.intake = [] := List.length_eq_zero_iff.mp (Nat.le_zero.mp h)
    unfold State.takeLeaves at hr
    rw [this] at hr; cases hr
  | succ n ih =>
    unfold State.takeLeaves
    split
    · rename_i q rest hi
      split
      · apply ih
        refine (State.length_takeLeave _ _).trans ?_
        show rest.length ≤ n
        rw [hi] at h
        simpa using h
      · rename_i hn
        intro r hr hk
        rw [hi] at hr
        cases hr
        by_contra hp
        exact hn ⟨hk, by simpa using hp⟩
    · rename_i hi
      intro r hr
      rw [hi] at hr; cases hr

theorem State.intake_sendLeaveDone (s : State) : s.sendLeaveDone.intake = s.intake := by
  unfold State.sendLeaveDone
  split
  · split
    · unfold State.send; split <;> rfl
    · rfl
  · rfl

theorem State.intake_enterWalk (s : State) : s.enterWalk.intake = s.intake := by
  unfold State.enterWalk; split <;> [split; skip] <;> rfl

theorem State.done_sendLeaveDone (s : State) :
    ∀ p : Agent, s.sendLeaveDone.leave.port = some p → s.sendLeaveDone.leaveDoneReady p = false := by
  unfold State.sendLeaveDone
  split
  · rename_i q hq
    split
    · intro p hp; cases hp
    · rename_i hn
      intro p hp
      rw [hq] at hp; cases hp
      simpa using hn
  · rename_i hq
    intro p hp
    rw [hq] at hp; cases hp

theorem CalmRun.settleRun (s : State) : CalmRun s.settleRun := by
  unfold State.settleRun
  have h1 := State.head_takeLeaves s.intake.length s (Nat.le_refl _)
  generalize State.takeLeaves s.intake.length s = a at h1 ⊢
  have h2 := State.done_sendLeaveDone a
  have hi : a.sendLeaveDone.intake = a.intake := State.intake_sendLeaveDone a
  have hp : a.sendLeaveDone.pause = a.pause := (Settles.sendLeaveDone a).pause
  have h3 : CalmRun a.sendLeaveDone.enterWalk := by
    generalize a.sendLeaveDone = b at h2 hi hp
    have hi2 := State.intake_enterWalk b
    have hp2 := (Settles.enterWalk b).pause
    refine ⟨by rw [hi2, hi, hp2, hp]; exact h1, ?_, ?_⟩
    · unfold State.enterWalk
      split
      · split
        · intro p _
          show State.leaveDoneReady _ p = false
          unfold State.leaveDoneReady
          rfl
        · exact h2
      · exact h2
    · unfold State.enterWalk
      split
      · rename_i q rest ho
        split
        · intro p _ hn; cases hn
        · rename_i hn
          intro p ho' hn' hs
          rw [ho] at ho'
          cases ho'
          by_contra hh
          exact hn ⟨hn', hs, by simpa using hh⟩
      · rename_i ho
        intro p ho'
        rw [ho] at ho'; cases ho'
  have h4 := ((Pumps.pump a.sendLeaveDone.enterWalk).trans (Pumps.listAccesses _)).trans (Pumps.refreshClaims _)
  exact CalmRun.pumps h4 h3

theorem State.calm_of_eq {s t : State} (hi : t.intake = s.intake) (hp : t.pause = s.pause) (hl : t.leave = s.leave)
    (ht : t.tt = s.tt) (hw : t.pool = s.pool) (hq : t.ports = s.ports) (h : CalmRun s) : CalmRun t := by
  have he : ∀ e, t.entry e = s.entry e := fun e => by unfold State.entry; rw [ht]
  refine ⟨by rw [hi, hp]; exact h.head, fun p h1 => ?_, fun p h1 h2 h3 => ?_⟩
  · rw [hl] at h1
    have := h.done p h1
    unfold State.leaveDoneReady at this ⊢
    rw [hl, hi, State.selectedWaiters_congr hw (fun e => by rw [he])]
    simp only [he]
    exact this
  · rw [hl] at h1 h2
    have h3' : (s.port p).state = .leaving .drain := by unfold State.port at h3 ⊢; rw [← hq]; exact h3
    rw [State.hasTransaction_congr (s := s) (fun e => by rw [he]) (fun e => by rw [he])]
    exact h.walk p h1 h2 h3'

theorem State.pumped_congr {s t : State} (hp : ∀ p, t.port p = s.port p)
    (hc : t.cfg.probeCredits = s.cfg.probeCredits) (h : s.pumped) : t.pumped := by
  intro p hm hq
  have := h p (by unfold State.member at hm ⊢; rw [← hp]; exact hm) (by rw [← hp]; exact hq)
  unfold State.probeCredit at this ⊢
  rw [hp, hc]; exact this

theorem State.port_sendProbe_ne (s : State) {p q : Agent} (e : EntryIdx) (h : q ≠ p) :
    (s.sendProbe p e).port q = s.port q := by
  unfold State.sendProbe
  dsimp only
  rw [State.port_updPort_ne _ _ h]
  show State.port (s.send p _) q = _
  unfold State.send; split <;> rfl

theorem State.port_pumpQueue_ne {p q : Agent} (h : q ≠ p) (l : List EntryIdx) (s : State) :
    (State.pumpQueue p l s).port q = s.port q := by
  induction l generalizing s with
  | nil => exact State.port_updPort_ne s _ h
  | cons e l ih =>
    unfold State.pumpQueue
    split
    · rw [ih, State.port_sendProbe_ne s e h]
    · exact State.port_updPort_ne s _ h

theorem State.pumpQueue_done (p : Agent) (l : List EntryIdx) (s : State) :
    ((State.pumpQueue p l s).port p).probeQueue = [] ∨ (State.pumpQueue p l s).probeCredit p = false := by
  induction l generalizing s with
  | nil => left; unfold State.pumpQueue; rw [State.port_updPort_same]
  | cons e l ih =>
    unfold State.pumpQueue
    split
    · exact ih _
    · rename_i hc
      right
      unfold State.probeCredit at hc ⊢
      rw [State.port_updPort_same]
      exact eq_false_of_ne_true hc

theorem State.port_pumpPort_ne {p q : Agent} (h : q ≠ p) (s : State) : (s.pumpPort p).port q = s.port q := by
  unfold State.pumpPort; split
  · exact State.port_pumpQueue_ne h _ _
  · rfl

theorem Pumps.pumpPort (s : State) (p : Agent) : Pumps s (s.pumpPort p) := by
  unfold State.pumpPort; split
  · rename_i hp; exact Pumps.pumpQueue _ _ _ hp
  · exact .refl s

/-- After the sends of an event what can be sent has been sent (R72). -/
theorem State.pumped_pump (s : State) : s.pump.pumped := by
  intro p hm hq
  unfold State.pump at hm hq ⊢
  have hp : p ∈ allAgents := List.mem_finRange p
  have hn : allAgents.Nodup := List.nodup_finRange 8
  revert hm hq hp hn
  generalize allAgents = l
  induction l generalizing s with
  | nil => intro _ _ hp; cases hp
  | cons a l ih =>
    rw [List.foldl_cons]
    intro hm hq hp hn
    obtain ⟨ha, hn⟩ := List.nodup_cons.mp hn
    rcases List.mem_cons.mp hp with rfl | hp
    · have frame : ∀ (l : List Agent) (t : State), p ∉ l → (l.foldl State.pumpPort t).port p = t.port p
          ∧ (l.foldl State.pumpPort t).cfg = t.cfg := by
        intro l
        induction l with
        | nil => exact fun _ _ => ⟨rfl, rfl⟩
        | cons b l ih2 =>
          intro t ht
          rw [List.mem_cons, not_or] at ht
          obtain ⟨i1, i2⟩ := ih2 (t.pumpPort b) ht.2
          rw [List.foldl_cons]
          exact ⟨i1.trans (State.port_pumpPort_ne ht.1 t), i2.trans (Pumps.pumpPort t b).settles.cfg⟩
      obtain ⟨f1, f2⟩ := frame l (s.pumpPort p) ha
      have hm' : s.member p = true := by
        rw [← member_of_still ((Pumps.pumpPort s p).port p)]
        unfold State.member at hm ⊢; rw [← f1]; exact hm
      rw [f1] at hq
      have hd := State.pumpQueue_done p (s.port p).probeQueue s
      have he : s.pumpPort p = State.pumpQueue p (s.port p).probeQueue s := by unfold State.pumpPort; rw [if_pos hm']
      unfold State.probeCredit
      rw [f1, f2]
      rw [he] at hq ⊢
      exact hd.resolve_left hq
    · exact ih _ hm hq hp hn

theorem State.pumped_settleRun (s : State) : s.settleRun.pumped := by
  unfold State.settleRun
  generalize (State.takeLeaves s.intake.length s).sendLeaveDone.enterWalk = b
  have h := State.pumped_pump b
  generalize b.pump = c at h
  exact State.pumped_congr (s := c) (fun _ => rfl) rfl h

/-- Every event that ends as an event does ends calm (R72, R112, R124, R127). -/
theorem State.calm_finish (s : State) : s.finish.calm := by
  have u := State.unreported_takeReports s.settle
  simp only [State.unreported, Prod.mk.injEq] at u
  obtain ⟨⟨_, _, _, _, u5, u6, u7, u8, u9⟩, u10, _, _, u13, _, _, _, _, _⟩ := u
  intro hr
  have hp : s.part = .run := by
    rcases (Finishes.finish s).part with h | h
    · rw [← h]; exact hr
    · rw [h] at hr; cases hr
  have hs : s.settle = s.settleRun := by unfold State.settle; rw [hp]
  have h := State.calm_of_eq (s := s.settleRun) (t := s.finish) (by rw [← hs]; exact u10) (by rw [← hs]; exact u8)
    (by rw [← hs]; exact u13) (by rw [← hs]; exact u6) (by rw [← hs]; exact u7) (by rw [← hs]; exact u9)
    (CalmRun.settleRun s)
  have hq : s.settleRun.pumped := State.pumped_settleRun s
  refine ⟨State.pumped_congr (s := s.settleRun) (t := State.takeReports s.settle) (fun p => ?_) ?_ hq, h.head, h.done,
    h.walk⟩
  · exact congrArg (fun x : Vector Port 8 => x.get p) (u9.trans (congrArg State.ports hs))
  · exact congrArg Settings.probeCredits (u5.trans (congrArg State.cfg hs))

/-- Calmness is a matter of the intake queue, the pause flag, the leave walker, the entries, the pool, PROBE_CREDITS and
the ports' states, probe queues and sends. -/
theorem State.calm_congr {s t : State} (hp : t.part = s.part) (hi : t.intake = s.intake) (hz : t.pause = s.pause)
    (hl : t.leave = s.leave) (ht : t.tt = s.tt) (hw : t.pool = s.pool)
    (hc : t.cfg.probeCredits = s.cfg.probeCredits) (hs : ∀ p, (t.port p).state = (s.port p).state
      ∧ (t.port p).probeQueue = (s.port p).probeQueue ∧ (t.port p).sends = (s.port p).sends) (h : s.calm) :
    t.calm := by
  intro hr
  obtain ⟨h0, h1, h2, h3⟩ := h (hp ▸ hr)
  have he : ∀ e, t.entry e = s.entry e := fun e => by unfold State.entry; rw [ht]
  refine ⟨fun p hm hq => ?_, by rw [hi, hz]; exact h1, fun p h' => ?_, fun p ho hn hd => ?_⟩
  · obtain ⟨s1, s2, s3⟩ := hs p
    have := h0 p (by unfold State.member at hm ⊢; rw [← s1]; exact hm) (by rw [← s2]; exact hq)
    unfold State.probeCredit at this ⊢
    rw [s3, hc]; exact this
  · rw [hl] at h'
    have := h2 p h'
    unfold State.leaveDoneReady at this ⊢
    rw [hl, hi, State.selectedWaiters_congr hw (fun e => by rw [he])]
    simp only [he]
    exact this
  · rw [hl] at ho hn
    rw [(hs p).1] at hd
    rw [State.hasTransaction_congr (s := s) (fun e => by rw [he]) (fun e => by rw [he])]
    exact h3 p ho hn hd

/-! ### Ports that come up (R106) -/

/-- What entering ACTIVE writes to the port. -/
def Port.raised (q : Port) : Port :=
  { q with state := .active, credits := q.reqCredits, tags := 0, probeQueue := [], sends := [] }

theorem State.port_activate (s : State) (p q : Agent) :
    (s.activate p).port q = if q = p then (s.port p).raised else s.port q :=
  (show (s.activate p).port q = (s.updPort p Port.raised).port q from rfl).trans (State.port_updPort s p q _)

theorem State.trainUp_run (s : State) (p : Agent) (hr : s.part = .run) :
    s.trainUp p = if (s.port p).state = .training then s.activate p else s := by
  unfold State.trainUp; simp [hr]

theorem State.trainUp_other (s : State) (p : Agent) (hr : s.part ≠ .run) : s.trainUp p = s := by
  unfold State.trainUp; rw [if_neg]; rintro ⟨h, _⟩; exact hr h

/-! ### A port outside the domain -/

/-- Port `p` is outside the domain, owes no request and is not served by the leave walker. -/
structure Apart (p : Agent) (s : State) : Prop where
  member : s.member p = false
  intake : ∀ r ∈ s.intake, r.port ≠ p
  walker : s.leave.port ≠ some p

/-- `t` leaves port `p` as it was, and apart. -/
def LeavesApart (p : Agent) (s t : State) : Prop := Apart p s → t.port p = s.port p ∧ Apart p t

theorem LeavesApart.trans {p : Agent} {s t u : State} (h : LeavesApart p s t) (g : LeavesApart p t u) :
    LeavesApart p s u := fun a => by
  obtain ⟨h1, h2⟩ := h a
  obtain ⟨g1, g2⟩ := g h2
  exact ⟨g1.trans h1, g2⟩

theorem Apart.of_port {p : Agent} {s t : State} (h : Apart p s) (hp : t.port p = s.port p)
    (hi : ∀ r ∈ t.intake, r ∈ s.intake) (hw : t.leave.port ≠ some p) : t.port p = s.port p ∧ Apart p t :=
  ⟨hp, by unfold State.member; rw [hp]; exact h.member, fun r hr => h.intake r (hi r hr), hw⟩

theorem LeavesApart.pumps {p : Agent} {s t : State} (h : Pumps s t) : LeavesApart p s t := fun a =>
  a.of_port (h.outside p a.member) (by rw [h.intake]; exact fun _ => id) (by rw [h.leave]; exact a.walker)

theorem LeavesApart.reply {p q : Agent} (s : State) (tag : ReqTag) (m : OutMsg) (hq : q ≠ p) :
    LeavesApart p s (s.reply q tag m) := fun a => by
  refine a.of_port ?_ ?_ ?_
  · unfold State.reply
    rw [State.port_updPort_ne _ _ (Ne.symm hq)]
    unfold State.send; split <;> rfl
  · unfold State.reply State.send; split <;> exact fun _ => id
  · unfold State.reply State.send; split <;> exact a.walker

theorem LeavesApart.returnCredit {p q : Agent} (s : State) (hq : q ≠ p) : LeavesApart p s (s.returnCredit q) := fun a => by
  have h : (s.returnCredit q).port p = s.port p := by
    rw [State.port_returnCredit, if_neg (Ne.symm hq)]
  refine a.of_port h ?_ ?_
  · rw [State.intake_returnCredit]; exact fun _ => id
  · unfold State.returnCredit State.send; split <;> exact a.walker

theorem LeavesApart.foldl {α : Type} {p : Agent} (g : State → α → State) (l : List α)
    (h : ∀ s, ∀ a ∈ l, LeavesApart p s (g s a)) (s : State) : LeavesApart p s (l.foldl g s) := by
  induction l generalizing s with
  | nil => exact fun a => ⟨rfl, a⟩
  | cons a l ih =>
    exact (h s a (List.mem_cons_self ..)).trans (ih (fun s b hb => h s b (List.mem_cons_of_mem _ hb)) _)

theorem State.selectedWaiters_sel {s : State} {f : Request → Bool} {r : Request} (h : r ∈ s.selectedWaiters f) :
    f r = true := by
  unfold State.selectedWaiters at h
  simp only [List.mem_flatMap, List.mem_filterMap, List.mem_filter] at h
  obtain ⟨e, _, i, ⟨_, hs⟩, hi⟩ := h
  unfold State.poolSelects at hs
  rw [hi] at hs
  exact hs

theorem LeavesApart.startDrain {p q : Agent} (s : State) (hq : q ≠ p) : LeavesApart p s (s.startDrain q) := fun a =>
  a.of_port (by unfold State.startDrain; rw [State.port_updLeave, State.port_updPort_ne _ _ (Ne.symm hq)]) (fun _ => id)
    a.walker

theorem LeavesApart.setIntake {p : Agent} (s : State) (l : List Request) (h : ∀ r ∈ l, r ∈ s.intake) :
    LeavesApart p s (s.setIntake l) := fun a => a.of_port rfl h a.walker

theorem LeavesApart.removeWaiters {p : Agent} (s : State) (f : Request → Bool) :
    LeavesApart p s (s.removeWaiters f) := fun a => a.of_port rfl (fun _ => id) a.walker

theorem LeavesApart.takeLeave {p q : Agent} (s : State) (hq : q ≠ p) : LeavesApart p s (s.takeLeave q) := by
  have hg : ∀ r : Request, grantOf q r = true → r.port ≠ p := by
    intro r hr hp
    unfold grantOf at hr
    simp only [Bool.and_eq_true, decide_eq_true_eq] at hr
    exact hq (hr.1.symm.trans hp)
  unfold State.takeLeave
  dsimp only
  split
  · have hf : ∀ r ∈ List.filter (grantOf q) (State.startDrain (s.returnCredit q) q).intake, r.port ≠ p := fun r hr =>
      hg r (List.mem_filter.mp hr).2
    refine .trans (.trans (.trans (LeavesApart.returnCredit s hq) (LeavesApart.startDrain _ hq))
      (.trans (LeavesApart.setIntake _ _ fun r hr => (List.mem_filter.mp hr).1)
        (LeavesApart.foldl _ _ (fun s r hr => ?_) _)))
      (.trans (LeavesApart.removeWaiters _ _) (LeavesApart.foldl _ _ (fun s r hr => ?_) _))
    · exact (LeavesApart.reply s _ _ (hf r hr)).trans (LeavesApart.returnCredit _ (hf r hr))
    · exact LeavesApart.reply s _ _ (hg r (State.selectedWaiters_sel hr))
  · exact LeavesApart.returnCredit s hq

theorem LeavesApart.takeLeaves {p : Agent} (n : Nat) (s : State) : LeavesApart p s (State.takeLeaves n s) := by
  induction n generalizing s with
  | zero => exact fun a => ⟨rfl, a⟩
  | succ n ih =>
    unfold State.takeLeaves
    split
    · rename_i r rest hi
      split
      · intro a
        have hr : r.port ≠ p := a.intake r (by rw [hi]; exact List.mem_cons_self ..)
        have h1 : LeavesApart p s (s.setIntake rest) :=
          LeavesApart.setIntake s rest fun q hq => by rw [hi]; exact List.mem_cons_of_mem _ hq
        exact ((h1.trans (LeavesApart.takeLeave _ hr)).trans (ih _)) a
      · exact fun a => ⟨rfl, a⟩
    · exact fun a => ⟨rfl, a⟩

theorem LeavesApart.sendLeaveDone {p : Agent} (s : State) : LeavesApart p s s.sendLeaveDone := by
  unfold State.sendLeaveDone
  split
  · rename_i q hq
    split
    · intro a
      have hne : p ≠ q := fun h => a.walker (by rw [h]; exact hq)
      refine a.of_port ?_ ?_ (by intro h; cases h)
      · unfold State.portLeft
        rw [State.port_updLeave, State.port_updPort_ne _ _ hne, State.port_send]
      · show ∀ r ∈ (s.send q .leaveDone).intake, r ∈ s.intake
        rw [State.intake_send]; exact fun _ => id
    · exact fun a => ⟨rfl, a⟩
  · exact fun a => ⟨rfl, a⟩

theorem LeavesApart.enterWalk {p : Agent} (s : State) : LeavesApart p s s.enterWalk := by
  unfold State.enterWalk
  split
  · rename_i q rest _
    split
    · rename_i h
      intro a
      have hne : p ≠ q := by
        intro hp
        have := a.member
        unfold State.member at this
        rw [hp, h.2.1] at this
        cases this
      refine a.of_port (by rw [State.port_updLeave, State.port_updPort_ne _ _ hne]) (fun _ => id) ?_
      intro hh; cases hh; exact hne rfl
    · exact fun a => ⟨rfl, a⟩
  · exact fun a => ⟨rfl, a⟩

/-- The end of an event leaves a port outside the domain as it is. -/
theorem LeavesApart.finish {p : Agent} (s : State) : LeavesApart p s s.finish := by
  have h : LeavesApart p s s.settle := by
    unfold State.settle
    split
    · exact (((LeavesApart.takeLeaves _ s).trans (LeavesApart.sendLeaveDone _)).trans (LeavesApart.enterWalk _)).trans
        (LeavesApart.pumps (((Pumps.pump _).trans (Pumps.listAccesses _)).trans (Pumps.refreshClaims _)))
    · exact LeavesApart.pumps (Pumps.refreshService s)
    · exact fun a => a.of_port rfl (fun _ => id) a.walker
  have u := State.unreported_takeReports s.settle
  simp only [State.unreported, Prod.mk.injEq] at u
  obtain ⟨⟨_, _, _, _, _, _, _, _, u9⟩, u10, _, _, u13, _, _, _, _, _⟩ := u
  refine h.trans fun a => a.of_port ?_ ?_ ?_
  · show (State.takeReports s.settle).port p = _
    unfold State.port; rw [u9]
  · show ∀ r ∈ (State.takeReports s.settle).intake, _
    rw [u10]; exact fun _ => id
  · show (State.takeReports s.settle).leave.port ≠ _
    rw [u13]; exact a.walker

end Sys2Proof.Machine
end

