-- ==== Sys2Proof/Laws/Fence.lean ====
section
/-! SUPPORT. What a fence leaves (R114, R115), before and after the end of its event. -/

namespace Sys2Proof.Machine

theorem has_without_self {n : Nat} (x : BitVec n) (i : Nat) : has (without x i) i = false := by
  simp [has, without, BitVec.getLsbD_twoPow]

/-- Everything but the leave walker and the claims. -/
def State.unleaving (s : State) :=
  ((s.part, s.dir, s.cfg, s.tt, s.pool, s.ports, s.intake), (s.reports, s.err, s.integ, s.svc, s.purge))

theorem State.unleaving_abandonLeave (s : State) (p : Agent) : (s.abandonLeave p).unleaving = s.unleaving := by
  unfold State.abandonLeave; split <;> rfl

theorem State.walker_abandonLeave (s : State) (p : Agent) : (s.abandonLeave p).leave.port ≠ some p := by
  unfold State.abandonLeave
  split
  · simp
  · assumption

/-- What the fence event itself leaves, from the state `s` before it. -/
structure FenceLeaves (s t : State) (p : Agent) (c : FenceCause) : Prop where
  port : t.port p = { s.port p with
    state := .fenced, tags := 0, credits := 0, lastFence := some c, snapshot := s.inUseSet, probeQueue := [], sends := [] }
  intake : ∀ r ∈ t.intake, r.port ≠ p
  waiter : ∀ i r, t.waiter i = some (.request r) → r.port ≠ p
  probes : ∀ e, has (s.entry e).pendingSet p = true →
    has (t.entry e).pendingSet p = false ∧ (t.entry e).answers.get p = some .fenceGone
  walker : t.leave.port ≠ some p
  part : t.part = s.part
  dir : t.dir = s.dir
  cfg : t.cfg = s.cfg
  err : t.err = s.err
  reports : t.reports = s.reports
  svc : t.svc = s.svc

/-- The fence event in RUN before the end of its event: all but the joining of the purge set. -/
def State.fenceBody (s : State) (p : Agent) (c : FenceCause) : State :=
  let v := (s.fencePortState p c).abandonLeave p
  ((v.setIntake (v.intake.filter fun r => decide (r.port ≠ p))).removeWaiters fun r => decide (r.port = p)).endAllProbes p

theorem State.fenceRun_body (s : State) (p : Agent) (c : FenceCause) :
    s.fenceRun p c = if s.inUseSet = 0 then (s.fenceBody p c).joinPurge p else s.fenceBody p c := rfl

theorem FenceLeaves.body (s : State) (p : Agent) (c : FenceCause) : FenceLeaves s (s.fenceBody p c) p c := by
  unfold State.fenceBody
  have hu := State.unleaving_abandonLeave (s.fencePortState p c) p
  have hw := State.walker_abandonLeave (s.fencePortState p c) p
  generalize (s.fencePortState p c).abandonLeave p = v at hu hw
  simp only [State.unleaving, Prod.mk.injEq] at hu
  obtain ⟨⟨h1, h2, h3, h4, h5, h6, _⟩, h8, h9, _, h11, _⟩ := hu
  have hv : v.port p = (s.fencePortState p c).port p := by unfold State.port; rw [h6]
  have hv' : (s.fencePortState p c).port p = _ := State.port_updPort_same s p _
  refine ⟨?_, ?_, ?_, ?_, hw, h1, h2, h3, h9, h8, h11⟩
  · refine (State.port_updPort_same _ p _).trans ?_
    show { v.port p with probeQueue := [], sends := [] } = _
    rw [hv, hv']
  · intro r hr
    have := (List.mem_filter.mp hr).2
    simpa using this
  · intro i r hi
    have hi' : (mapVec (freeSelected fun r => decide (r.port = p)) v.pool).get i = some (.request r) := hi
    rw [get_mapVec] at hi'
    unfold freeSelected at hi'
    split at hi'
    · split at hi'
      · cases hi'
      · rename_i r' hr' hn
        rw [hi'] at hr'
        cases hr'
        simpa using hn
    · rename_i hn
      rw [hi'] at hn; cases hn
  · intro e he
    have : ∀ f : Entry → Entry, (∀ x, (f x).pendingSet = x.pendingSet) →
        has ((mapVec (Entry.fenceProbe p) (mapVec f v.tt)).get e).pendingSet p = false
          ∧ ((mapVec (Entry.fenceProbe p) (mapVec f v.tt)).get e).answers.get p = some .fenceGone := by
      intro f hf
      rw [get_mapVec, get_mapVec, h4]
      unfold Entry.fenceProbe
      rw [if_pos (by rw [hf]; exact he)]
      exact ⟨has_without_self _ _, Vector.get_set_self _ _ _⟩
    exact this _ fun _ => rfl

theorem FenceLeaves.run (s : State) (p : Agent) (c : FenceCause) : FenceLeaves s (s.fenceRun p c) p c := by
  have h := FenceLeaves.body s p c
  rw [State.fenceRun_body]
  split
  · exact ⟨h.port, h.intake, h.waiter, h.probes, h.walker, h.part, h.dir, h.cfg, h.err, h.reports, h.svc⟩
  · exact h

theorem State.fenceBody_kept (s : State) (p : Agent) (c : FenceCause) :
    (s.fenceBody p c).purge = s.purge ∧ (s.fenceBody p c).integ = s.integ := by
  have hu := State.unleaving_abandonLeave (s.fencePortState p c) p
  simp only [State.unleaving, Prod.mk.injEq] at hu
  obtain ⟨_, _, _, h10, _, h12⟩ := hu
  exact ⟨h12, h10⟩

/-- The purge set and the integrity unit after a fence in RUN (R119). -/
theorem State.fenceRun_kept (s : State) (p : Agent) (c : FenceCause) :
    (s.fenceRun p c).integ = s.integ ∧ (s.fenceRun p c).purge =
      if s.inUseSet = 0 then { s.purge with starts := s.purge.starts.set p.val (some s.purge.pos) } else s.purge := by
  obtain ⟨h1, h2⟩ := s.fenceBody_kept p c
  rw [State.fenceRun_body]
  generalize s.fenceBody p c = b at h1 h2
  split
  · refine ⟨h2, ?_⟩
    unfold State.joinPurge
    rw [h1]
  · exact ⟨h2, h1⟩

/-- A cause of a fence at a port of the domain, in RUN. -/
theorem State.fence_run (s : State) (p : Agent) (c : FenceCause) (n : Option Txn) (l : Option Line)
    (hr : s.part = .run) (hm : s.member p = true) : s.fence p c n l =
      (s.fenceRun p c).fenceDamage.report { kind := .agentFenced, agent := some p, txn := n, line := l } := by
  unfold State.fence
  rw [if_pos hm, if_neg (by rw [hr]; decide)]

/-- A cause of a fence at a port outside the domain does nothing (R114). -/
theorem State.fence_outside (s : State) (p : Agent) (c : FenceCause) (n : Option Txn) (l : Option Line)
    (hm : s.member p = false) : s.fence p c n l = s := by
  unfold State.fence
  rw [if_neg (by rw [hm]; decide)]

/-- A fence in RUN at the end of its event. -/
theorem State.fence_cutOff (s : State) (p : Agent) (c : FenceCause) (n : Option Txn) (l : Option Line)
    (hr : s.part = .run) (hm : s.member p = true) :
    s.cutOff (s.fence p c n l).finish p c
      ∧ (s.fence p c n l).finish.port p = (s.fenceRun p c).port p
      ∧ (s.fence p c n l).finish.reports =
          s.reports ++ [{ kind := .agentFenced, agent := some p, txn := n, line := l }] := by
  have S := FenceLeaves.run s p c
  have e := s.fence_run p c n l hr hm
  obtain ⟨K1, K2⟩ := s.fenceRun_kept p c
  generalize s.fenceRun p c = w at S e K1 K2 ⊢
  have A : Apart p (s.fence p c n l) := by
    rw [e]
    refine ⟨?_, S.intake, S.walker⟩
    show (w.port p).state.member = false
    rw [S.port]; rfl
  have F := Finishes.finish (s.fence p c n l)
  obtain ⟨hp, A2⟩ := LeavesApart.finish _ A
  have hpw : (s.fence p c n l).finish.port p = w.port p := hp.trans (by rw [e]; rfl)
  have hP : (s.fence p c n l).finish.purge = w.purge := F.purge.trans (by rw [e]; rfl)
  refine ⟨⟨?_, ?_, ?_, ?_, ?_, ?_, ?_, A2.intake, fun i r hi => ?_, fun i he => ?_, A2.walker, fun h0 => ?_, fun h0 => ?_,
    ?_⟩, hpw, ?_⟩
  iterate 7 rw [hpw, S.port]
  · have := F.waiter i _ hi
    rw [e] at this
    exact S.waiter i r this
  · rw [Entry.of_core Entry.pendingSet (fun _ => rfl) (F.entry i),
      Entry.of_core Entry.answers (fun _ => rfl) (F.entry i), e]
    exact S.probes i he
  · rw [hP, K2, if_pos h0]
    exact ⟨Vector.get_set_self _ _ _, rfl, fun a ha => Vector.get_set_other _ _ ha⟩
  · rw [hP, K2, if_neg h0]
  · rw [F.integ, e]
    show (w.integ.fenceMark || decide (0 < w.integ.damaged)) = _
    rw [K1]
  · rw [F.reports, e]
    show w.reports ++ _ = _
    rw [S.reports]

end Sys2Proof.Machine
end

