-- ==== Sys2Proof/Laws/Frames.lean ====
section
/-! SUPPORT. What an event on the pins of the service port can do, and the bits of a frame as a number (R177, R190). -/

namespace Sys2Proof.Machine

@[simp] theorem length_firstBits {w : Nat} (x : BitVec w) (n : Nat) : (firstBits x n).length = n := by
  rw [firstBits, List.length_map, List.length_range]

/-- A frame of one bit more has that bit at its end. -/
theorem firstBits_succ {w : Nat} (x : BitVec w) (n : Nat) : firstBits x (n + 1) = firstBits x n ++ [x.getMsbD n] := by
  rw [firstBits, List.range_succ, List.map_append]; rfl

@[simp] theorem bitsValue_append (l : List Bool) (b : Bool) : bitsValue (l ++ [b]) = 2 * bitsValue l + b.toNat := by
  rw [bitsValue, List.foldl_append]; rfl

/-- The first bits of a word spell its high part. -/
theorem bitsValue_firstBits {w : Nat} (x : BitVec w) (n : Nat) (h : n ≤ w) :
    bitsValue (firstBits x n) = x.toNat / 2 ^ (w - n) := by
  induction n with
  | zero => rw [Nat.sub_zero, Nat.div_eq_of_lt x.isLt]; rfl
  | succ n ih =>
    obtain ⟨m, rfl⟩ : ∃ m, w = n + 1 + m := ⟨w - (n + 1), by omega⟩
    have hm : n + 1 + m - n = m + 1 := by omega
    have hb : x.getMsbD n = x.toNat.testBit m := by
      rw [BitVec.getMsbD_eq_getLsbD, BitVec.getLsbD]
      have : n + 1 + m - 1 - n = m := by omega
      rw [this, decide_eq_true (by omega), Bool.true_and]
    rw [firstBits_succ, bitsValue_append, ih (by omega), hm, Nat.add_sub_cancel_left, hb, Nat.testBit_eq_decide_div_mod_eq,
      Nat.pow_succ, ← Nat.div_div_eq_div_mul]
    rcases Nat.mod_two_eq_zero_or_one (x.toNat / 2 ^ m) with h0 | h0 <;> simp [h0] <;> omega

/-- Only the last address bit and the last data bit carry a frame out. -/
theorem carryOf_none {bits : List Bool} (h : bits.length ≠ 24) (h' : bits.length ≠ 56) : carryOf bits = none := by
  unfold carryOf
  rw [if_neg h, if_neg (fun g => h' g.1)]

/-- A bit is the event of a row of the table, or changes nothing but the frame and the step's outputs. -/
theorem takeBit_cases (s : State) (b : Bool) :
    (∃ x, s.takeBit b = .next (s.clearOutputs.setFrame x)) ∨ ∃ c, s.takeBit b = exec c s := by
  unfold State.takeBit
  split
  · rename_i h
    exact .inl ⟨none, congrArg _ (by rw [State.setFrame, ← h]; rfl)⟩
  · exact .inl ⟨_, rfl⟩
  · split
    · exact .inl ⟨_, rfl⟩
    · exact .inl ⟨_, rfl⟩
    · exact .inr ⟨_, rfl⟩

/-- So is any event on the pins; without power it changes nothing but the step's outputs. -/
theorem pinStep_cases (s : State) (p : Pin) :
    (∃ x, s.pinStep p = .next (s.clearOutputs.setFrame x)) ∨ ∃ c, s.pinStep p = exec c s := by
  unfold State.pinStep
  split
  · cases p with
    | csFall => exact .inl ⟨_, rfl⟩
    | bit b => exact takeBit_cases s b
    | csRise => exact .inl ⟨_, rfl⟩
  · exact .inl ⟨s.spi.frame, rfl⟩

/-- A step is the event of a row, an event on the pins that changes the frame alone, or 1 µs. -/
theorem step_cases (s : State) :
    (∃ c rest, s.pending = c :: rest ∧ step s = exec c { s with pending := rest })
      ∨ (∃ p rest, s.pending = [] ∧ s.spi.pins = p :: rest
        ∧ step s = ({ s with spi := { s.spi with pins := rest } } : State).pinStep p)
      ∨ (s.pending = [] ∧ s.spi.pins = [] ∧ step s = .next s.tick) := by
  unfold step
  split
  · rename_i c rest h; exact .inl ⟨c, rest, h, rfl⟩
  · rename_i h
    split
    · rename_i p rest h'; exact .inr (.inl ⟨p, rest, h, h', rfl⟩)
    · rename_i h'; exact .inr (.inr ⟨h, h', rfl⟩)

end Sys2Proof.Machine
end

