-- ==== Sys2Proof/Laws/PerInstr.lean ====
section
/-! SUPPORT. A link message decodes to the command that it encodes, constructor by constructor (R189). -/

namespace Sys2Proof.Machine

/-- The bits of a request-channel message (R189). -/
theorem requestWord_bit (k : BitVec 3) (t : ReqTag) (f : Bool) (l : Line) (i : Nat) :
   (requestWord k t f l).getLsbD i =
     if i < 38 then l.getLsbD i else if i < 55 then false else if i < 56 then f
      else if i < 60 then (BitVec.ofNat 4 t.val).getLsbD (i - 56) else k.getLsbD (i - 60) := by
  refine (BitVec.getLsbD_append
    (x := 0#1 ++ k ++ BitVec.ofNat 4 t.val ++ BitVec.ofBool f ++ 0#17) (y := l) (i := i)).trans ?_
  rw [BitVec.getLsbD_append, BitVec.getLsbD_append, BitVec.getLsbD_append, BitVec.getLsbD_append]
  simp only [BitVec.getLsbD_zero, BitVec.getLsbD_ofBool, Nat.sub_sub]
  split_ifs <;> first | omega | rfl | (simp; omega) | exact (BitVec.getLsbD_of_ge k _ (by omega)).symm

/-- The bits of a response-channel message (R189). -/
theorem responseWord_bit (k : BitVec 3) (n : Txn) (l : Line) (i : Nat) :
   (responseWord k n l).getLsbD i =
     if i < 38 then l.getLsbD i else if i < 48 then false else if i < 56 then n.getLsbD (i - 48)
      else if i < 60 then false else if i < 63 then k.getLsbD (i - 60) else decide (i = 63) := by
  refine (BitVec.getLsbD_append (x := 1#1 ++ k ++ 0#4 ++ n ++ 0#10) (y := l) (i := i)).trans ?_
  rw [BitVec.getLsbD_append, BitVec.getLsbD_append, BitVec.getLsbD_append, BitVec.getLsbD_append]
  simp only [BitVec.getLsbD_zero, Nat.sub_sub]
  split_ifs <;> first | omega | rfl | (simp; omega)

/-- A field is known by its bits. -/
theorem extract_eq {w n : Nat} (x : BitVec w) (s : Nat) (y : BitVec n) (h : ∀ i, i < n → x.getLsbD (s + i) = y.getLsbD i) :
    x.extractLsb' s n = y := by
  apply BitVec.eq_of_getLsbD_eq
  intro i hi
  rw [BitVec.getLsbD_extractLsb', h i hi]; simp [hi]

/-- Each field of a request-channel message reads back. -/
theorem requestWord_fields (k : BitVec 3) (t : ReqTag) (f : Bool) (l : Line) :
    (requestWord k t f l).extractLsb' 60 3 = k ∧ (requestWord k t f l).extractLsb' 0 38 = l
      ∧ has (requestWord k t f l) 63 = false ∧ has (requestWord k t f l) 55 = f ∧ tagField (requestWord k t f l) = t := by
  refine ⟨extract_eq _ _ _ fun i hi => ?_, extract_eq _ _ _ fun i hi => ?_, ?_, ?_, ?_⟩
  · rw [requestWord_bit]; split_ifs <;> first | omega | simp
  · rw [requestWord_bit]; split_ifs <;> first | omega | simp
  · rw [has, requestWord_bit]; simp
  · rw [has, requestWord_bit]; rfl
  · have h : (requestWord k t f l).extractLsb' 56 4 = BitVec.ofNat 4 t.val := by
      refine extract_eq _ _ _ fun i hi => ?_
      rw [requestWord_bit]; split_ifs <;> first | omega | simp
    unfold tagField
    rw [h]
    apply Fin.ext
    simp

/-- Each field of a response-channel message reads back. -/
theorem responseWord_fields (k : BitVec 3) (n : Txn) (l : Line) :
    (responseWord k n l).extractLsb' 60 3 = k ∧ (responseWord k n l).extractLsb' 0 38 = l
      ∧ has (responseWord k n l) 63 = true ∧ (responseWord k n l).extractLsb' 48 8 = n := by
  refine ⟨extract_eq _ _ _ fun i hi => ?_, extract_eq _ _ _ fun i hi => ?_, ?_, extract_eq _ _ _ fun i hi => ?_⟩
  · rw [responseWord_bit]; split_ifs <;> first | omega | simp
  · rw [responseWord_bit]; split_ifs <;> first | omega | simp
  · rw [has, responseWord_bit]; rfl
  · rw [responseWord_bit]; split_ifs <;> first | omega | simp

end Sys2Proof.Machine

namespace Sys2Proof.Laws.LinkRoundTrip

open Sys2Proof.Machine

/-- The message that a well-formed link command is decodes to that command, at every value of its operands. -/
def Statement (i : Instr) : Prop :=
  ∀ p w, i.wellFormed = true → encodeMessage i = some (p, w) → decodeMessage p w = i

/-- A command that is no message satisfies the law. -/
theorem of_none {i : Instr} (h : encodeMessage i = none) : Statement i := by
  intro p w _ hw
  rw [h] at hw
  nomatch hw

theorem pwrokRise : Statement .pwrokRise := of_none rfl

theorem pwrokFall : Statement .pwrokFall := of_none rfl

theorem resetNFall : Statement .resetNFall := of_none rfl

theorem resetNRise : Statement .resetNRise := of_none rfl

theorem clearingWalkStep : Statement .clearingWalkStep := of_none rfl

theorem linkDetected (p : Agent) : Statement (.linkDetected p) := of_none rfl

theorem linkLoss (p : Agent) : Statement (.linkLoss p) := of_none rfl

theorem rdShared (p : Agent) (tag : ReqTag) (line : Line) : Statement (.rdShared p tag line) := by
  rintro q w _ ⟨⟩
  obtain ⟨h1, h2, h3, h4, h5⟩ := requestWord_fields 0 tag false line
  simp only [decodeMessage, h1, h2, h3, h4, h5]
  rfl

theorem rdOwn (p : Agent) (tag : ReqTag) (line : Line) (fullWrite : Bool) : Statement (.rdOwn p tag line fullWrite) := by
  rintro q w _ ⟨⟩
  obtain ⟨h1, h2, h3, h4, h5⟩ := requestWord_fields 1 tag fullWrite line
  simp only [decodeMessage, h1, h2, h3, h4, h5]
  rfl

theorem upgrade (p : Agent) (tag : ReqTag) (line : Line) : Statement (.upgrade p tag line) := by
  rintro q w _ ⟨⟩
  obtain ⟨h1, h2, h3, h4, h5⟩ := requestWord_fields 2 tag false line
  simp only [decodeMessage, h1, h2, h3, h4, h5]
  rfl

theorem writeback (p : Agent) (tag : ReqTag) (line : Line) : Statement (.writeback p tag line) := by
  rintro q w _ ⟨⟩
  obtain ⟨h1, h2, h3, h4, h5⟩ := requestWord_fields 3 tag false line
  simp only [decodeMessage, h1, h2, h3, h4, h5]
  rfl

theorem drop (p : Agent) (tag : ReqTag) (line : Line) : Statement (.drop p tag line) := by
  rintro q w _ ⟨⟩
  obtain ⟨h1, h2, h3, h4, h5⟩ := requestWord_fields 4 tag false line
  simp only [decodeMessage, h1, h2, h3, h4, h5]
  rfl

theorem leave (p : Agent) (tag : ReqTag) (line : Line) : Statement (.leave p tag line) := by
  rintro q w _ ⟨⟩
  obtain ⟨h1, h2, h3, h4, h5⟩ := requestWord_fields 5 tag false line
  simp only [decodeMessage, h1, h2, h3, h4, h5]
  rfl

theorem badKind (p : Agent) (channel : Bool) (code : BitVec 3) : Statement (.badKind p channel code) := by
  intro q w hw he
  cases channel
  · cases he
    obtain ⟨h1, h2, h3, h4, h5⟩ := requestWord_fields code 0 false 0
    have hc : code = 6 ∨ code = 7 := by
      change badKindCode false code = true at hw
      clear h1 h2 h3 h4 h5
      revert code
      decide
    rcases hc with rfl | rfl <;> (simp only [decodeMessage, h1, h3]; rfl)
  · cases he
    obtain ⟨h1, h2, h3, h4⟩ := responseWord_fields code 0 0
    have hc : code = 4 ∨ code = 5 ∨ code = 6 ∨ code = 7 := by
      change badKindCode true code = true at hw
      clear h1 h2 h3 h4
      revert code
      decide
    rcases hc with rfl | rfl | rfl | rfl <;> (simp only [decodeMessage, h1, h3]; rfl)

theorem done (p : Agent) (n : Txn) : Statement (.done p n) := by
  rintro q w _ ⟨⟩
  obtain ⟨h1, h2, h3, h4⟩ := responseWord_fields 0 n 0
  simp only [decodeMessage, h1, h2, h3, h4]
  rfl

theorem ansClean (p : Agent) (n : Txn) (line : Line) : Statement (.ansClean p n line) := by
  rintro q w _ ⟨⟩
  obtain ⟨h1, h2, h3, h4⟩ := responseWord_fields 1 n line
  simp only [decodeMessage, h1, h2, h3, h4]
  rfl

theorem ansWritten (p : Agent) (n : Txn) (line : Line) : Statement (.ansWritten p n line) := by
  rintro q w _ ⟨⟩
  obtain ⟨h1, h2, h3, h4⟩ := responseWord_fields 2 n line
  simp only [decodeMessage, h1, h2, h3, h4]
  rfl

theorem ansGone (p : Agent) (n : Txn) (line : Line) : Statement (.ansGone p n line) := by
  rintro q w _ ⟨⟩
  obtain ⟨h1, h2, h3, h4⟩ := responseWord_fields 3 n line
  simp only [decodeMessage, h1, h2, h3, h4]
  rfl

theorem probeTimerExpiry (e : EntryIdx) (a : Agent) : Statement (.probeTimerExpiry e a) := of_none rfl

theorem intakeLookup (f : List CellFault) : Statement (.intakeLookup f) := of_none rfl

theorem resolutionAccess (f : List CellFault) : Statement (.resolutionAccess f) := of_none rfl

theorem parkedResolution (f : List CellFault) : Statement (.parkedResolution f) := of_none rfl

theorem doneTimeout (e : EntryIdx) : Statement (.doneTimeout e) := of_none rfl

theorem closeAccess (f : List CellFault) : Statement (.closeAccess f) := of_none rfl

theorem lookupAfterHandOn (f : List CellFault) : Statement (.lookupAfterHandOn f) := of_none rfl

theorem releasingAccess (f : List CellFault) : Statement (.releasingAccess f) := of_none rfl

theorem recallStart (f : List CellFault) : Statement (.recallStart f) := of_none rfl

theorem recallResolution (f : List CellFault) : Statement (.recallResolution f) := of_none rfl

theorem retireStart (f : List CellFault) : Statement (.retireStart f) := of_none rfl

theorem retireResolution (f : List CellFault) : Statement (.retireResolution f) := of_none rfl

theorem repairStart (f : List CellFault) : Statement (.repairStart f) := of_none rfl

theorem repairResolution (f : List CellFault) : Statement (.repairResolution f) := of_none rfl

theorem purgeStep (f : List CellFault) : Statement (.purgeStep f) := of_none rfl

theorem leaveStep (f : List CellFault) : Statement (.leaveStep f) := of_none rfl

theorem retractResolution (f : List CellFault) : Statement (.retractResolution f) := of_none rfl

theorem scrubIntervalExpiry : Statement .scrubIntervalExpiry := of_none rfl

theorem scrubAccess (f : List CellFault) : Statement (.scrubAccess f) := of_none rfl

theorem inspect : Statement .inspect := of_none rfl

theorem inspectAccess (f : List CellFault) : Statement (.inspectAccess f) := of_none rfl

theorem lookup : Statement .lookup := of_none rfl

theorem lookupAccess (f : List CellFault) : Statement (.lookupAccess f) := of_none rfl

theorem recallLine : Statement .recallLine := of_none rfl

theorem recallLineStart (f : List CellFault) : Statement (.recallLineStart f) := of_none rfl

theorem serviceResolution (f : List CellFault) : Statement (.serviceResolution f) := of_none rfl

theorem clearPoison : Statement .clearPoison := of_none rfl

theorem clearPoisonAccess (f : List CellFault) : Statement (.clearPoisonAccess f) := of_none rfl

theorem fence : Statement .fence := of_none rfl

theorem unfence : Statement .unfence := of_none rfl

theorem clearSet : Statement .clearSet := of_none rfl

theorem clearSetAccess (f : List CellFault) : Statement (.clearSetAccess f) := of_none rfl

theorem scrubStart : Statement .scrubStart := of_none rfl

theorem scrubStop : Statement .scrubStop := of_none rfl

theorem clearErrors : Statement .clearErrors := of_none rfl

theorem windowApply (v : Word) : Statement (.windowApply v) := of_none rfl

theorem reqCreditsWrite (p : Agent) (v : Word) : Statement (.reqCreditsWrite p v) := of_none rfl

theorem portEnableWrite (v : Word) : Statement (.portEnableWrite v) := of_none rfl

theorem probeCreditsWrite (v : Word) : Statement (.probeCreditsWrite v) := of_none rfl

theorem admitWrite (m : AdmitMark) (v : Word) : Statement (.admitWrite m v) := of_none rfl

theorem recallBudgetWrite (v : Word) : Statement (.recallBudgetWrite v) := of_none rfl

theorem maskRoutingWrite (k : ErrKind) (v : Word) : Statement (.maskRoutingWrite k v) := of_none rfl

theorem counterWrite (k : ErrKind) (v : Word) : Statement (.counterWrite k v) := of_none rfl

theorem discardCounterWrite (p : Agent) (v : Word) : Statement (.discardCounterWrite p v) := of_none rfl

theorem registerWrite (a : Addr) (v : Word) : Statement (.registerWrite a v) := of_none rfl

theorem invalidOpcodeFrame : Statement .invalidOpcodeFrame := of_none rfl

theorem frameCutShort : Statement .frameCutShort := of_none rfl

end Sys2Proof.Laws.LinkRoundTrip
end

