-- ==== Sys2Proof/Tests/Slice0.lean ====
section
/-! SUPPORT. The author's own tests: ill-formed terms refused, small worked steps of the data book, and for each statement
of the certificates a state and operands that meet its hypotheses. -/

namespace Sys2Proof.Tests

set_option Elab.async false

open Sys2Proof.Machine

/-! ### Checks of the laws by evaluation -/

/-- The law of R3 as a check. -/
def recordOk (r : Record) : Bool :=
  match r.state with
  | .shared => decide (r.holders ≠ 0)
  | .owned => allAgents.any fun a => decide (r.holders = only a)
  | .poisoned => decide (r.holders = 0) && r.poison
  | .damaged => true

theorem recordOk_sound {r : Record} (h : recordOk r = true) : r.lawful := by
  obtain ⟨t, st, hd, p⟩ := r
  cases st
  · exact of_decide_eq_true (p := hd ≠ 0) h
  · obtain ⟨a, _, ha⟩ := List.any_eq_true.mp h
    exact ⟨a, of_decide_eq_true (p := hd = only a) ha⟩
  · have h' : decide (hd = 0) = true ∧ p = true := (Bool.and_eq_true _ _).mp h
    exact ⟨of_decide_eq_true (p := hd = 0) h'.1, h'.2⟩
  · trivial

/-- Every record of the set keeps the law, as a check. -/
def setOk (d : DirSet) : Bool := allWays.all fun w => (d.record w).all recordOk

theorem setOk_sound {d : DirSet} (h : setOk d = true) : d.lawful := by
  intro w r hr
  have hw := List.all_eq_true.mp h w (List.mem_finRange w)
  rw [hr] at hw
  exact recordOk_sound hw

theorem find_listed (d : Directory) (j : Nat) : Directory.find d j = DirSet.empty ∨ ∃ x ∈ d, Directory.find d j = x.2 := by
  induction d with
  | nil => exact .inl rfl
  | cons x rest ih =>
    obtain ⟨k, y⟩ := x
    unfold Directory.find
    split
    · exact .inr ⟨(k, y), List.mem_cons_self, rfl⟩
    · exact ih.imp id fun ⟨z, hz, he⟩ => ⟨z, List.mem_cons_of_mem _ hz, he⟩

/-- `State.lawful` as a check. -/
def lawOk (s : State) : Bool := s.dir.wf && s.dir.all fun x => setOk x.2

theorem lawOk_sound {s : State} (h : lawOk s = true) : s.lawful := by
  rw [lawOk, Bool.and_eq_true] at h
  refine ⟨h.1, fun j => ?_⟩
  rcases find_listed s.dir j with he | ⟨x, hx, he⟩
  · rw [he]; exact setOk_sound (by decide +kernel)
  · rw [he]; exact setOk_sound (List.all_eq_true.mp h.2 x hx)

/-- `State.calm` as a check. -/
def calmOk (s : State) : Bool :=
  decide (s.part ≠ .run)
    || ((allAgents.all fun p => !s.member p || (s.port p).probeQueue.isEmpty || !s.probeCredit p)
      && (s.intake.head?.all fun r => decide (r.kind ≠ .leave) || s.pause)
      && (s.leave.port.all fun p => !s.leaveDoneReady p)
      && (s.leave.order.head?.all fun p =>
        decide (s.leave.port ≠ none) || decide ((s.port p).state ≠ .leaving .drain) || s.hasTransaction p))

theorem calmOk_sound {s : State} (h : calmOk s = true) : s.calm := by
  intro hp
  rw [calmOk, Bool.or_eq_true, decide_eq_true_iff] at h
  rcases h with h | h
  · exact absurd hp h
  rw [Bool.and_eq_true, Bool.and_eq_true, Bool.and_eq_true] at h
  obtain ⟨⟨⟨h0, h1⟩, h2⟩, h3⟩ := h
  refine ⟨fun p hm hq => ?_, fun r hr hk => ?_, fun p hl => ?_, fun p ho hn hd => ?_⟩
  · have := List.all_eq_true.mp h0 p (List.mem_finRange p)
    simpa [hm, hq] using this
  · rw [hr] at h1; simpa [hk] using h1
  · rw [hl] at h2; simpa using h2
  · rw [ho] at h3; simpa [hn, hd] using h3

/-- `State.onLine` as a check. -/
def onLineOk (s : State) (l : Line) (w : Way) (r : Record) : Bool :=
  decide (s.findLine l = some w) && decide (s.recordAt (setOf l) w = some r)
    && allWays.all fun v => (s.recordAt (setOf l) v).all fun q => decide (q.tag ≠ tagOf l) || decide (v = w)

theorem onLineOk_sound {s : State} {l : Line} {w : Way} {r : Record} (h : onLineOk s l w r = true) : s.onLine l w r := by
  rw [onLineOk, Bool.and_eq_true, Bool.and_eq_true] at h
  obtain ⟨⟨h1, h2⟩, h3⟩ := h
  refine ⟨of_decide_eq_true h1, of_decide_eq_true h2, fun v q hv ht => ?_⟩
  have hw := List.all_eq_true.mp h3 v (List.mem_finRange v)
  rw [hv] at hw
  simpa [ht] using hw

/-! ### Small states -/

/-- The line of the worked example of section 0.5: set 713, tag 2441. -/
def line : Line := 5000000

/-- A port in ACTIVE with its power-on credits. -/
def active : Port := { Port.powerOn with state := .active, enable := true, link := true, credits := 4 }

/-- RUN, every port ACTIVE, nothing under way. -/
def run : State := { State.reset with part := .run, walk := none, ports := Vector.replicate 8 active }

/-- `run` with set 713 as given. -/
def withSet (d : DirSet) : State := { run with dir := Directory.store [] 713 d }

/-- `s` with port `p` in state `x`. -/
def withPort (s : State) (p : Agent) (x : PortState) : State := s.updPort p fun q => { q with state := x }

/-- A set that holds these records, the first at the front of the recency order. -/
def records (l : List (Way × Record)) : DirSet :=
  l.foldl (fun d x => { d with
    slots := d.slots.set x.1.val { d.slot x.1 with content := some x.2, damageMark := decide (x.2.state = .damaged) }
    recency := d.recency ++ [x.1] }) DirSet.empty

/-- The record of `line` in way 4. -/
def holding (r : Record) : DirSet := records [(4, r)]

/-- The same, bound to entry 0. -/
def boundTo0 (r : Record) : DirSet :=
  { holding r with slots := (holding r).slots.set 4 { (holding r).slot 4 with bound := some 0 } }

/-- A set whose sixteen ways hold records of other lines, poisoned or SHARED by agent 0. -/
def full (poison : Bool) : DirSet :=
  records (allWays.map fun w =>
    (w, if poison then poisonedRecord (BitVec.ofNat 27 w.val) else ⟨BitVec.ofNat 27 w.val, .shared, 1, false⟩))

/-- The same with a DAMAGED record, poison no, in way 15, the last of the recency order. -/
def damagedLast : DirSet :=
  { full false with
    slots := (full false).slots.set 15 { (full false).slot 15 with
      content := some ⟨15, .damaged, 0, false⟩, damageMark := true } }

/-- `d` with its ways 8 to 15 RETIRED: its retired map is full. -/
def fullMap (d : DirSet) : DirSet :=
  { d with slots := Vector.ofFn fun w => if 8 ≤ w.val then { Slot.empty with mark := .retired } else d.slot w }

/-- SHARED by agent 1; OWNED by agent 2; POISONED; DAMAGED. -/
def shared1 : Record := ⟨tagOf line, .shared, only 1, false⟩
def owned2 : Record := ⟨tagOf line, .owned, only 2, false⟩
def poisoned : Record := poisonedRecord (tagOf line)
def damaged : Record := ⟨tagOf line, .damaged, 0, false⟩

/-- A request of agent 3 on `line`. -/
def ask (k : ReqKind) : Request := ⟨3, k, 1, line, false⟩

/-- A request at the head of the intake queue, its claim raised. -/
def atIntake (r : Request) (d : DirSet) : State := { withSet d with intake := [r], claims := [.intake] }

/-- An entry on `line` for agent 3's request. -/
def serving (k : ReqKind) (ph : Phase) : Entry :=
  { Entry.freeOf 1 with
    line := some line, way := some 4, kind := some .request, requester := .agent 3
    request := some (.agent k 1 false), phase := ph }

/-- An entry on `line` of another kind, its round settled. -/
def settled (k : EntryKind) : Entry :=
  { Entry.freeOf 1 with line := some line, way := some 4, kind := some k, phase := .probing, probeKind := some .invalidate }

/-- Entry 0 with its class 1 claim raised. -/
def atEntry (x : Entry) (d : DirSet) : State := { (withSet d).setEntry 0 x with claims := [.entry 0] }

/-- Entry 0 listed for a class 2 access. -/
def atAccess (x : Entry) (d : DirSet) : State :=
  { (withSet d).setEntry 0 x with recallUnit := { RecallUnit.idle with accesses := [0] }, claims := [.recallUnit] }

/-- A start item at the front of the recall start queue, entry 0 as given. -/
def atStart (i : StartItem) (x : Entry) (d : DirSet) : State :=
  { (withSet d).setEntry 0 x with recallUnit := { RecallUnit.idle with queue := [i] }, claims := [.recallUnit] }

/-- A service command with its claim raised; its arguments. -/
def atService (code : BitVec 8) (a b : Word) (d : DirSet) : State :=
  { withSet d with
    claims := [.service]
    svc := { ServicePort.powerOn with
      status := .busy, waiting := .claim, lastCode := code, argA := a, argB := b, copyA := a, copyB := b } }

/-- The wait pool's slot 0 taken by `x`, on entry 0's list. -/
def waits (x : Waiter) (s : State) : State :=
  (s.setWaiter 0 (some x)).updEntry 0 fun y => { y with waiters := [0] }

/-- A port that leaves, in WALK, at set 713. -/
def leaving (d : DirSet) : State :=
  { withPort (withSet d) 1 (.leaving .walk) with leave := { LeaveWalker.idle with port := some 1, pos := 713 }
                                                 claims := [.leave] }

/-- Agent 1 FENCED, its snapshot empty, the purge walker at set 713. -/
def purging (d : DirSet) : State :=
  { withPort (withSet d) 1 .fenced with
    purge := { starts := PurgeWalker.idle.starts.set 1 (some 714), pos := 713 }, claims := [.purge] }

/-- A service port that took nothing yet, its arguments. -/
def withArgs (s : State) (a b : Word) : State := { s with svc := { s.svc with argA := a, argB := b } }

/-- The next state of a command, the same state where there is none. -/
def after (c : Instr) (s : State) : State :=
  match exec c s with
  | .next t => t
  | .fault _ => s
  | .refused _ => s

/-- The next state of a step. -/
def tickOf (s : State) : State :=
  match step s with
  | .next t => t
  | .fault _ => s
  | .refused _ => s

/-- A DOWNGRADE sent to the owner, agent 2, for entry 0 of generation 1. -/
def probing : State :=
  { (atEntry { serving .rdShared .probing with
      pendingSet := only 2, probeKind := some .downgrade
      probes := (Entry.freeOf 0).probes.set 2 (some ⟨.sent, 0, 256⟩) } (boundTo0 owned2)).updPort 2
        fun q => { q with sends := [⟨32, false⟩] } with claims := [] }

/-- The same with the owner's 8 probe credits used, and the probe in this status. -/
def noCredit (st : ProbeStatus) : State :=
  (probing.updEntry 0 fun x => { x with probes := x.probes.set 2 (some ⟨st, 0, 256⟩) }).updPort 2 fun q =>
    { q with sends := List.replicate 8 ⟨32, false⟩, probeQueue := if st = .sent then [] else [0] }

/-- `s` with these events to come on the pins of the service port. -/
def withPins (p : List Pin) (s : State) : State := { s with spi := { s.spi with pins := p } }

/-- `s` after the fall of CS_N and the first `n` bits of this frame. -/
def framed {w : Nat} (x : BitVec w) (n : Nat) (s : State) : State :=
  (Pin.csFall :: (firstBits x n).map Pin.bit).foldl (fun t p => tickOf (withPins [p] t)) s

/-! ### The hypotheses of each statement are met -/

theorem witness_StepRunsFrontCommand :
    ∃ (s : State) (c : Instr) (rest : List Instr),
      s.pending = c :: rest :=
    ⟨{ run with pending := [.fence, .unfence] }, .fence, [.unfence], by decide +kernel⟩

theorem witness_EmptyQueuePassesOneMicrosecond :
    ∃ (s : State),
      s.pending = [] ∧ s.spi.pins = [] ∧ s.part = .run :=
    ⟨run, by decide +kernel⟩

theorem witness_EmptyQueuePassesOneMicrosecond_init :
    ∃ (s : State),
      s.pending = [] ∧ s.spi.pins = [] ∧ s.part ≠ .run :=
    ⟨State.reset, by decide +kernel⟩

theorem witness_PowerAndResetPins_fall :
    ∃ (s : State),
      s.pwrok = true ∧ s.resetN = true :=
    ⟨run, by decide +kernel⟩

theorem witness_PowerAndResetPins_rise :
    ∃ (s : State),
      s.pwrok = true ∧ s.resetN = false ∧ s.part = .init :=
    ⟨{ State.reset with resetN := false, walk := none }, by decide +kernel⟩

theorem witness_ClearingWalkClearsSet_first :
    ∃ (s : State) (k : SetIdx),
      s.part = .init ∧ s.walk = some k ∧ s.dir.wf = true ∧ s.intake = [] ∧ s.leave = LeaveWalker.idle
        ∧ k.toNat ≠ 2047 :=
    ⟨State.reset, 0, by decide +kernel⟩

theorem witness_ClearingWalkClearsSet_last :
    ∃ (s : State) (k : SetIdx),
      s.part = .init ∧ s.walk = some k ∧ s.dir.wf = true ∧ s.intake = [] ∧ s.leave = LeaveWalker.idle
        ∧ k.toNat = 2047 :=
    ⟨{ State.reset with walk := some 2047 }, 2047, by decide +kernel⟩

theorem witness_LinkMovesPort_up :
    ∃ (s : State) (p : Agent),
      s.calm ∧ s.pwrok = true ∧ (s.port p).link = false ∧ (s.port p).state = .off ∧ (s.port p).enable
        ∧ (s.port p).rejoinHold = false ∧ s.resetN ∧ s.part = .run :=
    ⟨run.updPort 1 fun _ => { Port.powerOn with enable := true }, 1, calmOk_sound (by decide +kernel),
      by decide +kernel⟩

theorem witness_LinkMovesPort_held :
    ∃ (s : State) (p : Agent),
      s.calm ∧ s.pwrok = true ∧ (s.port p).link = false
        ∧ ¬ ((s.port p).state = .off ∧ (s.port p).enable ∧ !(s.port p).rejoinHold ∧ s.resetN) :=
    ⟨run.updPort 1 fun _ => Port.powerOn, 1, calmOk_sound (by decide +kernel), by decide +kernel⟩

theorem witness_LinkMovesPort_fence :
    ∃ (s : State) (p : Agent),
      s.pwrok = true ∧ (s.port p).link = true ∧ s.member p = true ∧ s.part = .run :=
    ⟨run, 1, by decide +kernel⟩

theorem witness_LinkMovesPort_halted :
    ∃ (s : State) (p : Agent),
      s.pwrok = true ∧ (s.port p).link = true ∧ s.member p = true ∧ s.part = .halted :=
    ⟨{ run with part := .halted }, 1, by decide +kernel⟩

theorem witness_LinkMovesPort_training :
    ∃ (s : State) (p : Agent),
      s.calm ∧ s.pwrok = true ∧ (s.port p).link = true ∧ (s.port p).state = .training :=
    ⟨withPort { run with part := .init } 1 .training, 1, calmOk_sound (by decide +kernel), by decide +kernel⟩

theorem witness_LinkMovesPort_closed :
    ∃ (s : State) (p : Agent),
      s.calm ∧ s.pwrok = true ∧ (s.port p).link = true ∧ s.member p = false ∧ (s.port p).state ≠ .training :=
    ⟨withPort run 1 .fenced, 1, calmOk_sound (by decide +kernel), by decide +kernel⟩

theorem witness_RequestJoinsIntake :
    ∃ (s : State) (r : Request),
      r.spelled ∧ s.calm ∧ r.kind ≠ .leave ∧ s.pwrok = true ∧ s.part = .run ∧ s.member r.port = true
        ∧ (s.port r.port).credits ≠ 0 ∧ has (s.port r.port).tags r.tag = false
        ∧ (r.kind.needsGrant = true → (s.port r.port).state = .active) ∧ s.cfg.covers r.line = true :=
    ⟨run, ask .rdOwn, (show (_ → _) by decide +kernel), calmOk_sound (by decide +kernel), by decide +kernel⟩

theorem witness_LeaveJoinsOrIsTaken_joins :
    ∃ (s : State) (p : Agent) (tag : ReqTag) (_line : Line),
      s.calm ∧ s.pwrok = true ∧ s.part = .run ∧ s.member p = true ∧ (s.port p).credits ≠ 0
        ∧ has (s.port p).tags tag = false ∧ (s.intake ≠ [] ∨ s.pause = true) :=
    ⟨{ run with intake := [ask .drop] }, 3, 2, line, calmOk_sound (by decide +kernel), by decide +kernel⟩

theorem witness_LeaveJoinsOrIsTaken_taken :
    ∃ (s : State) (p : Agent) (tag : ReqTag) (_line : Line),
      s.calm ∧ s.pwrok = true ∧ s.part = .run ∧ s.member p = true ∧ (s.port p).credits ≠ 0
        ∧ has (s.port p).tags tag = false ∧ s.intake = [] ∧ s.pause = false ∧ (s.port p).state = .active
        ∧ s.leave.port ≠ some p :=
    ⟨run, 3, 2, line, calmOk_sound (by decide +kernel), by decide +kernel⟩

theorem witness_RequestChecksInOrder_noCredit :
    ∃ (s : State) (r : Request),
      r.spelled ∧ s.calm ∧ s.pwrok = true ∧ s.member r.port = true ∧ s.cfg.protoFence = false
        ∧ (s.port r.port).credits = 0 :=
    ⟨run.updPort 3 fun q => { q with credits := 0 }, ask .rdOwn, (show (_ → _) by decide +kernel),
      calmOk_sound (by decide +kernel), by decide +kernel⟩

theorem witness_RequestChecksInOrder_tagInUse :
    ∃ (s : State) (r : Request),
      r.spelled ∧ s.calm ∧ s.pwrok = true ∧ s.member r.port = true ∧ s.cfg.protoFence = false
        ∧ (s.port r.port).credits ≠ 0 ∧ has (s.port r.port).tags r.tag = true :=
    ⟨run.updPort 3 fun q => { q with tags := 2 }, ask .rdOwn, (show (_ → _) by decide +kernel),
      calmOk_sound (by decide +kernel), by decide +kernel⟩

theorem witness_RequestChecksInOrder_halted :
    ∃ (s : State) (r : Request),
      r.spelled ∧ s.calm ∧ s.pwrok = true ∧ s.member r.port = true ∧ s.cfg.protoFence = false
        ∧ (s.port r.port).credits ≠ 0 ∧ has (s.port r.port).tags r.tag = false ∧ s.part = .halted :=
    ⟨{ run with part := .halted }, ask .rdOwn, (show (_ → _) by decide +kernel), calmOk_sound (by decide +kernel),
      by decide +kernel⟩

theorem witness_RequestChecksInOrder_leaving :
    ∃ (s : State) (r : Request),
      r.spelled ∧ s.calm ∧ s.pwrok = true ∧ s.member r.port = true ∧ s.cfg.protoFence = false ∧ s.part = .run
        ∧ (r.kind.needsGrant = true ∧ (s.port r.port).state ≠ .active) :=
    ⟨withPort run 3 (.leaving .drain), ask .rdOwn, (show (_ → _) by decide +kernel), calmOk_sound (by decide +kernel),
      by decide +kernel⟩

theorem witness_RequestChecksInOrder_range :
    ∃ (s : State) (r : Request),
      r.spelled ∧ s.calm ∧ s.pwrok = true ∧ s.member r.port = true ∧ s.cfg.protoFence = false ∧ s.part = .run
        ∧ (r.kind ≠ .leave ∧ s.cfg.covers r.line = false) :=
    ⟨{ run with cfg := { run.cfg with winCount := 5000000 } }, ask .rdOwn, (show (_ → _) by decide +kernel),
      calmOk_sound (by decide +kernel), by decide +kernel⟩

theorem witness_RequestChecksInOrder_joins :
    ∃ (s : State) (r : Request),
      r.spelled ∧ s.calm ∧ s.pwrok = true ∧ s.member r.port = true ∧ s.cfg.protoFence = false ∧ s.part = .run
        ∧ (r.kind ≠ .leave ∧ s.cfg.covers r.line = true) :=
    ⟨{ run with cfg := { run.cfg with winCount := 5000001 } }, ask .rdOwn, (show (_ → _) by decide +kernel),
      calmOk_sound (by decide +kernel), by decide +kernel⟩

theorem witness_ClosedPortDiscards :
    ∃ (s : State) (c : Instr) (p : Agent),
      messagePort c = some p ∧ s.pwrok = true ∧ s.member p = false ∧ s.resetN = true :=
    ⟨withPort run 3 .fencedClean, .done 3 0, 3, by decide +kernel⟩

theorem witness_ClosedPortDiscards_reset :
    ∃ (s : State) (c : Instr) (p : Agent),
      messagePort c = some p ∧ s.pwrok = true ∧ s.member p = false ∧ s.resetN = false :=
    ⟨{ State.reset with resetN := false }, .leave 7 0 0, 7, by decide +kernel⟩

theorem witness_BadKindIsReported_credit :
    ∃ (s : State) (p : Agent) (_ch : Bool) (_code : BitVec 3),
      s.calm ∧ s.pwrok = true ∧ s.member p = true ∧ s.cfg.protoFence = false ∧ (s.port p).credits ≠ 0 :=
    ⟨run, 3, false, 6, calmOk_sound (by decide +kernel), by decide +kernel⟩

theorem witness_BadKindIsReported_overrun :
    ∃ (s : State) (p : Agent) (ch : Bool) (_code : BitVec 3),
      s.calm ∧ s.pwrok = true ∧ s.member p = true ∧ s.cfg.protoFence = false ∧ ch = false ∧ (s.port p).credits = 0 :=
    ⟨run.updPort 3 fun q => { q with credits := 0 }, 3, false, 7, calmOk_sound (by decide +kernel), by decide +kernel⟩

theorem witness_DoneEndsWaitOrIsReported :
    ∃ (s : State) (p : Agent) (n : Txn),
      s.pwrok = true ∧ s.member p = true ∧ s.part = .run ∧ (s.entry (txnIndex n)).phase = .awaitDone
        ∧ (s.entry (txnIndex n)).closePending = false ∧ (s.entry (txnIndex n)).gen = txnGen n
        ∧ (s.entry (txnIndex n)).kind = some .request ∧ (s.entry (txnIndex n)).requester = .agent p :=
    ⟨atEntry { serving .rdShared .awaitDone with grantSent := some .shared, doneTimer := some 9 } (boundTo0 shared1),
      3, 32, by decide +kernel⟩

theorem witness_DoneEndsWaitOrIsReported_halted :
    ∃ (s : State) (p : Agent) (_n : Txn),
      s.pwrok = true ∧ s.member p = true ∧ s.part = .halted :=
    ⟨{ run with part := .halted }, 3, 32, by decide +kernel⟩

theorem witness_DoneEndsWaitOrIsReported_bad :
    ∃ (s : State) (p : Agent) (n : Txn),
      s.calm ∧ s.pwrok = true ∧ s.member p = true ∧ s.part = .run ∧ s.cfg.protoFence = false
        ∧ ¬ ((s.entry (txnIndex n)).phase = .awaitDone ∧ (s.entry (txnIndex n)).closePending = false
          ∧ (s.entry (txnIndex n)).gen = txnGen n ∧ (s.entry (txnIndex n)).kind = some .request
          ∧ (s.entry (txnIndex n)).requester = .agent p) :=
    ⟨run, 3, 255, calmOk_sound (by decide +kernel), by decide +kernel⟩

theorem witness_DoneEndsWaitOrIsReported_timeout :
    ∃ (s : State) (e : EntryIdx),
      s.part = .run ∧ (s.entry e).phase = .awaitDone ∧ (s.entry e).doneTimer.isSome = true :=
    ⟨atEntry { serving .rdShared .awaitDone with grantSent := some .shared, doneTimer := some 9 } (boundTo0 shared1),
      0, by decide +kernel⟩

theorem witness_AnswersMatchOrStray :
    ∃ (s : State) (p : Agent) (n : Txn) (l : Line) (c : Instr) (ans : Answer) (x : Send) (rest : List Send),
      (c = .ansClean p n l ∧ ans = .clean ∨ c = .ansWritten p n l ∧ ans = .written ∨ c = .ansGone p n l ∧ ans = .gone)
        ∧ s.pwrok = true ∧ s.member p = true ∧ s.part = .run ∧ takeSend n (s.port p).sends = some (x, rest)
        ∧ x.earlier = false ∧ (s.entry (txnIndex n)).phase = .probing ∧ (s.entry (txnIndex n)).gen = txnGen n
        ∧ has (s.entry (txnIndex n)).pendingSet p = true ∧ (s.entry (txnIndex n)).line = some l :=
    ⟨probing, 2, 32, line, .ansClean 2 32 line, .clean, ⟨32, false⟩, [], by decide +kernel⟩

theorem witness_AnswersMatchOrStray_stray :
    ∃ (s : State) (p : Agent) (n : Txn) (l : Line) (c : Instr) (m : MsgCode),
      s.calm
        ∧ (∀ x rest, takeSend n (s.port p).sends = some (x, rest) →
          x.earlier = true ∨ ¬ ((s.entry (txnIndex n)).phase = .probing ∧ (s.entry (txnIndex n)).gen = txnGen n
          ∧ has (s.entry (txnIndex n)).pendingSet p = true ∧ (s.entry (txnIndex n)).line = some l))
        ∧ (c = .ansClean p n l ∧ m = ⟨true, 1⟩ ∨ c = .ansWritten p n l ∧ m = ⟨true, 2⟩ ∨ c = .ansGone p n l
          ∧ m = ⟨true, 3⟩)
        ∧ s.pwrok = true ∧ s.member p = true ∧ s.part = .run :=
    ⟨run, 2, 32, line, .ansGone 2 32 line, ⟨true, 3⟩, calmOk_sound (by decide +kernel),
      (fun x rest h => nomatch (show (none : Option (Send × List Send)) = some (x, rest) from h)), by decide +kernel⟩

theorem witness_AnswersMatchOrStray_earlier :
    ∃ (s : State) (p : Agent) (n : Txn) (l : Line) (c : Instr) (m : MsgCode),
      s.calm
        ∧ (∀ x rest, takeSend n (s.port p).sends = some (x, rest) →
          x.earlier = true ∨ ¬ ((s.entry (txnIndex n)).phase = .probing ∧ (s.entry (txnIndex n)).gen = txnGen n
          ∧ has (s.entry (txnIndex n)).pendingSet p = true ∧ (s.entry (txnIndex n)).line = some l))
        ∧ (c = .ansClean p n l ∧ m = ⟨true, 1⟩ ∨ c = .ansWritten p n l ∧ m = ⟨true, 2⟩ ∨ c = .ansGone p n l
          ∧ m = ⟨true, 3⟩)
        ∧ s.pwrok = true ∧ s.member p = true ∧ s.part = .run :=
    ⟨probing.updPort 2 fun q => { q with sends := [⟨32, true⟩, ⟨32, false⟩] }, 2, 32, line, .ansWritten 2 32 line,
      ⟨true, 2⟩, calmOk_sound (by decide +kernel),
      (fun x rest h => .inl (by cases (show some ((⟨32, true⟩ : Send), [(⟨32, false⟩ : Send)]) = some (x, rest) from h); rfl)),
      by decide +kernel⟩

theorem witness_ProbeTimerRetriesOrFences_retry :
    ∃ (s : State) (e : EntryIdx) (a : Agent) (b : Probe),
      s.part = .run ∧ (s.entry e).probes.get a = some b ∧ s.member a = true ∧ b.retries < s.cfg.probeRetries
        ∧ (b.status = .sent ∧ s.probeCredit a = true) :=
    ⟨probing, 0, 2, ⟨.sent, 0, 256⟩, by decide +kernel⟩

/-- By the probe's status, in a calm state: SENT with a free credit, SENT without one, QUEUED and RESEND_QUEUED. -/
theorem witness_ProbeTimerRetriesOrFences_byStatus :
    ∃ s : List (State × Probe), (s.map fun x => (x.2.status, x.1.probeCredit 2)) =
          [(.sent, true), (.sent, false), (.queued, false), (.resendQueued, false)]
        ∧ (∀ x ∈ s, x.1.calm) ∧ ∀ x ∈ s, x.1.part = .run ∧ (x.1.entry 0).probes.get 2 = some x.2
          ∧ x.1.member 2 = true ∧ x.2.retries < x.1.cfg.probeRetries :=
    ⟨[(probing, ⟨.sent, 0, 256⟩), (noCredit .sent, ⟨.sent, 0, 256⟩), (noCredit .queued, ⟨.queued, 0, 256⟩),
        (noCredit .resendQueued, ⟨.resendQueued, 0, 256⟩)], by decide +kernel,
      (fun x hx => calmOk_sound (List.all_eq_true.mp (by decide +kernel : List.all _ (fun x : State × Probe => calmOk x.1) = true) x hx)),
      by decide +kernel⟩

theorem witness_ProbeTimerRetriesOrFences_fence :
    ∃ (s : State) (e : EntryIdx) (a : Agent) (b : Probe),
      s.part = .run ∧ (s.entry e).probes.get a = some b ∧ s.member a = true ∧ s.cfg.probeRetries ≤ b.retries :=
    ⟨{ probing with cfg := { run.cfg with probeRetries := 0 } }, 0, 2, ⟨.sent, 0, 256⟩, by decide +kernel⟩

theorem witness_LookupQueuesOrRefuses :
    ∃ (s : State) (f : List CellFault) (r : Request) (e : EntryIdx),
      s.noLeave ∧ s.undisturbed (setOf r.line) f ∧ s.due = some (.intake r) ∧ s.boundEntry r.line = some e
        ∧ s.member r.port = true ∧ s.freePool = some 0 :=
    ⟨{ atEntry (serving .rdOwn .awaitDone) (boundTo0 shared1) with intake := [ask .rdShared], claims := [.intake] },
      [], ask .rdShared, 0, (show ∀ r ∈ State.intake _, _ by decide +kernel), ⟨by decide +kernel, by decide +kernel⟩,
      by decide +kernel⟩

theorem witness_LookupQueuesOrRefuses_full :
    ∃ (s : State) (f : List CellFault) (r : Request) (e : EntryIdx),
      s.noLeave ∧ s.undisturbed (setOf r.line) f ∧ s.due = some (.intake r) ∧ s.boundEntry r.line = some e
        ∧ s.member r.port = true ∧ s.freePool = none :=
    ⟨
      { atEntry (serving .rdOwn .awaitDone) (boundTo0 shared1) with intake := [ask .rdShared], claims := [.intake], pool := Vector.replicate 64 (some (.clearPoison 0)) },
      [], ask .rdShared, 0, (show ∀ r ∈ State.intake _, _ by decide +kernel), ⟨by decide +kernel, by decide +kernel⟩,
      by decide +kernel⟩

theorem witness_LookupQueuesOrRefuses_lost :
    ∃ (s : State) (f : List CellFault) (r : Request),
      s.noLeave ∧ s.undisturbed (setOf r.line) f ∧ s.due = some (.intake r) ∧ s.boundEntry r.line = none
        ∧ s.member r.port = true ∧ (s.checked (setOf r.line) f).findLine r.line = none
        ∧ ((s.checked (setOf r.line) f).dirSet (setOf r.line)).lost = true :=
    ⟨atIntake (ask .rdShared) { DirSet.empty with lost := true }, [], ask .rdShared,
      (show ∀ r ∈ State.intake _, _ by decide +kernel), ⟨by decide +kernel, by decide +kernel⟩, by decide +kernel⟩

theorem witness_LookupGrantsRecord :
    ∃ (s : State) (f : List CellFault) (r : Request) (e : EntryIdx) (w : Way) (old : Record),
      s.lawful ∧ s.undisturbed (setOf r.line) f ∧ (s.checked (setOf r.line) f).onLine r.line w old
        ∧ s.due = some (.intake r) ∧ s.member r.port = true ∧ r.kind.needsGrant = true ∧ s.boundEntry r.line = none
        ∧ s.freeEntry = some e ∧ old.state ≠ .damaged ∧ probesNeeded r.kind r.port old = none :=
    ⟨atIntake (ask .rdShared) (holding shared1), [], ask .rdShared, 0, 4, shared1, lawOk_sound (by decide +kernel),
      ⟨by decide +kernel, by decide +kernel⟩, onLineOk_sound (by decide +kernel), by decide +kernel⟩

theorem witness_LookupGrantsRecord_corrected :
    ∃ (s : State) (f : List CellFault) (r : Request) (e : EntryIdx) (w : Way) (old : Record),
      s.lawful ∧ s.undisturbed (setOf r.line) f ∧ (s.checked (setOf r.line) f).onLine r.line w old
        ∧ s.due = some (.intake r) ∧ s.member r.port = true ∧ r.kind.needsGrant = true ∧ s.boundEntry r.line = none
        ∧ s.freeEntry = some e ∧ old.state ≠ .damaged ∧ probesNeeded r.kind r.port old = none :=
    ⟨atIntake (ask .rdOwn) (holding poisoned), [⟨4, .tag, .single⟩, ⟨4, .holder, .single⟩], ask .rdOwn, 0, 4,
      poisoned, lawOk_sound (by decide +kernel), ⟨by decide +kernel, by decide +kernel⟩,
      onLineOk_sound (by decide +kernel), by decide +kernel⟩

theorem witness_LookupAllocatesOrParks_takes :
    ∃ (s : State) (f : List CellFault) (r : Request) (e : EntryIdx),
      s.lawful ∧ s.undisturbed (setOf r.line) f ∧ s.due = some (.intake r) ∧ s.member r.port = true
        ∧ r.kind.needsGrant = true ∧ s.boundEntry r.line = none ∧ s.freeEntry = some e
        ∧ (s.checked (setOf r.line) f).findLine r.line = none
        ∧ ((s.checked (setOf r.line) f).dirSet (setOf r.line)).lost = false
        ∧ ((s.checked (setOf r.line) f).dirSet (setOf r.line)).allocWay e none = some 0 :=
    ⟨atIntake (ask .rdShared) DirSet.empty, [], ask .rdShared, 0, lawOk_sound (by decide +kernel),
      ⟨by decide +kernel, by decide +kernel⟩, by decide +kernel⟩

theorem witness_LookupAllocatesOrParks_parks :
    ∃ (s : State) (f : List CellFault) (r : Request) (e : EntryIdx),
      s.lawful ∧ s.undisturbed (setOf r.line) f ∧ s.due = some (.intake r) ∧ s.member r.port = true
        ∧ r.kind.needsGrant = true ∧ s.boundEntry r.line = none ∧ s.freeEntry = some e
        ∧ (s.checked (setOf r.line) f).findLine r.line = none
        ∧ ((s.checked (setOf r.line) f).dirSet (setOf r.line)).lost = false
        ∧ ((s.checked (setOf r.line) f).dirSet (setOf r.line)).allocWay e none = none :=
    ⟨atIntake (ask .rdShared) (full false), [], ask .rdShared, 0, lawOk_sound (by decide +kernel),
      ⟨by decide +kernel, by decide +kernel⟩, by decide +kernel⟩

theorem witness_LookupStartsProbeRound :
    ∃ (s : State) (f : List CellFault) (r : Request) (e : EntryIdx) (w : Way) (old : Record) (kind : ProbeKind) (set : AgentSet),
      s.lawful ∧ s.calm ∧ s.undisturbed (setOf r.line) f ∧ (s.checked (setOf r.line) f).onLine r.line w old
        ∧ s.due = some (.intake r) ∧ s.member r.port = true ∧ r.kind.needsGrant = true ∧ s.boundEntry r.line = none
        ∧ s.freeEntry = some e
        ∧ (old.state = .damaged ∧ kind = .invalidate ∧ set = s.memberSet ∨ old.state ≠ .damaged
          ∧ probesNeeded r.kind r.port old = some (kind, set)) :=
    ⟨atIntake (ask .rdOwn) (holding shared1), [], ask .rdOwn, 0, 4, shared1, .invalidate, 2,
      lawOk_sound (by decide +kernel), calmOk_sound (by decide +kernel), ⟨by decide +kernel, by decide +kernel⟩, onLineOk_sound (by decide +kernel),
      by decide +kernel⟩

theorem witness_LookupStartsProbeRound_damaged :
    ∃ (s : State) (f : List CellFault) (r : Request) (e : EntryIdx) (w : Way) (old : Record) (kind : ProbeKind) (set : AgentSet),
      s.lawful ∧ s.undisturbed (setOf r.line) f ∧ (s.checked (setOf r.line) f).onLine r.line w old
        ∧ s.due = some (.intake r) ∧ s.member r.port = true ∧ r.kind.needsGrant = true ∧ s.boundEntry r.line = none
        ∧ s.freeEntry = some e
        ∧ (old.state = .damaged ∧ kind = .invalidate ∧ set = s.memberSet ∨ old.state ≠ .damaged
          ∧ probesNeeded r.kind r.port old = some (kind, set)) :=
    ⟨atIntake (ask .upgrade) (holding damaged), [], ask .upgrade, 0, 4, damaged, .invalidate, 255,
      lawOk_sound (by decide +kernel), ⟨by decide +kernel, by decide +kernel⟩, onLineOk_sound (by decide +kernel),
      by decide +kernel⟩

/-- Agent 1's port has used its 8 probe credits, all on sends of the number that entry 0 takes next. -/
theorem witness_LookupStartsProbeRound_noCredit :
    ∃ (s : State) (f : List CellFault) (r : Request) (e : EntryIdx) (w : Way) (old : Record) (kind : ProbeKind) (set : AgentSet),
      s.lawful ∧ s.calm ∧ s.undisturbed (setOf r.line) f ∧ (s.checked (setOf r.line) f).onLine r.line w old
        ∧ s.due = some (.intake r) ∧ s.member r.port = true ∧ r.kind.needsGrant = true ∧ s.boundEntry r.line = none
        ∧ s.freeEntry = some e ∧ old.state ≠ .damaged ∧ probesNeeded r.kind r.port old = some (kind, set)
        ∧ has set 1 = true ∧ s.member 1 = true ∧ s.probeCredit 1 = false :=
    ⟨(atIntake (ask .rdOwn) (holding shared1)).updPort 1 fun q => { q with sends := List.replicate 8 ⟨32, false⟩ }, [],
      ask .rdOwn, 0, 4, shared1, .invalidate, 2, lawOk_sound (by decide +kernel), calmOk_sound (by decide +kernel),
      ⟨by decide +kernel, by decide +kernel⟩, onLineOk_sound (by decide +kernel), by decide +kernel⟩

theorem witness_LookupAnswersNotice :
    ∃ (s : State) (f : List CellFault) (r : Request),
      s.lawful ∧ s.undisturbed (setOf r.line) f ∧ (s.checked (setOf r.line) f).lineBound r.line none
        ∧ (s.checked (setOf r.line) f).onLine r.line 4 shared1 ∧ s.due = some (.intake r) ∧ s.member r.port = true
        ∧ (r.kind = .writeback ∨ r.kind = .drop) ∧ s.boundEntry r.line = none :=
    ⟨atIntake (ask .drop) (holding shared1), [], ask .drop, lawOk_sound (by decide +kernel),
      ⟨by decide +kernel, by decide +kernel⟩, (show ∀ w : Way, _ by decide +kernel),
      onLineOk_sound (by decide +kernel), by decide +kernel⟩

theorem witness_LookupAnswersNotice_absent :
    ∃ (s : State) (f : List CellFault) (r : Request),
      s.lawful ∧ s.undisturbed (setOf r.line) f ∧ (s.checked (setOf r.line) f).lineBound r.line none
        ∧ s.due = some (.intake r) ∧ s.member r.port = true ∧ (r.kind = .writeback ∨ r.kind = .drop)
        ∧ s.boundEntry r.line = none ∧ (s.checked (setOf r.line) f).findLine r.line = none
        ∧ ((s.checked (setOf r.line) f).dirSet (setOf r.line)).lost = false :=
    ⟨atIntake (ask .writeback) DirSet.empty, [], ask .writeback, lawOk_sound (by decide +kernel),
      ⟨by decide +kernel, by decide +kernel⟩, (show ∀ w : Way, _ by decide +kernel), by decide +kernel⟩

theorem witness_ResolutionGrants :
    ∃ (s : State) (f : List CellFault) (e : EntryIdx) (r : Request) (w : Way) (old : Record),
      s.lawful ∧ s.undisturbed (setOf r.line) f ∧ (s.checked (setOf r.line) f).onLine r.line w old
        ∧ s.due = some (.resolution e) ∧ s.requestOf e = some r ∧ s.member r.port = true ∧ old.state ≠ .damaged
        ∧ (grantOn r.kind r.port r.fullWrite old (s.entry e)).lostOwner = some 2 :=
    ⟨
      atEntry { serving .rdShared .probing with answers := (Entry.freeOf 0).answers.set 2 (some .fenceGone) } (boundTo0 owned2),
      [], 0, ask .rdShared, 4, owned2, lawOk_sound (by decide +kernel), ⟨by decide +kernel, by decide +kernel⟩,
      onLineOk_sound (by decide +kernel), by decide +kernel⟩

theorem witness_ParkedTakesSlot :
    ∃ (s : State) (f : List CellFault) (e : EntryIdx) (r : Request) (w : Way),
      s.lawful ∧ s.undisturbed (setOf r.line) f ∧ s.due = some (.parked e) ∧ s.requestOf e = some r
        ∧ s.member r.port = true ∧ (s.checked (setOf r.line) f).findLine r.line = none
        ∧ ((s.checked (setOf r.line) f).dirSet (setOf r.line)).allocWay e none = some w :=
    ⟨
      atEntry { serving .rdShared .awaitSlot with way := none, slotClaim := true } { DirSet.empty with slots := DirSet.empty.slots.set 9 { Slot.empty with reservation := some 0 } },
      [], 0, ask .rdShared, 9, lawOk_sound (by decide +kernel), ⟨by decide +kernel, by decide +kernel⟩,
      by decide +kernel⟩

theorem witness_CloseFiltersFencedHolders :
    ∃ (s : State) (f : List CellFault) (e : EntryIdx) (w : Way) (r : Record),
      s.lawful ∧ s.undisturbed (setOf (s.lineOfEntry e)) f
        ∧ (s.checked (setOf (s.lineOfEntry e)) f).onLine (s.lineOfEntry e) w r
        ∧ (s.checked (setOf (s.lineOfEntry e)) f).lineBound (s.lineOfEntry e) (some e) ∧ s.due = some (.close e)
        ∧ ¬ ((s.entry e).kind = some .request ∧ (s.entry e).grantSent.isSome = true ∧ r.state = .damaged)
        ∧ (s.entry e).waiters = [] ∧ closeTable s.fencedSet r = none :=
    ⟨
      withPort (atEntry { serving .rdShared .awaitDone with closePending := true, grantSent := some .shared } (boundTo0 shared1)) 1 .fenced,
      [], 0, 4, shared1, lawOk_sound (by decide +kernel), ⟨by decide +kernel, by decide +kernel⟩,
      onLineOk_sound (by decide +kernel), (show ∀ w : Way, _ by decide +kernel), by decide +kernel⟩

theorem witness_CloseFiltersFencedHolders_owner :
    ∃ (s : State) (f : List CellFault) (e : EntryIdx) (w : Way) (r : Record),
      s.lawful ∧ s.undisturbed (setOf (s.lineOfEntry e)) f
        ∧ (s.checked (setOf (s.lineOfEntry e)) f).onLine (s.lineOfEntry e) w r
        ∧ (s.checked (setOf (s.lineOfEntry e)) f).lineBound (s.lineOfEntry e) (some e) ∧ s.due = some (.close e)
        ∧ ¬ ((s.entry e).kind = some .request ∧ (s.entry e).grantSent.isSome = true ∧ r.state = .damaged)
        ∧ (s.entry e).waiters = [] ∧ r.state = .owned ∧ r.owner = some 2 ∧ has s.fencedSet 2 = true :=
    ⟨
      withPort (atEntry { serving .rdShared .awaitDone with closePending := true, grantSent := some .shared } (boundTo0 owned2)) 2 .fenced,
      [], 0, 4, owned2, lawOk_sound (by decide +kernel), ⟨by decide +kernel, by decide +kernel⟩,
      onLineOk_sound (by decide +kernel), (show ∀ w : Way, _ by decide +kernel), by decide +kernel⟩

theorem witness_CloseHandsOn_free :
    ∃ (s : State) (f : List CellFault) (e : EntryIdx),
      s.undisturbed (setOf (s.lineOfEntry e)) f
        ∧ (s.checked (setOf (s.lineOfEntry e)) f).lineBound (s.lineOfEntry e) (some e) ∧ s.due = some (.close e)
        ∧ ¬ ((s.entry e).kind = some .request ∧ (s.entry e).grantSent.isSome = true
          ∧ (s.checked (setOf (s.lineOfEntry e)) f).recordState e = some .damaged)
        ∧ (s.entry e).waiters = [] :=
    ⟨atEntry { serving .rdShared .awaitDone with closePending := true, grantSent := some .shared } (boundTo0 shared1),
      [], 0, ⟨by decide +kernel, by decide +kernel⟩, (show ∀ w : Way, _ by decide +kernel), by decide +kernel⟩

theorem witness_CloseHandsOn_request :
    ∃ (s : State) (f : List CellFault) (e : EntryIdx),
      s.undisturbed (setOf (s.lineOfEntry e)) f
        ∧ (s.checked (setOf (s.lineOfEntry e)) f).lineBound (s.lineOfEntry e) (some e) ∧ s.due = some (.close e)
        ∧ ¬ ((s.entry e).kind = some .request ∧ (s.entry e).grantSent.isSome = true
          ∧ (s.checked (setOf (s.lineOfEntry e)) f).recordState e = some .damaged)
        ∧ (s.entry e).waiters = [0] ∧ s.waiter 0 = some (.request (ask .rdOwn)) :=
    ⟨
      waits (.request (ask .rdOwn)) (atEntry { serving .rdShared .awaitDone with closePending := true, grantSent := some .shared } (boundTo0 shared1)),
      [], 0, ⟨by decide +kernel, by decide +kernel⟩, (show ∀ w : Way, _ by decide +kernel), by decide +kernel⟩

theorem witness_CloseHandsOn_recall :
    ∃ (s : State) (f : List CellFault) (e : EntryIdx),
      s.undisturbed (setOf (s.lineOfEntry e)) f
        ∧ (s.checked (setOf (s.lineOfEntry e)) f).lineBound (s.lineOfEntry e) (some e) ∧ s.due = some (.close e)
        ∧ ¬ ((s.entry e).kind = some .request ∧ (s.entry e).grantSent.isSome = true
          ∧ (s.checked (setOf (s.lineOfEntry e)) f).recordState e = some .damaged)
        ∧ (s.entry e).waiters = [0] ∧ s.waiter 0 = some (.recallLine line) :=
    ⟨
      waits (.recallLine line) (atEntry { serving .rdShared .awaitDone with closePending := true, grantSent := some .shared } (boundTo0 shared1)),
      [], 0, ⟨by decide +kernel, by decide +kernel⟩, (show ∀ w : Way, _ by decide +kernel), by decide +kernel⟩

theorem witness_CloseHandsOn_notice :
    ∃ (s : State) (f : List CellFault) (e : EntryIdx),
      s.undisturbed (setOf (s.lineOfEntry e)) f
        ∧ (s.checked (setOf (s.lineOfEntry e)) f).lineBound (s.lineOfEntry e) (some e) ∧ s.due = some (.close e)
        ∧ ¬ ((s.entry e).kind = some .request ∧ (s.entry e).grantSent.isSome = true
          ∧ (s.checked (setOf (s.lineOfEntry e)) f).recordState e = some .damaged)
        ∧ (s.entry e).waiters = [0]
        ∧ (s.waiter 0 = some (.request (ask .drop)) ∧ (Waiter.request (ask .drop)).oneAccess = true) :=
    ⟨
      waits (.request (ask .drop)) (atEntry { serving .rdShared .awaitDone with closePending := true, grantSent := some .shared } (boundTo0 shared1)),
      [], 0, ⟨by decide +kernel, by decide +kernel⟩, (show ∀ w : Way, _ by decide +kernel), by decide +kernel⟩

theorem witness_CloseRepairsDamagedRecord :
    ∃ (s : State) (f : List CellFault) (e : EntryIdx),
      s.undisturbed (setOf (s.lineOfEntry e)) f ∧ s.due = some (.close e) ∧ (s.entry e).kind = some .request
        ∧ (s.entry e).grantSent.isSome = true ∧ (s.checked (setOf (s.lineOfEntry e)) f).recordState e = some .damaged :=
    ⟨atEntry { serving .rdShared .awaitDone with closePending := true, grantSent := some .shared } (boundTo0 shared1),
      [⟨4, .holder, .uncorrectable⟩], 0, ⟨by decide +kernel, by decide +kernel⟩, by decide +kernel⟩

theorem witness_HandedOnRequestIsDecided_grant :
    ∃ (s : State) (f : List CellFault) (e : EntryIdx) (r : Request) (w : Way) (old : Record),
      s.lawful ∧ s.undisturbed (setOf r.line) f ∧ (s.checked (setOf r.line) f).onLine r.line w old
        ∧ (s.checked (setOf r.line) f).lineBound r.line (some e) ∧ s.due = some (.handedOn e) ∧ s.requestOf e = some r
        ∧ (s.entry e).kind = some .request ∧ s.member r.port = true ∧ old.state ≠ .damaged
        ∧ probesNeeded r.kind r.port old = none :=
    ⟨atEntry (serving .rdShared .lookup) (boundTo0 shared1), [], 0, ask .rdShared, 4, shared1,
      lawOk_sound (by decide +kernel), ⟨by decide +kernel, by decide +kernel⟩, onLineOk_sound (by decide +kernel),
      (show ∀ w : Way, _ by decide +kernel), by decide +kernel⟩

theorem witness_HandedOnRequestIsDecided_fenced :
    ∃ (s : State) (f : List CellFault) (e : EntryIdx) (r : Request) (w : Way) (old : Record),
      s.lawful ∧ s.undisturbed (setOf r.line) f ∧ (s.checked (setOf r.line) f).onLine r.line w old
        ∧ (s.checked (setOf r.line) f).lineBound r.line (some e) ∧ s.due = some (.handedOn e) ∧ s.requestOf e = some r
        ∧ (s.entry e).kind = some .request ∧ s.fenced r.port = true ∧ (s.entry e).waiters = [] :=
    ⟨withPort (atEntry (serving .rdShared .lookup) (boundTo0 shared1)) 3 .fenced, [], 0, ask .rdShared, 4, shared1,
      lawOk_sound (by decide +kernel), ⟨by decide +kernel, by decide +kernel⟩, onLineOk_sound (by decide +kernel),
      (show ∀ w : Way, _ by decide +kernel), by decide +kernel⟩

theorem witness_ReleasingDecidesWaiter_notice :
    ∃ (s : State) (f : List CellFault) (e : EntryIdx) (i : PoolIdx) (x : Waiter) (old : Record),
      s.lawful ∧ s.noLeave ∧ s.undisturbed (setOf (s.lineOfEntry e)) f
        ∧ (s.checked (setOf (s.lineOfEntry e)) f).onLine (s.lineOfEntry e) 4 old
        ∧ (s.checked (setOf (s.lineOfEntry e)) f).lineBound (s.lineOfEntry e) (some e) ∧ s.due = some (.releasing e)
        ∧ (s.entry e).waiters = [i] ∧ s.waiter i = some x ∧ x.oneAccess = true ∧ x = .request (ask .drop)
        ∧ s.member (ask .drop).port = true :=
    ⟨
      waits (.request (ask .drop)) (atEntry (serving .rdShared .releasing) (boundTo0 ⟨tagOf line, .shared, only 3, true⟩)),
      [], 0, 0, .request (ask .drop), ⟨tagOf line, .shared, only 3, true⟩, lawOk_sound (by decide +kernel),
      (show ∀ r ∈ State.intake _, _ by decide +kernel), ⟨by decide +kernel, by decide +kernel⟩,
      onLineOk_sound (by decide +kernel), (show ∀ w : Way, _ by decide +kernel), by decide +kernel⟩

theorem witness_ReleasingDecidesWaiter_clearPoison :
    ∃ (s : State) (f : List CellFault) (e : EntryIdx) (i : PoolIdx) (x : Waiter) (old : Record),
      s.lawful ∧ s.undisturbed (setOf (s.lineOfEntry e)) f
        ∧ (s.checked (setOf (s.lineOfEntry e)) f).onLine (s.lineOfEntry e) 4 old
        ∧ (s.checked (setOf (s.lineOfEntry e)) f).lineBound (s.lineOfEntry e) (some e) ∧ s.due = some (.releasing e)
        ∧ (s.entry e).waiters = [i] ∧ s.waiter i = some x ∧ x.oneAccess = true ∧ x = .clearPoison line :=
    ⟨waits (.clearPoison line) (atEntry (serving .rdShared .releasing) (boundTo0 poisoned)), [], 0, 0,
      .clearPoison line, poisoned, lawOk_sound (by decide +kernel), ⟨by decide +kernel, by decide +kernel⟩,
      onLineOk_sound (by decide +kernel), (show ∀ w : Way, _ by decide +kernel), by decide +kernel⟩

/-- A notice, and behind it `x`, on entry 0's list; entry 0 releases a line without a record. -/
def releasing2 (x : Waiter) : State :=
  ((atEntry { serving .rdShared .releasing with way := none, waiters := [0, 1] } DirSet.empty).setWaiter 0
    (some (.request (ask .writeback)))).setWaiter 1 (some x)

theorem witness_ReleasingDecidesWaiter_absent (x : Waiter)
    (h : x = .request (ask .rdOwn) ∨ x = .recallLine line ∨ x = .clearPoison line) :
    ∃ (s : State) (f : List CellFault) (e : EntryIdx),
      s.lawful ∧ s.noLeave ∧ s.undisturbed (setOf (s.lineOfEntry e)) f
        ∧ (s.checked (setOf (s.lineOfEntry e)) f).lineBound (s.lineOfEntry e) (some e)
        ∧ (s.checked (setOf (s.lineOfEntry e)) f).findLine (s.lineOfEntry e) = none ∧ s.due = some (.releasing e)
        ∧ (s.entry e).waiters = [0, 1] ∧ s.waiter 0 = some (.request (ask .writeback)) ∧ s.waiter 1 = some x := by
  rcases h with rfl | rfl | rfl
  · exact ⟨releasing2 (.request (ask .rdOwn)), [], 0, lawOk_sound (by decide +kernel),
      (show ∀ r ∈ State.intake _, _ by decide +kernel), ⟨by decide +kernel, by decide +kernel⟩,
      (show ∀ w : Way, _ by decide +kernel), by decide +kernel⟩
  · exact ⟨releasing2 (.recallLine line), [], 0, lawOk_sound (by decide +kernel),
      (show ∀ r ∈ State.intake _, _ by decide +kernel), ⟨by decide +kernel, by decide +kernel⟩,
      (show ∀ w : Way, _ by decide +kernel), by decide +kernel⟩
  · exact ⟨releasing2 (.clearPoison line), [], 0, lawOk_sound (by decide +kernel),
      (show ∀ r ∈ State.intake _, _ by decide +kernel), ⟨by decide +kernel, by decide +kernel⟩,
      (show ∀ w : Way, _ by decide +kernel), by decide +kernel⟩

theorem witness_ReleasingDecidesWaiter_entryWaiter :
    ∃ (s : State) (f : List CellFault) (e : EntryIdx),
      s.lawful ∧ s.undisturbed (setOf (s.lineOfEntry e)) f ∧ s.due = some (.releasing e)
        ∧ ∀ i ∈ (s.entry e).waiters, s.waiter i = some (.request (ask .rdOwn))
          ∧ (Waiter.request (ask .rdOwn)).oneAccess = false :=
    ⟨waits (.request (ask .rdOwn)) (atEntry (serving .rdShared .releasing) (boundTo0 shared1)), [], 0,
      lawOk_sound (by decide +kernel), ⟨by decide +kernel, by decide +kernel⟩, by decide +kernel⟩

theorem witness_RecallStartFindsSlot_fenced :
    ∃ (s : State) (f : List CellFault) (p : EntryIdx),
      s.lawful ∧ s.undisturbed (setOf (s.lineOfEntry p)) f ∧ s.due = some (.recallStart p)
        ∧ s.requesterFenced p = true ∧ (s.entry p).waiters = [] :=
    ⟨withPort (atStart (.parked 0) { serving .rdShared .awaitSlot with way := none } (full false)) 3 .fenced, [], 0,
      lawOk_sound (by decide +kernel), ⟨by decide +kernel, by decide +kernel⟩, by decide +kernel⟩

theorem witness_RecallStartFindsSlot_free :
    ∃ (s : State) (f : List CellFault) (p : EntryIdx),
      s.lawful ∧ s.undisturbed (setOf (s.lineOfEntry p)) f ∧ s.due = some (.recallStart p)
        ∧ s.requesterFenced p = false
        ∧ ((s.checked (setOf (s.lineOfEntry p)) f).dirSet (setOf (s.lineOfEntry p))).usableWay p = some 0 :=
    ⟨atStart (.parked 0) { serving .rdShared .awaitSlot with way := none } (holding ⟨7, .shared, 1, false⟩), [], 0,
      lawOk_sound (by decide +kernel), ⟨by decide +kernel, by decide +kernel⟩, by decide +kernel⟩

theorem witness_RecallStartFindsSlot_victim :
    ∃ (s : State) (f : List CellFault) (p : EntryIdx),
      s.lawful ∧ s.undisturbed (setOf (s.lineOfEntry p)) f ∧ s.due = some (.recallStart p)
        ∧ s.requesterFenced p = false
        ∧ ((s.checked (setOf (s.lineOfEntry p)) f).dirSet (setOf (s.lineOfEntry p))).usableWay p = none
        ∧ ((s.checked (setOf (s.lineOfEntry p)) f).dirSet (setOf (s.lineOfEntry p))).victim = some 15
        ∧ ((s.checked (setOf (s.lineOfEntry p)) f).dirSet (setOf (s.lineOfEntry p))).record 15 = some ⟨15, .shared, 1, false⟩
        ∧ s.freeEntry = some 1 :=
    ⟨atStart (.parked 0) { serving .rdShared .awaitSlot with way := none } (full false), [], 0,
      lawOk_sound (by decide +kernel), ⟨by decide +kernel, by decide +kernel⟩, by decide +kernel⟩

theorem witness_RecallStartFindsSlot_noSlot :
    ∃ (s : State) (f : List CellFault) (p : EntryIdx),
      s.lawful ∧ s.undisturbed (setOf (s.lineOfEntry p)) f ∧ s.due = some (.recallStart p)
        ∧ s.requesterFenced p = false
        ∧ ((s.checked (setOf (s.lineOfEntry p)) f).dirSet (setOf (s.lineOfEntry p))).usableWay p = none
        ∧ ((s.checked (setOf (s.lineOfEntry p)) f).dirSet (setOf (s.lineOfEntry p))).victim = none
        ∧ s.requestOf p = some (ask .rdShared) ∧ s.member (ask .rdShared).port = true ∧ (s.entry p).waiters = [] :=
    ⟨atStart (.parked 0) { serving .rdShared .awaitSlot with way := none } (full true), [], 0,
      lawOk_sound (by decide +kernel), ⟨by decide +kernel, by decide +kernel⟩, by decide +kernel⟩

/-- The least recently used candidate is a DAMAGED record, poison no. -/
theorem witness_RecallStartFindsSlot_damaged :
    ∃ (s : State) (f : List CellFault) (p : EntryIdx) (r : Record),
      s.lawful ∧ s.calm ∧ s.undisturbed (setOf (s.lineOfEntry p)) f ∧ s.due = some (.recallStart p)
        ∧ s.requesterFenced p = false
        ∧ ((s.checked (setOf (s.lineOfEntry p)) f).dirSet (setOf (s.lineOfEntry p))).usableWay p = none
        ∧ ((s.checked (setOf (s.lineOfEntry p)) f).dirSet (setOf (s.lineOfEntry p))).victim = some 15
        ∧ ((s.checked (setOf (s.lineOfEntry p)) f).dirSet (setOf (s.lineOfEntry p))).record 15 = some r
        ∧ r.state = .damaged ∧ s.freeEntry = some 1 :=
    ⟨atStart (.parked 0) { serving .rdShared .awaitSlot with way := none } damagedLast, [], 0, ⟨15, .damaged, 0, false⟩,
      lawOk_sound (by decide +kernel), calmOk_sound (by decide +kernel), ⟨by decide +kernel, by decide +kernel⟩,
      by decide +kernel⟩

/-- The start claim was raised while an entry was FREE, and the last FREE entry was taken since. -/
theorem witness_RecallStartFindsSlot_waits :
    ∃ (s : State) (f : List CellFault) (p : EntryIdx),
      s.lawful ∧ s.undisturbed (setOf (s.lineOfEntry p)) f ∧ s.due = some (.recallStart p)
        ∧ s.requesterFenced p = false
        ∧ ((s.checked (setOf (s.lineOfEntry p)) f).dirSet (setOf (s.lineOfEntry p))).usableWay p = none
        ∧ ((s.checked (setOf (s.lineOfEntry p)) f).dirSet (setOf (s.lineOfEntry p))).victim = some 15
        ∧ s.freeEntry = none :=
    ⟨{ atStart (.parked 0) (Entry.freeOf 0) (full false) with
        tt := Vector.replicate 32 { serving .rdShared .awaitSlot with way := none } }, [], 0,
      lawOk_sound (by decide +kernel), ⟨by decide +kernel, by decide +kernel⟩, by decide +kernel⟩

theorem witness_RecallFreesVictimOrPoisons_frees :
    ∃ (s : State) (f : List CellFault) (e : EntryIdx) (p : EntryIdx) (w : Way) (r : Record),
      s.lawful ∧ s.undisturbed (setOf (s.lineOfEntry e)) f
        ∧ (s.checked (setOf (s.lineOfEntry e)) f).onLine (s.lineOfEntry e) w r ∧ s.due = some (.recallResolution e)
        ∧ r.state ≠ .damaged ∧ s.recallUnit.serves.get e = some p ∧ p ≠ e ∧ (s.entry e).kind = some .recallVictim
        ∧ (s.entry e).waiters = [] ∧ r.lostOwner (s.entry e) = none :=
    ⟨
      { atAccess (settled .recallVictim) (boundTo0 shared1) with recallUnit := { RecallUnit.idle with accesses := [0], inFlight := 1, serves := RecallUnit.idle.serves.set 0 (some 1) } },
      [], 0, 1, 4, shared1, lawOk_sound (by decide +kernel), ⟨by decide +kernel, by decide +kernel⟩,
      onLineOk_sound (by decide +kernel), by decide +kernel⟩

theorem witness_RecallFreesVictimOrPoisons_poisons :
    ∃ (s : State) (f : List CellFault) (e : EntryIdx) (p : EntryIdx) (w : Way) (r : Record),
      s.lawful ∧ s.undisturbed (setOf (s.lineOfEntry e)) f
        ∧ (s.checked (setOf (s.lineOfEntry e)) f).onLine (s.lineOfEntry e) w r ∧ s.due = some (.recallResolution e)
        ∧ r.state ≠ .damaged ∧ s.recallUnit.serves.get e = some p ∧ p ≠ e ∧ (s.entry e).kind = some .recallVictim
        ∧ (s.entry e).waiters = [] ∧ r.lostOwner (s.entry e) = some 2 :=
    ⟨
      { atAccess { settled .recallVictim with answers := (Entry.freeOf 0).answers.set 2 (some .fenceGone) } (boundTo0 owned2) with recallUnit := { RecallUnit.idle with accesses := [0], inFlight := 1, serves := RecallUnit.idle.serves.set 0 (some 1) } },
      [], 0, 1, 4, owned2, lawOk_sound (by decide +kernel), ⟨by decide +kernel, by decide +kernel⟩,
      onLineOk_sound (by decide +kernel), by decide +kernel⟩

theorem witness_RetireStartEmptiesSlot_free :
    ∃ (s : State) (f : List CellFault) (k : SetIdx) (w : Way),
      s.lawful ∧ s.undisturbed k f ∧ s.due = some (.retireStart k w)
        ∧ (((s.checked k f).dirSet k).slot w).mark = .inService ∧ ((s.checked k f).dirSet k).mapHasRoom = true
        ∧ (((s.checked k f).dirSet k).slot w).content = none :=
    ⟨atStart (.retire 713 5) (Entry.freeOf 0) (holding shared1), [], 713, 5, lawOk_sound (by decide +kernel),
      ⟨by decide +kernel, by decide +kernel⟩, by decide +kernel⟩

theorem witness_RetireStartEmptiesSlot_move :
    ∃ (s : State) (f : List CellFault) (k : SetIdx) (w : Way),
      s.lawful ∧ s.undisturbed k f ∧ s.due = some (.retireStart k w)
        ∧ (((s.checked k f).dirSet k).slot w).mark = .inService ∧ ((s.checked k f).dirSet k).mapHasRoom = true
        ∧ (((s.checked k f).dirSet k).slot w).content = some poisoned
        ∧ (((s.checked k f).dirSet k).slot w).bound = none ∧ ((s.checked k f).dirSet k).moveWay = some 0 :=
    ⟨atStart (.retire 713 4) (Entry.freeOf 0) (holding poisoned), [], 713, 4, lawOk_sound (by decide +kernel),
      ⟨by decide +kernel, by decide +kernel⟩, by decide +kernel⟩

theorem witness_RetireStartEmptiesSlot_recall :
    ∃ (s : State) (f : List CellFault) (k : SetIdx) (w : Way),
      s.lawful ∧ s.undisturbed k f ∧ s.due = some (.retireStart k w)
        ∧ (((s.checked k f).dirSet k).slot w).mark = .inService ∧ ((s.checked k f).dirSet k).mapHasRoom = true
        ∧ (((s.checked k f).dirSet k).slot w).content = some shared1
        ∧ (((s.checked k f).dirSet k).slot w).bound = none ∧ s.freeEntry = some 0 :=
    ⟨atStart (.retire 713 4) (Entry.freeOf 0) (holding shared1), [], 713, 4, lawOk_sound (by decide +kernel),
      ⟨by decide +kernel, by decide +kernel⟩, by decide +kernel⟩

theorem witness_RetireStartEmptiesSlot_denied :
    ∃ (s : State) (f : List CellFault) (k : SetIdx) (w : Way),
      s.lawful ∧ s.undisturbed k f ∧ s.due = some (.retireStart k w)
        ∧ (((s.checked k f).dirSet k).slot w).mark = .inService ∧ ((s.checked k f).dirSet k).mapHasRoom = false :=
    ⟨atStart (.retire 713 4) (Entry.freeOf 0) (fullMap (holding shared1)), [], 713, 4,
      lawOk_sound (by decide +kernel), ⟨by decide +kernel, by decide +kernel⟩, by decide +kernel⟩

theorem witness_RetireResolutionWithdrawsSlot :
    ∃ (s : State) (f : List CellFault) (e : EntryIdx) (w : Way) (r : Record),
      s.lawful ∧ s.undisturbed (setOf (s.lineOfEntry e)) f
        ∧ (s.checked (setOf (s.lineOfEntry e)) f).onLine (s.lineOfEntry e) w r ∧ s.due = some (.retireResolution e)
        ∧ r.state ≠ .damaged ∧ r.lostOwner (s.entry e) = none ∧ (s.entry e).waiters = []
        ∧ ((s.checked (setOf (s.lineOfEntry e)) f).dirSet (setOf (s.lineOfEntry e))).recency.Nodup
        ∧ ((s.checked (setOf (s.lineOfEntry e)) f).dirSet (setOf (s.lineOfEntry e))).mapHasRoom = true :=
    ⟨atAccess (settled .retire) (boundTo0 shared1), [], 0, 4, shared1, lawOk_sound (by decide +kernel),
      ⟨by decide +kernel, by decide +kernel⟩, onLineOk_sound (by decide +kernel), by decide +kernel⟩

theorem witness_RetireResolutionWithdrawsSlot_denied :
    ∃ (s : State) (f : List CellFault) (e : EntryIdx) (w : Way) (r : Record),
      s.lawful ∧ s.undisturbed (setOf (s.lineOfEntry e)) f
        ∧ (s.checked (setOf (s.lineOfEntry e)) f).onLine (s.lineOfEntry e) w r ∧ s.due = some (.retireResolution e)
        ∧ r.state ≠ .damaged ∧ r.lostOwner (s.entry e) = none ∧ (s.entry e).waiters = []
        ∧ ((s.checked (setOf (s.lineOfEntry e)) f).dirSet (setOf (s.lineOfEntry e))).recency.Nodup
        ∧ ((s.checked (setOf (s.lineOfEntry e)) f).dirSet (setOf (s.lineOfEntry e))).mapHasRoom = false :=
    ⟨atAccess (settled .retire) (fullMap (boundTo0 shared1)), [], 0, 4, shared1, lawOk_sound (by decide +kernel),
      ⟨by decide +kernel, by decide +kernel⟩, onLineOk_sound (by decide +kernel), by decide +kernel⟩

theorem witness_RepairStartProbesDomain :
    ∃ (s : State) (f : List CellFault) (k : SetIdx) (t : Tag),
      s.lawful ∧ s.undisturbed k f ∧ s.due = some (.repairStart k t) ∧ ((s.checked k f).dirSet k).findTag t = some 4
        ∧ ((s.checked k f).dirSet k).record 4 = some damaged ∧ (((s.checked k f).dirSet k).slot 4).bound = none
        ∧ s.freeEntry = some 0 :=
    ⟨atStart (.repair 713 2441) (Entry.freeOf 0) (holding damaged), [], 713, 2441, lawOk_sound (by decide +kernel),
      ⟨by decide +kernel, by decide +kernel⟩, by decide +kernel⟩

theorem witness_RepairStartProbesDomain_dropped :
    ∃ (s : State) (f : List CellFault) (k : SetIdx) (t : Tag),
      s.lawful ∧ s.undisturbed k f ∧ s.due = some (.repairStart k t) ∧ ((s.checked k f).dirSet k).findTag t = some 4
        ∧ ((s.checked k f).dirSet k).record 4 = some shared1 :=
    ⟨atStart (.repair 713 2441) (Entry.freeOf 0) (holding shared1), [], 713, 2441, lawOk_sound (by decide +kernel),
      ⟨by decide +kernel, by decide +kernel⟩, by decide +kernel⟩

theorem witness_RepairResolutionSettlesRecord_frees :
    ∃ (s : State) (f : List CellFault) (e : EntryIdx) (w : Way) (r : Record),
      s.lawful ∧ s.undisturbed (setOf (s.lineOfEntry e)) f
        ∧ (s.checked (setOf (s.lineOfEntry e)) f).onLine (s.lineOfEntry e) w r ∧ s.due = some (.repairResolution e)
        ∧ w ∉ (s.takeClaim.beginAccess (setOf (s.lineOfEntry e)) f).rebuilt ∧ (s.entry e).waiters = []
        ∧ (s.entry e).keep = none ∧ (s.entry e).kind = some .repair :=
    ⟨atAccess { settled .repair with repairRound := true } (boundTo0 damaged), [], 0, 4, damaged,
      lawOk_sound (by decide +kernel), ⟨by decide +kernel, by decide +kernel⟩, onLineOk_sound (by decide +kernel),
      by decide +kernel⟩

theorem witness_RepairResolutionSettlesRecord_keeps :
    ∃ (s : State) (f : List CellFault) (e : EntryIdx) (w : Way) (r : Record),
      s.lawful ∧ s.undisturbed (setOf (s.lineOfEntry e)) f
        ∧ (s.checked (setOf (s.lineOfEntry e)) f).onLine (s.lineOfEntry e) w r ∧ s.due = some (.repairResolution e)
        ∧ w ∉ (s.takeClaim.beginAccess (setOf (s.lineOfEntry e)) f).rebuilt ∧ (s.entry e).waiters = []
        ∧ (s.entry e).keep = some 3 ∧ s.fencedSet = 0 :=
    ⟨
      atEntry { serving .rdOwn .probing with repairRound := true, keep := some 3, grantSent := some .own } (boundTo0 damaged),
      [], 0, 4, damaged, lawOk_sound (by decide +kernel), ⟨by decide +kernel, by decide +kernel⟩,
      onLineOk_sound (by decide +kernel), by decide +kernel⟩

theorem witness_RepairResolutionSettlesRecord_keepFenced :
    ∃ (s : State) (f : List CellFault) (e : EntryIdx) (w : Way) (r : Record),
      s.lawful ∧ s.undisturbed (setOf (s.lineOfEntry e)) f
        ∧ (s.checked (setOf (s.lineOfEntry e)) f).onLine (s.lineOfEntry e) w r ∧ s.due = some (.repairResolution e)
        ∧ w ∉ (s.takeClaim.beginAccess (setOf (s.lineOfEntry e)) f).rebuilt ∧ (s.entry e).waiters = []
        ∧ (s.entry e).keep = some 3 ∧ (s.entry e).grantSent = some .own ∧ has s.fencedSet 3 = true :=
    ⟨
      withPort (atEntry { serving .rdOwn .probing with repairRound := true, keep := some 3, grantSent := some .own } (boundTo0 damaged)) 3 .fenced,
      [], 0, 4, damaged, lawOk_sound (by decide +kernel), ⟨by decide +kernel, by decide +kernel⟩,
      onLineOk_sound (by decide +kernel), by decide +kernel⟩

theorem witness_RepairResolutionSettlesRecord_again :
    ∃ (s : State) (f : List CellFault) (e : EntryIdx) (w : Way) (r : Record),
      s.lawful ∧ s.undisturbed (setOf (s.lineOfEntry e)) f
        ∧ (s.checked (setOf (s.lineOfEntry e)) f).onLine (s.lineOfEntry e) w r ∧ s.due = some (.repairResolution e)
        ∧ w ∈ (s.takeClaim.beginAccess (setOf (s.lineOfEntry e)) f).rebuilt :=
    ⟨atEntry { serving .rdOwn .probing with repairRound := true } (boundTo0 damaged), [⟨4, .tag, .uncorrectable⟩], 0, 4,
      ⟨tagOf line, .damaged, 0, true⟩, lawOk_sound (by decide +kernel), ⟨by decide +kernel, by decide +kernel⟩,
      onLineOk_sound (by decide +kernel), by decide +kernel⟩

theorem witness_RepairedRequestIsGranted_clean :
    ∃ (s : State) (f : List CellFault) (e : EntryIdx) (w : Way) (old : Record) (r : Request),
      s.lawful ∧ s.undisturbed (setOf r.line) f ∧ (s.checked (setOf r.line) f).onLine r.line w old
        ∧ s.due = some (.repairResolution e) ∧ s.requestOf e = some r ∧ (s.entry e).kind = some .request
        ∧ (s.entry e).keep = none ∧ s.member r.port = true ∧ w ∉ (s.takeClaim.beginAccess (setOf r.line) f).rebuilt
        ∧ (s.entry e).fenceGoneSet = 0 ∧ ((s.checked (setOf r.line) f).dirSet (setOf r.line)).reservedWay e = none :=
    ⟨atEntry { serving .rdOwn .probing with repairRound := true } (boundTo0 damaged), [], 0, 4, damaged, ask .rdOwn,
      lawOk_sound (by decide +kernel), ⟨by decide +kernel, by decide +kernel⟩, onLineOk_sound (by decide +kernel),
      by decide +kernel⟩

theorem witness_RepairedRequestIsGranted_poisoned :
    ∃ (s : State) (f : List CellFault) (e : EntryIdx) (w : Way) (old : Record) (r : Request),
      s.lawful ∧ s.undisturbed (setOf r.line) f ∧ (s.checked (setOf r.line) f).onLine r.line w old
        ∧ s.due = some (.repairResolution e) ∧ s.requestOf e = some r ∧ (s.entry e).kind = some .request
        ∧ (s.entry e).keep = none ∧ s.member r.port = true ∧ w ∉ (s.takeClaim.beginAccess (setOf r.line) f).rebuilt
        ∧ (s.entry e).fenceGoneSet ≠ 0 :=
    ⟨
      atEntry { serving .rdOwn .probing with repairRound := true, answers := (Entry.freeOf 0).answers.set 2 (some .fenceGone) } (boundTo0 damaged),
      [], 0, 4, damaged, ask .rdOwn, lawOk_sound (by decide +kernel), ⟨by decide +kernel, by decide +kernel⟩,
      onLineOk_sound (by decide +kernel), by decide +kernel⟩

theorem witness_PurgeStepFiltersRecords :
    ∃ (s : State) (f : List CellFault),
      s.lawful ∧ s.calm ∧ s.undisturbed s.purge.pos f ∧ s.due = some .purge
        ∧ s.purge.starts.get 1 = some (s.purge.pos + 1)
        ∧ (s.checked s.purge.pos f).recordAt s.purge.pos 4 = some shared1 :=
    ⟨purging (holding shared1), [], lawOk_sound (by decide +kernel), calmOk_sound (by decide +kernel),
      ⟨by decide +kernel, by decide +kernel⟩, by decide +kernel⟩

theorem witness_PurgeStepFiltersRecords_bound :
    ∃ (s : State) (f : List CellFault),
      s.lawful ∧ s.calm ∧ s.undisturbed s.purge.pos f ∧ s.due = some .purge
        ∧ ((s.checked s.purge.pos f).slot s.purge.pos 4).bound ≠ none :=
    ⟨purging (boundTo0 owned2), [], lawOk_sound (by decide +kernel), calmOk_sound (by decide +kernel),
      ⟨by decide +kernel, by decide +kernel⟩, by decide +kernel⟩

theorem witness_LeaveStepRetractsOrAdvances_retracts :
    ∃ (s : State) (f : List CellFault) (p : Agent),
      s.lawful ∧ s.calm ∧ s.undisturbed s.leave.pos f ∧ s.due = some (.leave p) ∧ s.member p = true
        ∧ ((s.checked s.leave.pos f).dirSet s.leave.pos).leaveWay p = some 4
        ∧ ((s.checked s.leave.pos f).dirSet s.leave.pos).record 4 = some shared1 ∧ s.freeEntry = some 0
        ∧ s.recallUnit.inFlight < s.cfg.recallBudget :=
    ⟨leaving (holding shared1), [], 1, lawOk_sound (by decide +kernel), calmOk_sound (by decide +kernel),
      ⟨by decide +kernel, by decide +kernel⟩, by decide +kernel⟩

theorem witness_LeaveStepRetractsOrAdvances_damaged :
    ∃ (s : State) (f : List CellFault) (p : Agent),
      s.lawful ∧ s.calm ∧ s.undisturbed s.leave.pos f ∧ s.due = some (.leave p) ∧ s.member p = true
        ∧ ((s.checked s.leave.pos f).dirSet s.leave.pos).leaveWay p = some 4
        ∧ ((s.checked s.leave.pos f).dirSet s.leave.pos).record 4 = some damaged ∧ s.freeEntry = some 0
        ∧ s.recallUnit.inFlight < s.cfg.recallBudget :=
    ⟨leaving (holding damaged), [], 1, lawOk_sound (by decide +kernel), calmOk_sound (by decide +kernel),
      ⟨by decide +kernel, by decide +kernel⟩, by decide +kernel⟩

theorem witness_LeaveStepRetractsOrAdvances_room :
    ∃ (s : State) (f : List CellFault) (p : Agent),
      s.lawful ∧ s.calm ∧ s.undisturbed s.leave.pos f ∧ s.due = some (.leave p) ∧ s.member p = true
        ∧ ((s.checked s.leave.pos f).dirSet s.leave.pos).leaveWay p = some 4
        ∧ s.cfg.recallBudget ≤ s.recallUnit.inFlight :=
    ⟨{ leaving (holding shared1) with recallUnit := { RecallUnit.idle with inFlight := 4 } }, [], 1,
      lawOk_sound (by decide +kernel), calmOk_sound (by decide +kernel), ⟨by decide +kernel, by decide +kernel⟩,
      by decide +kernel⟩

theorem witness_LeaveStepRetractsOrAdvances_noted :
    ∃ (s : State) (f : List CellFault) (p : Agent),
      s.lawful ∧ s.calm ∧ s.undisturbed s.leave.pos f ∧ s.due = some (.leave p) ∧ s.member p = true
        ∧ ((s.checked s.leave.pos f).dirSet s.leave.pos).leaveWay p = none
        ∧ (s.checked s.leave.pos f).leaveBlocker ((s.checked s.leave.pos f).dirSet s.leave.pos) p = some 0 :=
    ⟨(leaving (boundTo0 shared1)).setEntry 0 (serving .rdOwn .awaitDone), [], 1, lawOk_sound (by decide +kernel),
      calmOk_sound (by decide +kernel), ⟨by decide +kernel, by decide +kernel⟩, by decide +kernel⟩

theorem witness_LeaveStepRetractsOrAdvances_advances :
    ∃ (s : State) (f : List CellFault) (p : Agent),
      s.lawful ∧ s.calm ∧ s.undisturbed s.leave.pos f ∧ s.due = some (.leave p) ∧ s.member p = true
        ∧ ((s.checked s.leave.pos f).dirSet s.leave.pos).leaveWay p = none
        ∧ (s.checked s.leave.pos f).leaveBlocker ((s.checked s.leave.pos f).dirSet s.leave.pos) p = none
        ∧ s.leave.pos.toNat ≠ 2047 :=
    ⟨leaving (holding owned2), [], 1, lawOk_sound (by decide +kernel), calmOk_sound (by decide +kernel),
      ⟨by decide +kernel, by decide +kernel⟩, by decide +kernel⟩

theorem witness_LeaveStepRetractsOrAdvances_leaves :
    ∃ (s : State) (f : List CellFault) (p : Agent),
      s.lawful ∧ s.calm ∧ s.undisturbed s.leave.pos f ∧ s.due = some (.leave p) ∧ s.member p = true
        ∧ ((s.checked s.leave.pos f).dirSet s.leave.pos).leaveWay p = none
        ∧ (s.checked s.leave.pos f).leaveBlocker ((s.checked s.leave.pos f).dirSet s.leave.pos) p = none
        ∧ s.leave.pos.toNat = 2047 ∧ s.leave.retracts = 0 ∧ s.queuedOf p = 0 :=
    ⟨{ leaving DirSet.empty with leave := { LeaveWalker.idle with port := some 1, pos := 2047 } }, [], 1,
      lawOk_sound (by decide +kernel), calmOk_sound (by decide +kernel), ⟨by decide +kernel, by decide +kernel⟩,
      by decide +kernel⟩

theorem witness_RetractTakesHolderBack :
    ∃ (s : State) (f : List CellFault) (e : EntryIdx) (p : Agent) (w : Way) (r : Record),
      s.lawful ∧ s.undisturbed (setOf (s.lineOfEntry e)) f
        ∧ (s.checked (setOf (s.lineOfEntry e)) f).lineBound (s.lineOfEntry e) (some e)
        ∧ (s.checked (setOf (s.lineOfEntry e)) f).onLine (s.lineOfEntry e) w r ∧ s.due = some (.retractResolution e)
        ∧ r.state ≠ .damaged ∧ (s.entry e).target = some p ∧ (s.entry e).waiters = []
        ∧ (s.entry e).fenceGoneOf p = false :=
    ⟨atEntry { settled .retract with target := some 1 } (boundTo0 shared1), [], 0, 1, 4, shared1,
      lawOk_sound (by decide +kernel), ⟨by decide +kernel, by decide +kernel⟩, (show ∀ w : Way, _ by decide +kernel), onLineOk_sound (by decide +kernel),
      by decide +kernel⟩

theorem witness_ScrubRunsThroughSets_expiry :
    ∃ (s : State),
      s.part = .run ∧ s.integ.scrubTimer.isSome = true :=
    ⟨{ run with integ := { IntegrityUnit.powerOn with scrubEn := true, scrubTimer := some 50 } }, by decide +kernel⟩

theorem witness_ScrubRunsThroughSets_access :
    ∃ (s : State) (f : List CellFault),
      s.lawful ∧ s.undisturbed s.integ.scrubPos f ∧ s.due = some .scrub ∧ s.integ.scrubPos.toNat ≠ 2047 :=
    ⟨
      { withSet (holding shared1) with claims := [.scrub], integ := { IntegrityUnit.powerOn with scrubEn := true, scrubPos := 713, scrubClaim := some 0 } },
      [], lawOk_sound (by decide +kernel), ⟨by decide +kernel, by decide +kernel⟩, by decide +kernel⟩

theorem witness_ScrubRunsThroughSets_last :
    ∃ (s : State) (f : List CellFault),
      s.lawful ∧ s.undisturbed s.integ.scrubPos f ∧ s.due = some .scrub ∧ s.integ.scrubPos.toNat = 2047 :=
    ⟨
      { withSet (holding shared1) with claims := [.scrub], integ := { IntegrityUnit.powerOn with scrubEn := true, scrubPos := 2047, scrubClaim := some 0 } },
      [], lawOk_sound (by decide +kernel), ⟨by decide +kernel, by decide +kernel⟩, by decide +kernel⟩

theorem witness_DamagedRecordStartsRepairRound :
    ∃ (s : State) (f : List CellFault) (e : EntryIdx) (d : Due) (c : Instr) (w : Way) (r : Record),
      s.lawful ∧ s.undisturbed (setOf (s.lineOfEntry e)) f
        ∧ (s.checked (setOf (s.lineOfEntry e)) f).onLine (s.lineOfEntry e) w r
        ∧ (d = .resolution e ∧ c = .resolutionAccess f ∨ d = .serviceResolution e
          ∧ c = .serviceResolution f ∨ d = .retractResolution e
          ∧ c = .retractResolution f ∨ d = .recallResolution e ∧ c = .recallResolution f ∨ d = .retireResolution e
          ∧ c = .retireResolution f)
        ∧ s.due = some d ∧ (d = .resolution e → (s.requestOf e).isSome = true)
        ∧ (d = .retractResolution e → (s.entry e).target.isSome = true) ∧ r.state = .damaged :=
    ⟨atEntry (serving .rdShared .probing) (boundTo0 damaged), [], 0, .resolution 0, .resolutionAccess [], 4, damaged,
      lawOk_sound (by decide +kernel), ⟨by decide +kernel, by decide +kernel⟩, onLineOk_sound (by decide +kernel),
      by decide +kernel⟩

theorem witness_DamagedRecordStartsRepairRound_retract :
    ∃ (s : State) (f : List CellFault) (e : EntryIdx) (d : Due) (c : Instr) (w : Way) (r : Record),
      s.lawful ∧ s.undisturbed (setOf (s.lineOfEntry e)) f
        ∧ (s.checked (setOf (s.lineOfEntry e)) f).onLine (s.lineOfEntry e) w r
        ∧ (d = .resolution e ∧ c = .resolutionAccess f ∨ d = .serviceResolution e
          ∧ c = .serviceResolution f ∨ d = .retractResolution e
          ∧ c = .retractResolution f ∨ d = .recallResolution e ∧ c = .recallResolution f ∨ d = .retireResolution e
          ∧ c = .retireResolution f)
        ∧ s.due = some d ∧ (d = .resolution e → (s.requestOf e).isSome = true)
        ∧ (d = .retractResolution e → (s.entry e).target.isSome = true) ∧ r.state = .damaged :=
    ⟨atEntry { settled .retract with target := some 1 } (boundTo0 damaged), [], 0, .retractResolution 0,
      .retractResolution [], 4, damaged, lawOk_sound (by decide +kernel), ⟨by decide +kernel, by decide +kernel⟩,
      onLineOk_sound (by decide +kernel), by decide +kernel⟩

theorem witness_AccessTouchesOneSet :
    ∃ (s : State) (f : List CellFault) (d : Due) (c : Instr),
      s.lawful ∧ d.command f = some c ∧ s.due = some d :=
    ⟨atEntry (serving .rdShared .probing) (boundTo0 shared1), [], .resolution 0, .resolutionAccess [],
      lawOk_sound (by decide +kernel), by decide +kernel⟩

theorem witness_CommandsAreTakenAtWrite :
    ∃ (s : State) (c : Instr) (v : Word),
      commandCode c = some v ∧ s.pwrok = true ∧ s.svc.status ≠ .busy :=
    ⟨run, .scrubStart, 8, by decide +kernel⟩

theorem witness_CommandsAreTakenAtWrite_busy :
    ∃ (s : State) (c : Instr) (v : Word),
      commandCode c = some v ∧ s.pwrok = true ∧ s.svc.status = .busy :=
    ⟨atService 1 0 0 DirSet.empty, .inspect, 1, by decide +kernel⟩

theorem witness_CommandsAreTakenAtWrite_arguments :
    ∃ (s : State) (c : Instr) (v : Word),
      commandCode c = some v ∧ s.pwrok = true ∧ s.svc.status ≠ .busy
        ∧ (s.svc.argA.toNat < 2048 ∧ s.svc.argB.toNat < 16) :=
    ⟨withArgs run 2047 15, .inspect, 1, by decide +kernel⟩

theorem witness_CommandsAreTakenAtWrite_badArgument :
    ∃ (s : State) (c : Instr) (v : Word),
      commandCode c = some v ∧ s.pwrok = true ∧ s.svc.status ≠ .busy
        ∧ ¬ (s.svc.argA.toNat < 2048 ∧ s.svc.argB.toNat < 16) :=
    ⟨withArgs run 2048 15, .inspect, 1, by decide +kernel⟩

theorem witness_FenceAndUnfenceActAtOnce_fence :
    ∃ (s : State),
      s.pwrok = true ∧ s.part = .run ∧ s.svc.status ≠ .busy ∧ s.svc.argA.toNat = (7 : Agent).val ∧ s.member 7 = true :=
    ⟨withArgs run 7 0, by decide +kernel⟩

theorem witness_FenceAndUnfenceActAtOnce_unfence :
    ∃ (s : State),
      s.pwrok = true ∧ s.part = .run ∧ s.svc.status ≠ .busy ∧ s.svc.argA.toNat = (7 : Agent).val
        ∧ (s.port 7).state = .fencedClean :=
    ⟨withArgs (withPort run 7 .fencedClean) 7 0, by decide +kernel⟩

theorem witness_FenceAndUnfenceActAtOnce_badArgument :
    ∃ (s : State),
      s.pwrok = true ∧ s.part = .run ∧ s.svc.status ≠ .busy ∧ 8 ≤ s.svc.argA.toNat :=
    ⟨withArgs run 8 0, by decide +kernel⟩

theorem witness_ReadersReportSlots_inspect :
    ∃ (s : State) (f : List CellFault),
      s.lawful ∧ s.calm ∧ s.undisturbed s.svc.setArg f ∧ s.due = some (.service 1)
        ∧ (s.checked s.svc.setArg f).recordAt s.svc.setArg s.svc.wayArg = some shared1 :=
    ⟨atService 1 713 4 (holding shared1), [], lawOk_sound (by decide +kernel), calmOk_sound (by decide +kernel), ⟨by decide +kernel, by decide +kernel⟩,
      by decide +kernel⟩

theorem witness_ReadersReportSlots_lookup :
    ∃ (s : State) (f : List CellFault),
      s.lawful ∧ s.calm ∧ s.undisturbed (setOf s.svc.lineArg) f
        ∧ (s.checked (setOf s.svc.lineArg) f).onLine s.svc.lineArg 4 shared1 ∧ s.due = some (.service 2) :=
    ⟨atService 2 5000000 0 (holding shared1), [], lawOk_sound (by decide +kernel), calmOk_sound (by decide +kernel),
      ⟨by decide +kernel, by decide +kernel⟩, onLineOk_sound (by decide +kernel), by decide +kernel⟩

theorem witness_RecallLineStarts_round :
    ∃ (s : State) (f : List CellFault),
      s.lawful ∧ s.calm ∧ s.undisturbed (setOf s.svc.lineArg) f
        ∧ (s.checked (setOf s.svc.lineArg) f).onLine s.svc.lineArg 4 owned2 ∧ s.due = some (.service 3)
        ∧ s.part = .run ∧ s.boundEntry s.svc.lineArg = none ∧ s.freeEntry = some 0 :=
    ⟨atService 3 5000000 0 (holding owned2), [], lawOk_sound (by decide +kernel), calmOk_sound (by decide +kernel),
      ⟨by decide +kernel, by decide +kernel⟩, onLineOk_sound (by decide +kernel), by decide +kernel⟩

theorem witness_RecallLineStarts_damaged :
    ∃ (s : State) (f : List CellFault),
      s.lawful ∧ s.calm ∧ s.undisturbed (setOf s.svc.lineArg) f
        ∧ (s.checked (setOf s.svc.lineArg) f).onLine s.svc.lineArg 4 damaged ∧ s.due = some (.service 3)
        ∧ s.part = .run ∧ s.boundEntry s.svc.lineArg = none ∧ s.freeEntry = some 0 :=
    ⟨atService 3 5000000 0 (holding damaged), [], lawOk_sound (by decide +kernel), calmOk_sound (by decide +kernel),
      ⟨by decide +kernel, by decide +kernel⟩, onLineOk_sound (by decide +kernel), by decide +kernel⟩

theorem witness_RecallLineStarts_absent :
    ∃ (s : State) (f : List CellFault),
      s.lawful ∧ s.calm ∧ s.undisturbed (setOf s.svc.lineArg) f ∧ s.due = some (.service 3) ∧ s.part = .run
        ∧ s.boundEntry s.svc.lineArg = none ∧ (s.checked (setOf s.svc.lineArg) f).findLine s.svc.lineArg = none :=
    ⟨atService 3 5000000 0 DirSet.empty, [], lawOk_sound (by decide +kernel), calmOk_sound (by decide +kernel),
      ⟨by decide +kernel, by decide +kernel⟩, by decide +kernel⟩

theorem witness_RecallLineStarts_waits :
    ∃ (s : State) (f : List CellFault),
      s.lawful ∧ s.calm ∧ s.undisturbed (setOf s.svc.lineArg) f ∧ s.due = some (.service 3) ∧ s.part = .run
        ∧ s.boundEntry s.svc.lineArg = some 0 ∧ s.freePool = some 0 :=
    ⟨(atService 3 5000000 0 (boundTo0 shared1)).setEntry 0 (serving .rdOwn .awaitDone), [],
      lawOk_sound (by decide +kernel), calmOk_sound (by decide +kernel), ⟨by decide +kernel, by decide +kernel⟩,
      by decide +kernel⟩

theorem witness_ServiceResolutionCompletesRecall :
    ∃ (s : State) (f : List CellFault) (e : EntryIdx) (w : Way) (r : Record),
      s.lawful ∧ s.undisturbed (setOf (s.lineOfEntry e)) f
        ∧ (s.checked (setOf (s.lineOfEntry e)) f).lineBound (s.lineOfEntry e) (some e)
        ∧ (s.checked (setOf (s.lineOfEntry e)) f).onLine (s.lineOfEntry e) w r ∧ s.due = some (.serviceResolution e)
        ∧ (r.state = .shared ∨ r.state = .owned) ∧ (s.entry e).waiters = [] :=
    ⟨
      { atEntry { settled .service with requester := .service, request := some .recallLine } (boundTo0 owned2) with svc := { ServicePort.powerOn with status := .busy, lastCode := 3, waiting := .entry 0 } },
      [], 0, 4, owned2, lawOk_sound (by decide +kernel), ⟨by decide +kernel, by decide +kernel⟩, (show ∀ w : Way, _ by decide +kernel),
      onLineOk_sound (by decide +kernel), by decide +kernel⟩

theorem witness_ClearCommandsDecide_poison :
    ∃ (s : State) (f : List CellFault),
      s.lawful ∧ s.calm ∧ s.undisturbed (setOf s.svc.lineArg) f
        ∧ (s.checked (setOf s.svc.lineArg) f).onLine s.svc.lineArg 4 poisoned
        ∧ (s.checked (setOf s.svc.lineArg) f).lineBound s.svc.lineArg none ∧ s.due = some (.service 4) ∧ s.part = .run
        ∧ s.boundEntry s.svc.lineArg = none :=
    ⟨atService 4 5000000 0 (holding poisoned), [], lawOk_sound (by decide +kernel), calmOk_sound (by decide +kernel),
      ⟨by decide +kernel, by decide +kernel⟩, onLineOk_sound (by decide +kernel),
      (show ∀ w : Way, _ by decide +kernel), by decide +kernel⟩

theorem witness_ClearCommandsDecide_set :
    ∃ (s : State) (f : List CellFault),
      s.lawful ∧ s.calm ∧ s.undisturbed s.svc.setArg f ∧ s.due = some (.service 7)
        ∧ (s.takeClaim.beginAccess s.svc.setArg f).marked = false :=
    ⟨atService 7 713 0 { DirSet.empty with lost := true }, [], lawOk_sound (by decide +kernel),
      calmOk_sound (by decide +kernel),
      ⟨by decide +kernel, by decide +kernel⟩, by decide +kernel⟩

theorem witness_ClearCommandsDecide_relost :
    ∃ (s : State) (f : List CellFault),
      s.lawful ∧ s.undisturbed s.svc.setArg f ∧ s.due = some (.service 7)
        ∧ (s.takeClaim.beginAccess s.svc.setArg f).marked = true :=
    ⟨atService 7 713 0 (holding shared1), [⟨4, .tag, .uncorrectable⟩], lawOk_sound (by decide +kernel),
      ⟨by decide +kernel, by decide +kernel⟩, by decide +kernel⟩

theorem witness_SettingWritesAreChecked_credits :
    ∃ (s : State) (v : Word),
      s.pwrok = true
        ∧ (s.member 7 = false
          ∧ (allAgents.map fun q => if q = 7 then v.toNat % 16 else (s.port q).reqCredits).sum = 48) :=
    ⟨{ run with ports := Vector.replicate 8 { Port.powerOn with reqCredits := 6 } }, 6, by decide +kernel⟩

theorem witness_SettingWritesAreChecked_creditSum :
    ∃ (s : State) (v : Word),
      s.pwrok = true ∧ 48 < (allAgents.map fun q => if q = 7 then v.toNat % 16 else (s.port q).reqCredits).sum :=
    ⟨{ run with ports := Vector.replicate 8 { Port.powerOn with reqCredits := 6 } }, 7, by decide +kernel⟩

theorem witness_SettingWritesAreChecked_order :
    ∃ (s : State) (v : Word),
      s.pwrok = true ∧ (1 ≤ v.toNat % 65536 ∧ v.toNat % 65536 ≤ 31 ∧ s.cfg.admitHigh ≤ v.toNat % 65536) :=
    ⟨run, 28, by decide +kernel⟩

theorem witness_PortEnablesMovePorts :
    ∃ (s : State) (v : Word),
      s.calm ∧ s.pwrok = true ∧ has v 7 = true ∧ (s.port 7).state = .off ∧ (s.port 7).link
        ∧ (s.port 7).rejoinHold = false ∧ s.resetN ∧ has v 0 = false :=
    ⟨run.updPort 7 fun _ => { Port.powerOn with link := true }, 128, calmOk_sound (by decide +kernel),
      by decide +kernel⟩

theorem witness_ErrorRegisterWrites :
    ∃ (s : State) (v : Word),
      s.pwrok = true ∧ has v 2 = false ∧ routingOf v = .halt ∧ s.part = .run :=
    ⟨run, 3, by decide +kernel⟩

theorem witness_StepKeepsSettingsAndOutputs :
    ∃ (s : State) (t : State),
      step s = .next t ∧ s.cfg.legal = true ∧ s.creditTotal ≤ 48
        ∧ (∀ p, 1 ≤ (s.port p).reqCredits ∧ (s.port p).reqCredits ≤ 8) :=
    ⟨State.reset, State.reset.clearOutputs, rfl, by decide +kernel⟩

/-! ### The hypotheses of the further clauses are met -/

/-- PROTO_FENCE set. -/
def fencing (s : State) : State := { s with cfg := { s.cfg with protoFence := true } }

/-- OWNED by agent 3, the requester of `ask`. -/
def owned3 : Record := ⟨tagOf line, .owned, only 3, false⟩

/-- Entry 0 handed on to agent 3's request, its access due. -/
def handed (k : ReqKind) (d : DirSet) : State := atEntry (serving k .lookup) d

/-- Entry 0 handed on to a RECALL_LINE, its access due. -/
def handedRecall (d : DirSet) : State :=
  atEntry { settled .service with requester := .service, request := some .recallLine, phase := .lookup } d

/-- The scrub's access due on set 713. -/
def scrubbing (d : DirSet) : State :=
  { withSet d with
    claims := [.scrub]
    integ := { IntegrityUnit.powerOn with scrubEn := true, scrubPos := 713, scrubClaim := some 0 } }

/-- Agent 2's answer is fence GONE. -/
def lostTo2 (x : Entry) : Entry := { x with answers := (Entry.freeOf 0).answers.set 2 (some .fenceGone) }

/-- A grant request of agent 3 waits on entry 0, which serves agent 5. -/
def waiting3 : State :=
  waits (.request (ask .rdOwn)) (run.setEntry 0 { serving .rdOwn .awaitDone with requester := .agent 5 })

theorem witness_LeaveJoinsOrIsTaken_walk :
    ∃ (s : State) (p : Agent) (tag : ReqTag) (_line : Line),
      s.calm ∧ s.pwrok = true ∧ s.part = .run ∧ s.member p = true ∧ (s.port p).credits ≠ 0
        ∧ has (s.port p).tags tag = false ∧ s.intake = [] ∧ s.pause = false ∧ (s.port p).state = .active
        ∧ s.leave.port ≠ some p ∧ s.selectedWaiters (grantOf p) = [ask .rdOwn] ∧ s.leave.order = []
        ∧ s.leave.port = none ∧ s.hasTransaction p = false :=
    ⟨waiting3, 3, 2, line, calmOk_sound (by decide +kernel), by decide +kernel⟩

theorem witness_LeaveJoinsOrIsTaken_drain :
    ∃ (s : State) (p : Agent) (tag : ReqTag) (_line : Line),
      s.calm ∧ s.pwrok = true ∧ s.part = .run ∧ s.member p = true ∧ (s.port p).credits ≠ 0
        ∧ has (s.port p).tags tag = false ∧ s.intake = [] ∧ s.pause = false ∧ (s.port p).state = .active
        ∧ s.leave.port ≠ some p ∧ s.hasTransaction p = true :=
    ⟨run.setEntry 0 (serving .rdOwn .awaitDone), 3, 2, line, calmOk_sound (by decide +kernel), by decide +kernel⟩

theorem witness_LeaveJoinsOrIsTaken_again :
    ∃ (s : State) (p : Agent) (tag : ReqTag) (_line : Line),
      s.calm ∧ s.pwrok = true ∧ s.part = .run ∧ s.member p = true ∧ (s.port p).credits ≠ 0
        ∧ has (s.port p).tags tag = false ∧ s.intake = [] ∧ s.pause = false
        ∧ (s.port p).state = .leaving .drain :=
    ⟨withPort run 3 (.leaving .drain), 3, 2, line, calmOk_sound (by decide +kernel), by decide +kernel⟩

theorem witness_LeaveJoinsOrIsTaken_served :
    ∃ (s : State) (p : Agent), (s.port p).state = .active ∧ s.intake.filter (grantOf p) = [ask .rdOwn] :=
    ⟨{ run with intake := [ask .rdOwn, ask .drop] }, 3, by decide +kernel⟩

theorem witness_RequestChecksInOrder_protoFence :
    ∃ (s : State) (r : Request),
      r.spelled ∧ s.pwrok = true ∧ s.member r.port = true ∧ s.cfg.protoFence = true ∧ (s.port r.port).credits ≠ 0
        ∧ has (s.port r.port).tags r.tag = true :=
    ⟨fencing (run.updPort 3 fun q => { q with tags := 2 }), ask .rdOwn, (show (_ → _) by decide +kernel),
      by decide +kernel⟩

theorem witness_BadKindIsReported_protoFence :
    ∃ (s : State) (p : Agent) (_ch : Bool) (_code : BitVec 3),
      s.pwrok = true ∧ s.member p = true ∧ s.cfg.protoFence = true :=
    ⟨fencing run, 3, false, 6, by decide +kernel⟩

theorem witness_DoneEndsWaitOrIsReported_protoFence :
    ∃ (s : State) (p : Agent) (n : Txn),
      s.pwrok = true ∧ s.member p = true ∧ s.part = .run ∧ s.cfg.protoFence = true
        ∧ ¬ ((s.entry (txnIndex n)).phase = .awaitDone ∧ (s.entry (txnIndex n)).closePending = false
          ∧ (s.entry (txnIndex n)).gen = txnGen n ∧ (s.entry (txnIndex n)).kind = some .request
          ∧ (s.entry (txnIndex n)).requester = .agent p) :=
    ⟨fencing run, 3, 255, by decide +kernel⟩

theorem witness_AnswersMatchOrStray_halted :
    ∃ (s : State) (p : Agent) (n : Txn) (l : Line) (c : Instr),
      (c = .ansClean p n l ∨ c = .ansWritten p n l ∨ c = .ansGone p n l)
        ∧ s.pwrok = true ∧ s.member p = true ∧ s.part = .halted :=
    ⟨{ probing with part := .halted }, 2, 32, line, .ansGone 2 32 line, by decide +kernel⟩

theorem witness_ArbiterGrantsInClassOrder :
    let s : State := { run with claims := [.service, .recallUnit, .intake] }
    s.part = .run ∧ s.scrubOverdue = false ∧ s.granted = some .recallUnit
      ∧ ({ s with cfg := { run.cfg with scrubStarve := 1 }, claims := [.service, .scrub]
                  integ := { IntegrityUnit.powerOn with scrubClaim := some 2 } } : State).granted = some .scrub
      ∧ ({ atService 2 0 0 DirSet.empty with part := .halted } : State).granted = some .service := by decide +kernel

/-- The recall unit granted: a pending access goes before the items; with none, a parked item over the budget is passed
over for a start item behind it, and with no start item there is no access. -/
theorem witness_ArbiterGrantsInClassOrder_recalls :
    let items (a : List EntryIdx) (q : List StartItem) (n : Nat) : State :=
      { (withSet DirSet.empty).setEntry 0 (settled .recallVictim) with
        recallUnit := { RecallUnit.idle with accesses := a, queue := q, inFlight := n }, claims := [.recallUnit] }
    (items [0] [.retire 713 4] 1).granted = some .recallUnit
      ∧ (items [0] [.retire 713 4] 1).due = some (.recallResolution 0)
      ∧ (items [] [.parked 2, .retire 713 4] 4).granted = some .recallUnit
      ∧ (items [] [.parked 2, .retire 713 4] 4).due = some (.retireStart 713 4)
      ∧ (items [] [.parked 2, .retire 713 4] 3).due = some (.recallStart 2)
      ∧ (items [] [.parked 2] 4).granted = some .recallUnit ∧ (items [] [.parked 2] 4).due = none := by decide +kernel

/-- An entry is FREE to be taken and one is in use to be released or handed on. -/
theorem witness_ArbiterGrantsInClassOrder_pause :
    ((atEntry (settled .retire) DirSet.empty).entry 0).phase ≠ .free
      ∧ ((atEntry (settled .retire) DirSet.empty).entry 1).phase = .free := by decide +kernel

theorem witness_LookupGrantsRecord_rerequest :
    ∃ (s : State) (f : List CellFault) (r : Request) (e : EntryIdx) (w : Way) (old : Record),
      s.lawful ∧ s.undisturbed (setOf r.line) f ∧ (s.checked (setOf r.line) f).onLine r.line w old
        ∧ s.due = some (.intake r) ∧ s.member r.port = true ∧ r.kind.needsGrant = true ∧ s.boundEntry r.line = none
        ∧ s.freeEntry = some e ∧ old.state ≠ .damaged ∧ probesNeeded r.kind r.port old = none
        ∧ (grantOn r.kind r.port r.fullWrite old (Entry.freeOf 0)).rerequest = true :=
    ⟨atIntake (ask .rdShared) (holding owned3), [], ask .rdShared, 0, 4, owned3, lawOk_sound (by decide +kernel),
      ⟨by decide +kernel, by decide +kernel⟩, onLineOk_sound (by decide +kernel), by decide +kernel⟩

theorem witness_ResolutionGrants_rerequest :
    ∃ (s : State) (f : List CellFault) (e : EntryIdx) (r : Request) (w : Way) (old : Record),
      s.lawful ∧ s.undisturbed (setOf r.line) f ∧ (s.checked (setOf r.line) f).onLine r.line w old
        ∧ s.due = some (.resolution e) ∧ s.requestOf e = some r ∧ s.member r.port = true ∧ old.state ≠ .damaged
        ∧ (grantOn r.kind r.port r.fullWrite old (s.entry e)).rerequest = true :=
    ⟨atEntry (serving .upgrade .probing) (boundTo0 owned3), [], 0, ask .upgrade, 4, owned3,
      lawOk_sound (by decide +kernel), ⟨by decide +kernel, by decide +kernel⟩, onLineOk_sound (by decide +kernel),
      by decide +kernel⟩

theorem witness_ResolutionGrants_fenced :
    ∃ (s : State) (f : List CellFault) (e : EntryIdx) (r : Request) (w : Way) (old : Record),
      s.lawful ∧ s.undisturbed (setOf r.line) f ∧ (s.checked (setOf r.line) f).onLine r.line w old
        ∧ s.due = some (.resolution e) ∧ s.requestOf e = some r ∧ s.fenced r.port = true ∧ old.state ≠ .damaged
        ∧ (s.entry e).waiters = []
        ∧ (grantOn r.kind r.port r.fullWrite old (s.entry e)).record.owner = some 3 ∧ has s.fencedSet 3 = true :=
    ⟨withPort (atEntry (lostTo2 (serving .rdOwn .probing)) (boundTo0 owned2)) 3 .fenced, [], 0, ask .rdOwn, 4, owned2,
      lawOk_sound (by decide +kernel), ⟨by decide +kernel, by decide +kernel⟩, onLineOk_sound (by decide +kernel),
      by decide +kernel⟩

theorem witness_ParkedTakesSlot_again :
    ∃ (s : State) (f : List CellFault) (e : EntryIdx) (r : Request),
      s.lawful ∧ s.undisturbed (setOf r.line) f ∧ s.due = some (.parked e) ∧ s.requestOf e = some r
        ∧ s.fenced r.port = false ∧ (s.checked (setOf r.line) f).findLine r.line = none
        ∧ ((s.checked (setOf r.line) f).dirSet (setOf r.line)).allocWay e none = none :=
    ⟨atEntry { serving .rdShared .awaitSlot with way := none, slotClaim := true } (full false), [], 0, ask .rdShared,
      lawOk_sound (by decide +kernel), ⟨by decide +kernel, by decide +kernel⟩, by decide +kernel⟩

theorem witness_ParkedTakesSlot_fenced :
    ∃ (s : State) (f : List CellFault) (e : EntryIdx),
      s.lawful ∧ s.undisturbed (setOf (s.lineOfEntry e)) f ∧ s.due = some (.parked e) ∧ s.requesterFenced e = true
        ∧ (s.checked (setOf (s.lineOfEntry e)) f).findLine (s.lineOfEntry e) = none ∧ (s.entry e).waiters = [] :=
    ⟨withPort (atEntry { serving .rdShared .awaitSlot with way := none, slotClaim := true }
        { DirSet.empty with slots := DirSet.empty.slots.set 9 { Slot.empty with reservation := some 0 } }) 3 .fenced,
      [], 0, lawOk_sound (by decide +kernel), ⟨by decide +kernel, by decide +kernel⟩, by decide +kernel⟩

theorem witness_CloseHandsOn_snapshot :
    ∃ (s : State) (f : List CellFault) (e : EntryIdx),
      s.undisturbed (setOf (s.lineOfEntry e)) f
        ∧ (s.checked (setOf (s.lineOfEntry e)) f).lineBound (s.lineOfEntry e) (some e) ∧ s.due = some (.close e)
        ∧ ¬ ((s.entry e).kind = some .request ∧ (s.entry e).grantSent.isSome = true
          ∧ (s.checked (setOf (s.lineOfEntry e)) f).recordState e = some .damaged)
        ∧ (s.port 5).state = .fenced ∧ has (s.port 5).snapshot e = true ∧ without (s.port 5).snapshot e = 0 :=
    ⟨(atEntry { serving .rdShared .awaitDone with closePending := true, grantSent := some .shared }
        (boundTo0 shared1)).updPort 5 fun _ => { Port.powerOn with state := .fenced, snapshot := 1 },
      [], 0, ⟨by decide +kernel, by decide +kernel⟩, (show ∀ w : Way, _ by decide +kernel), by decide +kernel⟩

theorem witness_HandedOnRequestIsDecided_probes :
    ∃ (s : State) (f : List CellFault) (e : EntryIdx) (r : Request) (w : Way) (old : Record),
      s.lawful ∧ s.undisturbed (setOf r.line) f ∧ (s.checked (setOf r.line) f).onLine r.line w old
        ∧ (s.checked (setOf r.line) f).lineBound r.line (some e) ∧ s.due = some (.handedOn e) ∧ s.requestOf e = some r
        ∧ (s.entry e).kind = some .request ∧ s.fenced r.port = false ∧ old.state ≠ .damaged
        ∧ probesNeeded r.kind r.port old = some (.invalidate, 2) :=
    ⟨handed .rdOwn (boundTo0 shared1), [], 0, ask .rdOwn, 4, shared1, lawOk_sound (by decide +kernel),
      ⟨by decide +kernel, by decide +kernel⟩, onLineOk_sound (by decide +kernel),
      (show ∀ w : Way, _ by decide +kernel), by decide +kernel⟩

theorem witness_HandedOnRequestIsDecided_damaged :
    ∃ (s : State) (f : List CellFault) (e : EntryIdx) (r : Request) (w : Way) (old : Record),
      s.lawful ∧ s.undisturbed (setOf r.line) f ∧ (s.checked (setOf r.line) f).onLine r.line w old
        ∧ (s.checked (setOf r.line) f).lineBound r.line (some e) ∧ s.due = some (.handedOn e) ∧ s.requestOf e = some r
        ∧ (s.entry e).kind = some .request ∧ s.fenced r.port = false ∧ old.state = .damaged :=
    ⟨handed .rdShared (boundTo0 damaged), [], 0, ask .rdShared, 4, damaged, lawOk_sound (by decide +kernel),
      ⟨by decide +kernel, by decide +kernel⟩, onLineOk_sound (by decide +kernel),
      (show ∀ w : Way, _ by decide +kernel), by decide +kernel⟩

theorem witness_HandedOnRequestIsDecided_takes :
    ∃ (s : State) (f : List CellFault) (e : EntryIdx) (r : Request),
      s.lawful ∧ s.undisturbed (setOf r.line) f ∧ s.due = some (.handedOn e) ∧ s.requestOf e = some r
        ∧ (s.entry e).kind = some .request ∧ (s.checked (setOf r.line) f).findLine r.line = none
        ∧ s.fenced r.port = false ∧ s.member r.port = true
        ∧ ((s.checked (setOf r.line) f).dirSet (setOf r.line)).allocWay e none = some 0 :=
    ⟨handed .rdShared { DirSet.empty with lost := true }, [], 0, ask .rdShared, lawOk_sound (by decide +kernel),
      ⟨by decide +kernel, by decide +kernel⟩, by decide +kernel⟩

theorem witness_HandedOnRequestIsDecided_parks :
    ∃ (s : State) (f : List CellFault) (e : EntryIdx) (r : Request),
      s.lawful ∧ s.undisturbed (setOf r.line) f ∧ s.due = some (.handedOn e) ∧ s.requestOf e = some r
        ∧ (s.entry e).kind = some .request ∧ (s.checked (setOf r.line) f).findLine r.line = none
        ∧ s.fenced r.port = false
        ∧ ((s.checked (setOf r.line) f).dirSet (setOf r.line)).allocWay e none = none :=
    ⟨handed .rdShared (full false), [], 0, ask .rdShared, lawOk_sound (by decide +kernel),
      ⟨by decide +kernel, by decide +kernel⟩, by decide +kernel⟩

theorem witness_HandedOnRequestIsDecided_recall :
    ∃ (s : State) (f : List CellFault) (e : EntryIdx) (w : Way) (old : Record),
      s.lawful ∧ s.undisturbed (setOf (s.lineOfEntry e)) f
        ∧ (s.checked (setOf (s.lineOfEntry e)) f).onLine (s.lineOfEntry e) w old
        ∧ (s.checked (setOf (s.lineOfEntry e)) f).lineBound (s.lineOfEntry e) (some e) ∧ s.due = some (.handedOn e)
        ∧ (s.entry e).kind = some .service ∧ old.state ≠ .poisoned :=
    ⟨handedRecall (boundTo0 owned2), [], 0, 4, owned2, lawOk_sound (by decide +kernel),
      ⟨by decide +kernel, by decide +kernel⟩, onLineOk_sound (by decide +kernel),
      (show ∀ w : Way, _ by decide +kernel), by decide +kernel⟩

theorem witness_HandedOnRequestIsDecided_recallPoisoned :
    ∃ (s : State) (f : List CellFault) (e : EntryIdx) (w : Way) (old : Record),
      s.lawful ∧ s.undisturbed (setOf (s.lineOfEntry e)) f
        ∧ (s.checked (setOf (s.lineOfEntry e)) f).onLine (s.lineOfEntry e) w old
        ∧ (s.checked (setOf (s.lineOfEntry e)) f).lineBound (s.lineOfEntry e) (some e) ∧ s.due = some (.handedOn e)
        ∧ (s.entry e).kind = some .service ∧ old.state = .poisoned ∧ (s.entry e).waiters = [] :=
    ⟨handedRecall (boundTo0 poisoned), [], 0, 4, poisoned, lawOk_sound (by decide +kernel),
      ⟨by decide +kernel, by decide +kernel⟩, onLineOk_sound (by decide +kernel),
      (show ∀ w : Way, _ by decide +kernel), by decide +kernel⟩

theorem witness_HandedOnRequestIsDecided_recallAbsent :
    ∃ (s : State) (f : List CellFault) (e : EntryIdx),
      s.lawful ∧ s.undisturbed (setOf (s.lineOfEntry e)) f ∧ s.due = some (.handedOn e)
        ∧ (s.entry e).kind = some .service
        ∧ (s.checked (setOf (s.lineOfEntry e)) f).findLine (s.lineOfEntry e) = none ∧ (s.entry e).waiters = [] :=
    ⟨handedRecall DirSet.empty, [], 0, lawOk_sound (by decide +kernel), ⟨by decide +kernel, by decide +kernel⟩,
      by decide +kernel⟩

theorem witness_RetireStartEmptiesSlot_damaged :
    ∃ (s : State) (f : List CellFault) (k : SetIdx) (w : Way),
      s.lawful ∧ s.undisturbed k f ∧ s.due = some (.retireStart k w)
        ∧ (((s.checked k f).dirSet k).slot w).mark = .inService ∧ ((s.checked k f).dirSet k).mapHasRoom = true
        ∧ (((s.checked k f).dirSet k).slot w).content = some damaged
        ∧ (((s.checked k f).dirSet k).slot w).bound = none ∧ s.freeEntry = some 0 :=
    ⟨atStart (.retire 713 4) (Entry.freeOf 0) (holding damaged), [], 713, 4, lawOk_sound (by decide +kernel),
      ⟨by decide +kernel, by decide +kernel⟩, by decide +kernel⟩

theorem witness_RetireStartEmptiesSlot_bound :
    ∃ (s : State) (f : List CellFault) (k : SetIdx) (w : Way),
      s.lawful ∧ s.undisturbed k f ∧ s.due = some (.retireStart k w)
        ∧ (((s.checked k f).dirSet k).slot w).mark = .inService ∧ ((s.checked k f).dirSet k).mapHasRoom = true
        ∧ (((s.checked k f).dirSet k).slot w).content = some shared1
        ∧ (((s.checked k f).dirSet k).slot w).bound ≠ none ∧ s.integ.retireList.length < 16 :=
    ⟨atStart (.retire 713 4) (serving .rdOwn .awaitDone) (boundTo0 shared1), [], 713, 4,
      lawOk_sound (by decide +kernel), ⟨by decide +kernel, by decide +kernel⟩, by decide +kernel⟩

theorem witness_RetireStartEmptiesSlot_waitsForRoom :
    ∃ (s : State) (f : List CellFault) (k : SetIdx) (w : Way),
      s.lawful ∧ s.undisturbed k f ∧ s.due = some (.retireStart k w)
        ∧ (((s.checked k f).dirSet k).slot w).mark = .inService ∧ ((s.checked k f).dirSet k).mapHasRoom = true
        ∧ (((s.checked k f).dirSet k).slot w).content = some (poisonedRecord 5)
        ∧ (((s.checked k f).dirSet k).slot w).bound = none ∧ ((s.checked k f).dirSet k).moveWay = none
        ∧ s.integ.retireList.length < 16 :=
    ⟨atStart (.retire 713 5) (Entry.freeOf 0) (full true), [], 713, 5, lawOk_sound (by decide +kernel),
      ⟨by decide +kernel, by decide +kernel⟩, by decide +kernel⟩

theorem witness_RetireResolutionWithdrawsSlot_moves :
    ∃ (s : State) (f : List CellFault) (e : EntryIdx) (w : Way) (r : Record) (o : Agent),
      s.lawful ∧ s.undisturbed (setOf (s.lineOfEntry e)) f
        ∧ (s.checked (setOf (s.lineOfEntry e)) f).onLine (s.lineOfEntry e) w r
        ∧ (s.checked (setOf (s.lineOfEntry e)) f).lineBound (s.lineOfEntry e) (some e)
        ∧ s.due = some (.retireResolution e) ∧ r.lostOwner (s.entry e) = some o ∧ (s.entry e).waiters = []
        ∧ (∀ v, ((s.checked (setOf (s.lineOfEntry e)) f).slot (setOf (s.lineOfEntry e)) v).reservation ≠ some e)
        ∧ ((s.checked (setOf (s.lineOfEntry e)) f).dirSet (setOf (s.lineOfEntry e))).moveTarget = some 0 :=
    ⟨atAccess (lostTo2 (settled .retire)) (boundTo0 owned2), [], 0, 4, owned2, 2, lawOk_sound (by decide +kernel),
      ⟨by decide +kernel, by decide +kernel⟩, onLineOk_sound (by decide +kernel),
      (show ∀ w : Way, _ by decide +kernel), by decide +kernel⟩

theorem witness_RetireResolutionWithdrawsSlot_waits :
    ∃ (s : State) (f : List CellFault) (e : EntryIdx) (w : Way) (r : Record) (o : Agent),
      s.lawful ∧ s.undisturbed (setOf (s.lineOfEntry e)) f
        ∧ (s.checked (setOf (s.lineOfEntry e)) f).onLine (s.lineOfEntry e) w r
        ∧ (s.checked (setOf (s.lineOfEntry e)) f).lineBound (s.lineOfEntry e) (some e)
        ∧ s.due = some (.retireResolution e) ∧ r.lostOwner (s.entry e) = some o ∧ (s.entry e).waiters = []
        ∧ (∀ v, ((s.checked (setOf (s.lineOfEntry e)) f).slot (setOf (s.lineOfEntry e)) v).reservation ≠ some e)
        ∧ ((s.checked (setOf (s.lineOfEntry e)) f).dirSet (setOf (s.lineOfEntry e))).moveTarget = none
        ∧ ((s.checked (setOf (s.lineOfEntry e)) f).dirSet (setOf (s.lineOfEntry e))).mapHasRoom = false
        ∧ s.integ.retireList.length < 16 :=
    ⟨atAccess (lostTo2 (settled .retire)) (fullMap (boundTo0 owned2)), [], 0, 4, owned2, 2,
      lawOk_sound (by decide +kernel), ⟨by decide +kernel, by decide +kernel⟩, onLineOk_sound (by decide +kernel),
      (show ∀ w : Way, _ by decide +kernel), by decide +kernel⟩

theorem witness_RepairResolutionSettlesRecord_retires :
    ∃ (s : State) (f : List CellFault) (e : EntryIdx) (w : Way) (r : Record),
      s.lawful ∧ s.undisturbed (setOf (s.lineOfEntry e)) f
        ∧ (s.checked (setOf (s.lineOfEntry e)) f).onLine (s.lineOfEntry e) w r ∧ s.due = some (.repairResolution e)
        ∧ w ∉ (s.takeClaim.beginAccess (setOf (s.lineOfEntry e)) f).rebuilt ∧ (s.entry e).waiters = []
        ∧ (s.entry e).keep = none ∧ (s.entry e).kind = some .retire
        ∧ (s.checked (setOf (s.lineOfEntry e)) f).lineBound (s.lineOfEntry e) (some e)
        ∧ (∀ v, ((s.checked (setOf (s.lineOfEntry e)) f).slot (setOf (s.lineOfEntry e)) v).reservation ≠ some e)
        ∧ (s.entry e).fenceGoneSet = 0 :=
    ⟨atAccess { settled .retire with repairRound := true } (boundTo0 damaged), [], 0, 4, damaged,
      lawOk_sound (by decide +kernel), ⟨by decide +kernel, by decide +kernel⟩, onLineOk_sound (by decide +kernel),
      by decide +kernel, by decide +kernel, by decide +kernel, by decide +kernel, by decide +kernel,
      (show ∀ w : Way, _ by decide +kernel), by decide +kernel⟩

theorem witness_RepairResolutionSettlesRecord_retirePoisoned :
    ∃ (s : State) (f : List CellFault) (e : EntryIdx) (w : Way) (r : Record),
      s.lawful ∧ s.undisturbed (setOf (s.lineOfEntry e)) f
        ∧ (s.checked (setOf (s.lineOfEntry e)) f).onLine (s.lineOfEntry e) w r ∧ s.due = some (.repairResolution e)
        ∧ w ∉ (s.takeClaim.beginAccess (setOf (s.lineOfEntry e)) f).rebuilt ∧ (s.entry e).waiters = []
        ∧ (s.entry e).keep = none ∧ (s.entry e).kind = some .retire
        ∧ (s.checked (setOf (s.lineOfEntry e)) f).lineBound (s.lineOfEntry e) (some e)
        ∧ (∀ v, ((s.checked (setOf (s.lineOfEntry e)) f).slot (setOf (s.lineOfEntry e)) v).reservation ≠ some e)
        ∧ (s.entry e).fenceGoneSet ≠ 0 :=
    ⟨atAccess (lostTo2 { settled .retire with repairRound := true }) (boundTo0 damaged), [], 0, 4, damaged,
      lawOk_sound (by decide +kernel), ⟨by decide +kernel, by decide +kernel⟩, onLineOk_sound (by decide +kernel),
      by decide +kernel, by decide +kernel, by decide +kernel, by decide +kernel, by decide +kernel,
      (show ∀ w : Way, _ by decide +kernel), by decide +kernel⟩

/-- An access that judges a slot for retirement and leaves another DAMAGED and unbound. -/
theorem witness_ScrubRunsThroughSets_end :
    ∃ (s : State) (f : List CellFault),
      s.lawful ∧ s.due = some .scrub ∧ s.integ.scrubPos.toNat ≠ 2047
        ∧ (s.takeClaim.beginAccess s.integ.scrubPos f).judge = [4]
        ∧ ((after (.scrubAccess f) s).slot s.integ.scrubPos 4).bound = none
        ∧ .repair s.integ.scrubPos (tagOf line) ∈ (after (.scrubAccess f) s).recallUnit.queue :=
    ⟨{ scrubbing (holding shared1) with cfg := { run.cfg with retireTh := 1 } }, [⟨4, .holder, .uncorrectable⟩],
      lawOk_sound (by decide +kernel), by decide +kernel⟩

/-- The sets on which the cases of `State.retireTable` meet: a slot out of service, a free slot with room and without, a
record in a set without room, a bound one, one to be taken back, one to be moved and one that waits. -/
theorem witness_ScrubRunsThroughSets_table :
    (withSet (fullMap (holding poisoned))).dir.wf = true
      ∧ ((fullMap (holding poisoned)).slot 8).mark ≠ .inService ∧ ((fullMap (holding poisoned)).slot 0).content = none
      ∧ (fullMap (holding poisoned)).mapHasRoom = false ∧ (fullMap (holding poisoned)).record 4 = some poisoned
      ∧ (fullMap (holding poisoned)).moveTarget = none
      ∧ (withSet (holding poisoned)).dir.wf = true ∧ (holding poisoned).moveTarget = some 0
      ∧ (withSet (boundTo0 shared1)).dir.wf = true ∧ ((boundTo0 shared1).slot 4).bound ≠ none
      ∧ (withSet (holding shared1)).dir.wf = true ∧ (holding shared1).mapHasRoom = true := by decide +kernel

theorem witness_ScrubRunsThroughSets_starts :
    ∃ items : List StartItem, (∀ x ∈ items, x.isStart = true) ∧ items ≠ [] :=
    ⟨[.retire 713 4, .repair 713 2441, .retire 713 4], by decide +kernel⟩

/-- Each verdict on words in error is met, and words that the command names. -/
theorem witness_AccessTouchesOneSet_checks :
    let f : List CellFault :=
      [⟨4, .tag, .single⟩, ⟨4, .holder, .uncorrectable⟩, ⟨5, .tag, .uncorrectable⟩, ⟨6, .holder, .single⟩]
    let s := (withSet (boundTo0 shared1)).setEntry 0 (serving .rdOwn .awaitDone)
    s.dir.wf = true ∧ faultsOk f = true ∧ (s.strike 713 f).dir.wf = true ∧ (s.strike 713 f).badWays 713 = [4, 5, 6]
      ∧ (s.strike 713 f).verdict 713 4 = .damaged 2441 false .holder (some 32)
      ∧ (s.strike 713 f).verdict 713 5 = .withdrawn ∧ (s.strike 713 f).verdict 713 6 = .corrected
      ∧ (s.strike 713 [⟨4, .tag, .uncorrectable⟩]).verdict 713 4 = .damaged 2441 true .tag (some 32) := by
  decide +kernel

theorem witness_ReadersReportSlots_lost :
    ∃ (s : State) (f : List CellFault),
      s.lawful ∧ s.calm ∧ s.undisturbed (setOf s.svc.lineArg) f ∧ s.due = some (.service 2)
        ∧ (s.checked (setOf s.svc.lineArg) f).findLine s.svc.lineArg = none ∧ s.boundEntry s.svc.lineArg = none
        ∧ ((s.checked (setOf s.svc.lineArg) f).dirSet (setOf s.svc.lineArg)).lost = true :=
    ⟨atService 2 5000000 0 { DirSet.empty with lost := true }, [], lawOk_sound (by decide +kernel),
      calmOk_sound (by decide +kernel), ⟨by decide +kernel, by decide +kernel⟩, by decide +kernel⟩

theorem witness_SettingWritesAreChecked_halted :
    ∃ (s : State) (v : Word),
      s.pwrok = true ∧ s.part = .halted ∧ s.leave.wait = .room
        ∧ (1 ≤ v.toNat % 65536 ∧ v.toNat % 65536 ≤ 8 ∧ v.toNat % 65536 < s.cfg.admitHigh) :=
    ⟨{ run with part := .halted, leave := { LeaveWalker.idle with wait := .room } }, 8, by decide +kernel⟩

theorem witness_SettingWritesAreChecked_room :
    ∃ (s : State) (v : Word),
      s.calm ∧ s.pwrok = true ∧ s.part = .run ∧ s.leave.wait = .room
        ∧ (1 ≤ v.toNat % 65536 ∧ v.toNat % 65536 ≤ 8) :=
    ⟨{ leaving (holding shared1) with leave := { LeaveWalker.idle with port := some 1, wait := .room } }, 8,
      calmOk_sound (by decide +kernel), by decide +kernel⟩

theorem witness_SettingWritesAreChecked_counters :
    ∃ (s : State) (v : Word),
      s.pwrok = true ∧ v.toNat % 256 = 0 ∧ v.toNat % 65536 ≠ 0 :=
    ⟨run, 256, by decide +kernel⟩

theorem witness_ReportsAreTakenInOrder_halts :
    ∃ (s : State) (before after : List Report) (r : Report),
      s.part = .run ∧ s.reports = before ++ r :: after
        ∧ (∀ q ∈ before, ¬ (s.err.mask q.kind = false ∧ s.err.routing q.kind = .halt))
        ∧ (s.err.mask r.kind = false ∧ s.err.routing r.kind = .halt) :=
    ⟨{ after (.maskRoutingWrite .agentFenced 3) run with
        reports := [{ kind := .corrected }, { kind := .agentFenced }, { kind := .protocol }] },
      [{ kind := .corrected }], [{ kind := .protocol }], { kind := .agentFenced }, by decide +kernel⟩

theorem witness_ReportsAreTakenInOrder_goesOn :
    ∃ s : State, s.reports ≠ []
      ∧ ∀ q ∈ s.reports, ¬ (s.err.mask q.kind = false ∧ s.err.routing q.kind = .halt) :=
    ⟨{ run with reports := [{ kind := .corrected }, { kind := .protocol }] }, by decide +kernel⟩

/-! ### What the invariants ask holds somewhere -/

/-- Every entry of `run` is FREE. -/
theorem run_free : ∀ e, run.entry e = Entry.freeOf 0 := by decide +kernel

theorem run_slot (k : SetIdx) (w : Way) : run.slot k w = Slot.empty := by
  show DirSet.empty.slot w = Slot.empty
  revert w
  decide +kernel

theorem witness_StepKeepsLinks : ∃ s t : State, s.linked ∧ step s = .next t := by
  refine ⟨run, (tickOf run), ⟨by decide +kernel, fun e _ => ?_, fun h => absurd h (by decide +kernel), fun _ =>
    ⟨fun k => ?_, fun e h => ?_, fun e i h => ?_, fun k w e h => ?_, fun e l w h => ?_⟩⟩, rfl⟩
  · rw [run_free e]; exact ⟨rfl, rfl, rfl, rfl⟩
  · show DirSet.empty.ordered
    have hn : ∀ w, DirSet.empty.record w = none := by decide +kernel
    refine ⟨List.nodup_nil, fun w => ?_, fun v w q r hq => ?_⟩
    · rw [hn w]; exact ⟨(fun h => nomatch h), (fun h => nomatch h)⟩
    · rw [hn v] at hq; exact nomatch hq
  · rw [run_free e] at h; exact nomatch h
  · rw [run_free e] at h; exact nomatch h
  · rw [run_slot k w] at h; exact nomatch h
  · rw [run_free e] at h; exact nomatch h

theorem witness_StepKeepsRecordLaw : ∃ s t : State, s.lawful ∧ step s = .next t :=
  ⟨{ run with pending := [.linkLoss 3] }, after (.linkLoss 3) run, lawOk_sound (by decide +kernel), rfl⟩

theorem witness_StepKeepsCredits : ∃ s t : State, s.creditsLawful ∧ step s = .next t :=
  ⟨run, tickOf run, (show _ ∧ _ by decide +kernel), rfl⟩

theorem witness_StepKeepsSettingsAndOutputs_outputs : ∃ s t : State, s.outputsLawful ∧ step s = .next t :=
  ⟨run, tickOf run, (show _ ∧ _ by decide +kernel), rfl⟩

theorem witness_StepKeepsCalm : ∃ s t : State, s.calm ∧ step s = .next t :=
  ⟨run, tickOf run, calmOk_sound (by decide +kernel), rfl⟩

theorem witness_FormatsRoundTrip : ∃ i : Instr, i.wellFormed = true ∧ (encodeWrite i).isSome = true :=
  ⟨.registerWrite 0xe04 713, by decide +kernel⟩

/-- The bits of a head frame and of a WRITE, one short of the carrying bit. -/
theorem witness_FramesActAtCarryingBit :
    ∃ (s : State) (bits : List Bool) (b : Bool) (op : BitVec 8) (a : Addr),
      s.pending = [] ∧ s.pwrok = true ∧ s.spi.pins = [.bit b] ∧ s.spi.frame = some (.taking bits)
        ∧ bits ++ [b] = firstBits (headFrame op a) 24 ∧ op = 0x3a :=
    ⟨withPins [.bit true] (framed 0x3A0001#24 23 run), (firstBits 0x3A0001#24 23), true, 0x3a, 1, by decide +kernel⟩

theorem witness_FramesActAtCarryingBit_write :
    ∃ (s : State) (bits : List Bool) (b : Bool) (a : Addr) (v : Word),
      s.pending = [] ∧ s.pwrok = true ∧ s.spi.pins = [.bit b] ∧ s.spi.frame = some (.taking bits)
        ∧ bits ++ [b] = firstBits (writeFrame a v) 56 :=
    ⟨withPins [.bit true] (framed 0x5C007000000001#56 55 run), (firstBits 0x5C007000000001#56 55), true, 0x70, 1,
      by decide +kernel⟩

/-- The other events: CS_N falls, and rises on bits taken; a bit with no frame, a bit past the carrying bit, a bit that
carries nothing, the last of an invalid head, a WRITE's head; PWROK low. -/
theorem witness_FramesActAtCarryingBit_events :
    (withPins [.csFall] run).spi.pins = [.csFall] ∧ (withPins [.csRise] (framed 0x5C#8 8 run)).spi.frame ≠ none
      ∧ (withPins [.bit true] run).spi.frame = none ∧ (framed 0x00FFFF#32 32 run).spi.frame = some (.carried 32 sdoInvalid)
      ∧ (framed 0x5C#8 7 run).spi.frame = some (.taking (firstBits 0x5C#8 7))
      ∧ firstBits 0x00FFFF#24 23 ++ [true] = firstBits (headFrame 0 0xffff) 24
      ∧ firstBits 0x5CFFFF#24 23 ++ [true] = firstBits (headFrame 0x5c 0xffff) 24
      ∧ (after .pwrokFall run).pwrok = false := by decide +kernel

theorem witness_VictimIsLeastRecentCandidate :
    (full false).victim = some 15 ∧ (full true).victim = none := by decide +kernel

/-! ### Well-formedness: an ill-formed term for each check -/

theorem test_wellFormed_rejects_word_named_twice :
    (Instr.scrubAccess [⟨3, .tag, .single⟩, ⟨3, .tag, .uncorrectable⟩]).wellFormed = false := by decide +kernel

theorem test_wellFormed_rejects_good_word : (Instr.closeAccess [⟨3, .holder, .good⟩]).wellFormed = false := by
  decide +kernel

theorem test_wellFormed_accepts_both_words_of_a_slot :
    (Instr.intakeLookup [⟨3, .tag, .single⟩, ⟨3, .holder, .uncorrectable⟩]).wellFormed = true := by decide +kernel

theorem test_wellFormed_rejects_kinds_that_exist :
    (Instr.badKind 0 false 5).wellFormed = false ∧ (Instr.badKind 0 true 3).wellFormed = false
      ∧ (Instr.badKind 0 false 6).wellFormed = true ∧ (Instr.badKind 0 true 4).wellFormed = true := by decide +kernel

theorem test_wellFormed_rejects_writes_with_rows_of_their_own :
    (Instr.registerWrite 0x20 0).wellFormed = false ∧ (Instr.registerWrite 0x5c 0).wellFormed = false
      ∧ (Instr.registerWrite 0x60 0).wellFormed = false ∧ (Instr.registerWrite 0x80 0).wellFormed = false
      ∧ (Instr.registerWrite 0x178 0).wellFormed = false ∧ (Instr.registerWrite 0xc7c 0).wellFormed = false
      ∧ (Instr.registerWrite 0xe00 10).wellFormed = false ∧ (Instr.registerWrite 0xe00 11).wellFormed = true
      ∧ (Instr.registerWrite 0x6c 0).wellFormed = true := by decide +kernel

/-! ### Formats -/

theorem test_line_splits_into_set_and_tag :
    setOf 5000000 = 713 ∧ tagOf 5000000 = 2441 ∧ lineOf 713 2441 = 5000000 ∧ setOf 25285 = 713 ∧ tagOf 25285 = 12 := by
  decide +kernel

theorem test_message_words :
    decodeMessage 6 0x19800000004C4B40 = .rdOwn 6 9 5000000 true ∧ decodeMessage 2 0x8065000000000000 = .done 2 101
      ∧ decodeMessage 4 0x90650000004C4B40 = .ansClean 4 101 5000000
        ∧ decodeMessage 4 0x6000000000000000 = .badKind 4 false 6
      ∧ (OutMsg.grant 9 5000000 101 .own true false).word = 0x0965C000004C4B40
      ∧ (OutMsg.nack 1 5000000 .halted).word = 0x2100A000004C4B40 ∧ OutMsg.credit.word = 0x5000000000000000 := by
  decide +kernel

theorem test_frames :
    carryOf (firstBits 0x5C002000000000#56 56) = some (.row (.windowApply 0))
      ∧ carryOf (firstBits 0x5C0E0000000003#56 56) = some (.row .recallLine)
      ∧ carryOf (firstBits 0x5C0C4400000006#56 56) = some (.row (.maskRoutingWrite .holderUncorrectable 6))
      ∧ carryOf (firstBits 0x5C0C44#24 24) = none ∧ carryOf (firstBits 0x3A0044#24 24) = some (.read 0x44)
      ∧ carryOf (firstBits 0#24 24) = some (.row .invalidOpcodeFrame) := by decide +kernel

/-- A WRITE of PROBE_RETRIES that CS_N cuts in its status byte keeps its effect; one cut before its last data bit has none. -/
theorem test_write_acts_at_last_data_bit :
    (framed 0x5C007000000001#56 56 run).cfg.probeRetries = 1
      ∧ (tickOf (withPins [.csRise] (framed 0x5C00700000000100#64 59 run))).cfg.probeRetries = 1
      ∧ (framed 0x5C00700000000100#64 59 run).spi.frame = some (.carried 59 sdoOk)
      ∧ (tickOf (withPins [.csRise] (framed 0x5C007000000001#56 55 run))).cfg = run.cfg
      ∧ (tickOf (withPins [.csRise] (framed 0x5C007000000001#56 55 run))).spi.frame = none := by decide +kernel

/-- The part state RUN is read from 0004h: status 00h at bits 25 to 32, then the data, and zeros before. -/
theorem test_read_answers_on_sdo :
    (framed 0x3A0004#24 24 run).spi.frame = some (.carried 24 1) ∧ (framed 0x3A0004#24 23 run).sdo = some false
      ∧ (framed 0x3A00040000000000#64 63 run).sdo = some true ∧ (framed 0x3A00040000000000#64 64 run).sdo = some false
      ∧ { framed 0x3A0004#24 24 run with spi := run.spi } = run := by decide +kernel

theorem test_registers_read :
    run.readData 0x4 = 1 ∧ run.readData 0x44 = 4 ∧ run.readData 0x6c = 64 ∧ run.readStatus 0x1000 = .badAddr
      ∧ (atService 1 0 0 DirSet.empty).readStatus 0xe20 = .refused := by decide +kernel

theorem test_absent_request_reads_valid_0 :
    requestFields (some (.agent .rdShared 0 false)) = [1, 0, 0, 0] ∧ requestFields (some .recallLine) = [1, 3]
      ∧ requestFields none = [0, 0] ∧ run.readData 0x404 = 0 := by decide +kernel

/-- A result that shows way 0 of a set holding `r`, or free. -/
def shows (r : Option RecordView) : Result :=
  { Result.clear with slot := some ⟨0, r, none, none, none, 0, .inService, false⟩ }

theorem test_absent_holders_read_valid_0 :
    (shows none).holderFields = [0, 0, 0, 0, 0, 0, 0]
      ∧ (shows (some ⟨0, 0, .poisoned, true, some 0⟩)).holderFields = [1, 0, 0, 0, 0, 0, 0]
      ∧ (shows (some ⟨0, 0, .damaged, true, none⟩)).holderFields = [1, 0, 1, 0, 0, 0, 0] := by decide +kernel

theorem test_absent_slot_fields_read_valid_0 :
    (shows none).slotFields = [1, 0, 0, 0, 0, 0, 1, 0, 0, 1, 0, 0, 0, 1, 0]
      ∧ ({ Result.clear with lost := some true }).slotFields = [0, 0, 0, 0, 0, 0, 0, 0, 1, 0, 0, 0, 0, 0, 0] := by
  decide +kernel

theorem test_absent_phase_reads_valid_0 :
    optField (PortState.leaving .drain).phaseCode = [1, 0] ∧ optField PortState.active.phaseCode = [0, 0]
      ∧ (StartItem.repair 0 0).fields = [1, 2, 0, 0, 1, 0, 0, 0] ∧ (StartItem.retire 0 0).tagFields = [0, 0] := by
  decide +kernel

/-! ### The worked sequence of section 2.10, step by step -/

/-- Way 0 holds line 5,000,000, SHARED by agents 1 and 4, third in the order; entry 5 is the lowest FREE entry and its
generation is 2. -/
def before : State :=
  { withSet (records [(2, ⟨1, .shared, 1, false⟩), (7, ⟨2, .shared, 1, false⟩),
      (0, ⟨2441, .shared, only 1 ||| only 4, false⟩)]) with
    tt := ((run.tt.set 5 (Entry.freeOf 2)).set 0 { serving .rdOwn .awaitDone with line := some 0 }).set 1
      { serving .rdOwn .awaitDone with line := some 1 } |>.set 2 { serving .rdOwn .awaitDone with line := some 2 }
      |>.set 3 { serving .rdOwn .awaitDone with line := some 3 } |>.set 4 { serving .rdOwn .awaitDone with line := some 4 }
    ports := run.ports.set 6 { active with tags := 0x24 } }

def arrived : State := after (.rdOwn 6 9 5000000 false) before
def lookedUp : State := after (.intakeLookup []) arrived
def answered : State := after (.ansClean 1 101 5000000) (after (.ansClean 4 101 5000000) lookedUp)
def granted : State := after (.resolutionAccess []) answered
def closed : State := after (.closeAccess []) (after (.done 6 101) granted)

theorem test_worked_arrival :
    arrived.outbox = [] ∧ (arrived.port 6).tags = 0x224 ∧ arrived.intake = [⟨6, .rdOwn, 9, 5000000, false⟩] := by
  decide +kernel

theorem test_worked_lookup :
    (lookedUp.entry 5).gen = 3 ∧ (lookedUp.entry 5).phase = .probing ∧ (lookedUp.entry 5).pendingSet = 0x12
      ∧ (lookedUp.slot 713 0).bound = some 5 ∧ lookedUp.outbox =
        [⟨6, .credit⟩, ⟨1, .probe 101 5000000 .invalidate⟩, ⟨4, .probe 101 5000000 .invalidate⟩] := by decide +kernel

theorem test_worked_answers :
    (answered.entry 5).pendingSet = 0 ∧ (answered.entry 5).answers.get 4 = some .clean
      ∧ answered.claims = [.entry 5] ∧ answered.due = some (.resolution 5) := by decide +kernel

theorem test_worked_resolution :
    granted.recordAt 713 0 = some ⟨2441, .owned, only 6, false⟩ ∧ (granted.dirSet 713).recency = [0, 2, 7]
      ∧ granted.outbox = [⟨6, .grant 9 5000000 101 .own true false⟩] ∧ (granted.port 6).tags = 0x24
      ∧ (granted.entry 5).phase = .awaitDone := by decide +kernel

theorem test_worked_close :
    closed.entry 5 = Entry.freeOf 3 ∧ (closed.slot 713 0).bound = none
      ∧ closed.recordAt 713 0 = some ⟨2441, .owned, only 6, false⟩ := by decide +kernel

/-! ### Single steps -/

theorem test_reset_then_walk : (after .clearingWalkStep State.reset).walk = some 1 := by decide +kernel

theorem test_lost_owner_reports_poison :
    (after (.resolutionAccess []) (atEntry { serving .rdShared .probing with
        answers := (Entry.freeOf 0).answers.set 2 (some .fenceGone) } (boundTo0 owned2))).reports =
      [{ kind := .poisonCreated, line := some line, set := some 713, way := some 4, agent := some 2, txn := some 32 }] := by
  decide +kernel

theorem test_uncorrectable_tag_withdraws_the_slot :
    let t := after (.scrubAccess [⟨4, .tag, .uncorrectable⟩]) { withSet (holding shared1) with
      claims := [.scrub]
      integ := { IntegrityUnit.powerOn with scrubEn := true, scrubPos := 713, scrubClaim := some 0 } }
    t.recordAt 713 4 = none ∧ (t.slot 713 4).mark = .retired ∧ (t.dirSet 713).lost = true
      ∧ t.reports.map Report.kind = [.tagUncorrectable, .slotRetired] := by decide +kernel

theorem test_clear_set_clears_the_mark :
    let t := after (.clearSetAccess []) (atService 7 713 0 { DirSet.empty with lost := true })
    t.svc.result.outcome = .cleared ∧ t.svc.status = .done ∧ t.dir = [] := by decide +kernel

theorem test_fence_in_run :
    let t := after .fence (withArgs run 7 0)
    (t.port 7).state = .fenced ∧ (t.purge.starts.get 7) = some 0 ∧ t.svc.status = .done
      ∧ t.err.nonfatal.first.map Report.kind = some .agentFenced ∧ t.err.fault = true := by decide +kernel

theorem test_halt_on_a_routed_report :
    let t := after (.linkLoss 3) (after (.maskRoutingWrite .agentFenced 3) run)
    t.part = .halted ∧ t.err.haltKind = some .agentFenced ∧ t.err.fault = true := by decide +kernel

end Sys2Proof.Tests
end

section
/-! PROOF. The queue's front command (O1) and the state after power-on (O3). -/

namespace Sys2Proof.Machine

/-- Settles O1: the queue's front is the first case of `step`. -/
theorem stepRunsFrontCommand : Obligations.StepRunsFrontCommand := by
  intro s c rest h
  unfold step
  rw [h]

/-! ### The state after power-on -/

theorem State.dirSet_reset (k : SetIdx) : State.reset.dirSet k = DirSet.empty := rfl

theorem State.entry_reset (e : EntryIdx) : State.reset.entry e = Entry.freeOf 0 := get_replicate _ _

theorem State.waiter_reset (i : PoolIdx) : State.reset.waiter i = none := get_replicate _ _

theorem State.port_reset (p : Agent) : State.reset.port p = Port.powerOn := get_replicate _ _

theorem DirSet.slot_empty (w : Way) : DirSet.empty.slot w = Slot.empty := get_replicate _ _

/-- A FREE entry carries nothing (R45, R66). -/
theorem Entry.inUse_freeOf (g : Gen) : (Entry.freeOf g).inUse = false := rfl

theorem State.lawful_reset : State.reset.lawful := ⟨rfl, fun _ => DirSet.lawful_empty⟩

theorem State.linked_reset : State.reset.linked := by
  refine ⟨rfl, fun e _ => ?_, fun _ => ⟨fun e => ?_, fun k j _ _ => ⟨rfl, fun w => ⟨?_, ?_⟩⟩⟩,
    fun h => absurd rfl h⟩
  · rw [State.entry_reset]
    exact ⟨rfl, rfl, rfl, rfl⟩
  · rw [State.entry_reset]
    rfl
  · show (DirSet.empty.slot w).content = none
    rw [DirSet.slot_empty]
    rfl
  · show (DirSet.empty.slot w).bound = none
    rw [DirSet.slot_empty]
    rfl

theorem State.creditsLawful_reset : State.reset.creditsLawful := by
  refine ⟨fun p h => ?_, fun _ _ _ => rfl, fun a h => ?_, fun _ p h => ?_, fun _ => ⟨rfl, rfl, rfl⟩, fun _ _ => rfl⟩
  · rw [State.member, State.port_reset] at h
    exact absurd h (by decide)
  · have hn : State.reset.purge.starts.get a = none := get_replicate _ _
    rw [hn] at h
    exact absurd h (by decide)
  · exact absurd h (by simp [State.reset, LeaveWalker.idle])

theorem State.outputsLawful_reset : State.reset.outputsLawful := ⟨by decide, by decide⟩

theorem State.calm_reset : State.reset.calm := fun h => absurd h (by decide)

/-- Settles O3: each value read off `State.reset`, each invariant by its own lemma. -/
theorem resetIsPowerOnState : Obligations.ResetIsPowerOnState := by
  refine ⟨?_, State.lawful_reset, State.linked_reset, State.creditsLawful_reset, by decide, by decide,
    fun p => by rw [State.port_reset]; rfl, State.outputsLawful_reset, State.calm_reset⟩
  refine ⟨rfl, rfl, State.dirSet_reset, rfl, rfl, rfl, rfl, rfl, rfl, rfl, rfl, rfl, rfl, rfl, rfl, rfl, rfl, rfl,
    State.entry_reset, State.waiter_reset, rfl, rfl, fun p => ?_, rfl, rfl, fun e => get_replicate _ _, rfl,
    fun a => get_replicate _ _, rfl, rfl, rfl, rfl, rfl, rfl, rfl, rfl, rfl, rfl, rfl, rfl, rfl, rfl, rfl, rfl, rfl, rfl,
    fun k => get_replicate _ _, fun k => ?_, fun k => ?_, rfl, rfl, rfl, rfl, rfl, rfl, rfl, rfl, rfl, rfl, rfl, rfl, rfl,
    rfl, rfl, rfl⟩
  · rw [State.port_reset]
    exact ⟨rfl, rfl, rfl, rfl, rfl, rfl, rfl, rfl, rfl, rfl, rfl⟩
  · cases k <;> rfl
  · cases k <;> rfl

end Sys2Proof.Machine
end

section
/-! PROOF. What a step can do: every command that is no access of the array is ambient (it leaves the array, the settings
and what each entry holds), a reset, a step of the clearing walk or a write of a setting. -/

namespace Sys2Proof.Machine

/-! ### Ambient events -/

/-- Entry `y` holds what entry `x` holds: the same line for the same kind of transaction, and no waiter that `x` lacks
altogether. -/
structure SameHold (x y : Entry) : Prop where
  inUse : y.inUse = x.inUse
  line : y.line = x.line
  kind : y.kind = x.kind
  repairRound : y.repairRound = x.repairRound
  waiters : x.waiters = [] → y.waiters = []

theorem SameHold.refl {x : Entry} : SameHold x x := ⟨Eq.refl _, Eq.refl _, Eq.refl _, Eq.refl _, id⟩

theorem SameHold.trans {x y z : Entry} (h : SameHold x y) (g : SameHold y z) : SameHold x z :=
  ⟨g.inUse.trans h.inUse, g.line.trans h.line, g.kind.trans h.kind, g.repairRound.trans h.repairRound,
    fun hw => g.waiters (h.waiters hw)⟩

/-- `t` comes from `s` without a write to the array or the settings: no entry takes or loses a line, and the alert outputs
follow the capture if they did. -/
structure Ambient (s t : State) : Prop where
  part : t.part = s.part ∨ s.part = .run ∧ t.part = .halted
  walk : t.walk = s.walk
  dir : t.dir = s.dir
  cfg : t.cfg = s.cfg
  req : ∀ p, (t.port p).reqCredits = (s.port p).reqCredits
  entry : ∀ e, SameHold (s.entry e) (t.entry e)
  outputs : s.outputsLawful → t.outputsLawful

theorem Ambient.refl (s : State) : Ambient s s := ⟨.inl rfl, rfl, rfl, rfl, fun _ => rfl, fun _ => .refl, id⟩

theorem Ambient.trans {s t u : State} (h : Ambient s t) (g : Ambient t u) : Ambient s u := by
  refine ⟨?_, g.walk.trans h.walk, g.dir.trans h.dir, g.cfg.trans h.cfg, fun p => (g.req p).trans (h.req p),
    fun e => (h.entry e).trans (g.entry e), fun ho => g.outputs (h.outputs ho)⟩
  rcases g.part with hg | ⟨hg, hg'⟩
  · rw [hg]
    exact h.part
  · rcases h.part with hh | ⟨-, hh⟩
    · exact .inr ⟨hh ▸ hg, hg'⟩
    · rw [hh] at hg
      exact absurd hg (by decide)

theorem Ambient.foldl {α : Type} (g : State → α → State) (h : ∀ s a, Ambient s (g s a)) (l : List α) (s : State) :
    Ambient s (l.foldl g s) := by
  induction l generalizing s with
  | nil => exact .refl s
  | cons a l ih => exact (h s a).trans (ih _)

/-- The fields `Ambient` speaks of. -/
def State.ambience (s : State) := (s.part, s.walk, s.dir, s.cfg, s.ports, s.tt, s.err)

/-- A change of the other fields alone. -/
theorem Ambient.of_eq {s t : State} (h : t.ambience = s.ambience) : Ambient s t := by
  simp only [State.ambience, Prod.mk.injEq] at h
  obtain ⟨hpart, hwalk, hdir, hcfg, hports, htt, herr⟩ := h
  refine ⟨.inl hpart, hwalk, hdir, hcfg, fun p => ?_, fun e => ?_, fun ho => ?_⟩
  · unfold State.port; rw [hports]
  · unfold State.entry; rw [htt]; exact .refl
  · unfold State.outputsLawful; rw [herr, hpart]; exact ho

/-- A change of one port that keeps its REQ_CREDITS value. -/
theorem Ambient.updPort (s : State) (p : Agent) (f : Port → Port) (h : ∀ q, (f q).reqCredits = q.reqCredits := by intro; rfl) :
    Ambient s (s.updPort p f) := by
  refine ⟨.inl rfl, rfl, rfl, rfl, fun q => ?_, fun _ => .refl, id⟩
  rw [State.port_updPort]
  split
  · next hq => rw [h, hq]
  · rfl

/-- A change of one entry that keeps what it holds. -/
theorem Ambient.updEntry (s : State) (e : EntryIdx) (f : Entry → Entry) (h : SameHold (s.entry e) (f (s.entry e)) := by exact ⟨rfl, rfl, rfl, rfl, id⟩) :
    Ambient s (s.updEntry e f) := by
  refine ⟨.inl rfl, rfl, rfl, rfl, fun _ => rfl, fun i => ?_, id⟩
  rw [State.entry_updEntry]
  split
  · next hi => rw [hi]; exact h
  · exact .refl

theorem Ambient.mapEntries (s : State) (f : Entry → Entry) (h : ∀ x, SameHold x (f x)) :
    Ambient s { s with tt := mapVec f s.tt } := by
  refine ⟨.inl rfl, rfl, rfl, rfl, fun _ => rfl, fun i => ?_, id⟩
  show SameHold (s.tt.get i) ((mapVec f s.tt).get i)
  rw [get_mapVec]
  exact h _

theorem Ambient.send (s : State) (p : Agent) (m : OutMsg) : Ambient s (s.send p m) := by
  unfold State.send
  split
  · exact .of_eq rfl
  · exact .refl s

theorem Ambient.report (s : State) (r : Report) : Ambient s (s.report r) := .of_eq rfl

theorem Ambient.updSvc (s : State) (f : ServicePort → ServicePort) : Ambient s (s.updSvc f) := .of_eq rfl

theorem Ambient.returnCredit (s : State) (p : Agent) : Ambient s (s.returnCredit p) :=
  (Ambient.updPort s p _).trans (.send _ _ _)

theorem Ambient.setFrame (s : State) (x : Option Frame) : Ambient s (s.setFrame x) := .of_eq rfl

theorem Ambient.removeWaiters (s : State) (f : Request → Bool) : Ambient s (s.removeWaiters f) := by
  have h := Ambient.mapEntries s (fun x => { x with waiters := x.waiters.filter fun i => !s.poolSelects f i })
    fun x => ⟨rfl, rfl, rfl, rfl, fun hw => by show List.filter _ x.waiters = []; rw [hw]; rfl⟩
  exact h.trans (.of_eq rfl)

/-! ### The end of an event is ambient -/

theorem State.tt_foldl {α : Type} (g : State → α → State) (h : ∀ s a, (g s a).tt = s.tt) (l : List α) (s : State) :
    (l.foldl g s).tt = s.tt := by
  induction l generalizing s with
  | nil => rfl
  | cons a l ih => exact (ih _).trans (h s a)

/-- A LEAVE taken from the intake queue removes waiters of the table and changes nothing else of it. -/
theorem State.tt_takeLeave (s : State) (p : Agent) : (s.takeLeave p).tt = s.tt
    ∨ (s.takeLeave p).tt =
      ((((s.returnCredit p).startDrain p).refuseQueued p).removeWaiters (grantOf p)).tt
      ∧ ((((s.returnCredit p).startDrain p).refuseQueued p)).tt = s.tt := by
  unfold State.takeLeave
  dsimp only
  split
  · refine .inr ⟨State.tt_foldl _ (fun _ _ => State.tt_reply _ _ _ _) _ _, ?_⟩
    refine (State.tt_foldl _ (fun u r => ?_) _ _).trans (State.tt_returnCredit s p)
    rw [State.tt_returnCredit]
    exact State.tt_reply _ _ _ _
  · exact .inl (State.tt_returnCredit s p)

theorem State.waiters_takeLeave (s : State) (p : Agent) (e : EntryIdx) (h : (s.entry e).waiters = []) :
    ((s.takeLeave p).entry e).waiters = [] := by
  rcases s.tt_takeLeave p with ht | ⟨ht, hu⟩
  · unfold State.entry; rw [ht]; exact h
  · unfold State.entry; rw [ht]
    refine ((Ambient.removeWaiters _ _).entry e).waiters ?_
    unfold State.entry; rw [hu]; exact h

theorem State.waiters_takeLeaves (n : Nat) (s : State) (e : EntryIdx) (h : (s.entry e).waiters = []) :
    ((State.takeLeaves n s).entry e).waiters = [] := by
  induction n generalizing s with
  | zero => exact h
  | succ n ih =>
    unfold State.takeLeaves
    split
    · split
      · exact ih _ (State.waiters_takeLeave _ _ e h)
      · exact h
    · exact h

theorem State.tt_sendLeaveDone (s : State) : s.sendLeaveDone.tt = s.tt := by
  unfold State.sendLeaveDone
  split
  · split
    · exact State.tt_send _ _ _
    · rfl
  · rfl

theorem State.tt_enterWalk (s : State) : s.enterWalk.tt = s.tt := by
  unfold State.enterWalk
  split
  · split <;> rfl
  · rfl

/-- An entry without waiters has none at the end of the event. -/
theorem State.waiters_finish (s : State) (e : EntryIdx) (h : (s.entry e).waiters = []) :
    (s.finish.entry e).waiters = [] := by
  have hr : s.finish.tt = s.settle.tt := by
    have g := State.unreported_takeReports s.settle
    simp only [State.unreported, Prod.mk.injEq] at g
    exact g.1.2.2.2.2.2.1
  unfold State.entry
  rw [hr]
  unfold State.settle
  split
  · unfold State.settleRun
    have hp : Pumps (State.takeLeaves s.intake.length s).sendLeaveDone.enterWalk
        ((((State.takeLeaves s.intake.length s).sendLeaveDone).enterWalk).pump).listAccesses.refreshClaims :=
      (Pumps.pump _).trans ((Pumps.listAccesses _).trans (Pumps.refreshClaims _))
    have hs := Entry.of_still Entry.waiters (fun _ => rfl) (hp.entry e)
    unfold State.entry at hs
    rw [hs, State.tt_enterWalk, State.tt_sendLeaveDone]
    exact State.waiters_takeLeaves _ s e h
  · unfold State.refreshService
    split
    · split <;> exact h
    · exact h
  · exact h

theorem State.part_finish (s : State) : s.finish.part = s.part ∨ s.part = .run ∧ s.finish.part = .halted := by
  by_cases hr : s.part = .run
  · exact (Finishes.finish s).part.imp_right fun h => ⟨hr, h⟩
  · exact .inl ((Finishes.finish s).calm (if_neg hr)).1

/-- Entries with one core hold the same. -/
theorem SameHold.of_core {x y : Entry} (h : y.core = x.core) (hw : x.waiters = [] → y.waiters = []) : SameHold x y :=
  ⟨Entry.of_core Entry.inUse (fun _ => rfl) h, Entry.of_core Entry.line (fun _ => rfl) h,
    Entry.of_core Entry.kind (fun _ => rfl) h, Entry.of_core Entry.repairRound (fun _ => rfl) h, hw⟩

theorem Ambient.finish (s : State) : Ambient s s.finish :=
  have h := Finishes.finish s
  ⟨s.part_finish, h.walk, h.dir, h.cfg, fun p => (h.ports p).req,
    fun e => .of_core (h.entry e) (s.waiters_finish e), fun _ => h.outputs⟩

/-! ### Ports that come up, fences, protocol errors -/

theorem Ambient.activate (s : State) (p : Agent) : Ambient s (s.activate p) :=
  (Ambient.updPort s p Port.raised).trans (.of_eq rfl)

theorem Ambient.trainUp (s : State) (p : Agent) : Ambient s (s.trainUp p) := by
  unfold State.trainUp
  split
  · exact .activate s p
  · exact .refl s

theorem Ambient.bringUp (s : State) (p : Agent) : Ambient s (s.bringUp p) := by
  unfold State.bringUp
  dsimp only
  split
  · exact (Ambient.updPort s p _).trans (.trainUp _ p)
  · exact .refl s

theorem Ambient.abandonLeave (s : State) (p : Agent) : Ambient s (s.abandonLeave p) := by
  unfold State.abandonLeave
  split <;> exact .of_eq rfl

theorem Ambient.endAllProbes (s : State) (p : Agent) : Ambient s (s.endAllProbes p) := by
  refine Ambient.trans (.mapEntries s (Entry.fenceProbe p) fun x => ?_)
    (.updPort _ p fun q => { q with probeQueue := [], sends := [] })
  unfold Entry.fenceProbe
  split
  · exact ⟨rfl, rfl, rfl, rfl, id⟩
  · exact .refl

theorem Ambient.fenceBody (s : State) (p : Agent) (c : FenceCause) : Ambient s (s.fenceBody p c) :=
  have h1 : Ambient s ((s.fencePortState p c).abandonLeave p) := (Ambient.updPort s p _).trans (.abandonLeave _ p)
  have h2 (l : List Request) : Ambient s (((s.fencePortState p c).abandonLeave p).setIntake l) :=
    h1.trans (.of_eq rfl)
  ((h2 _).trans (.removeWaiters _ _)).trans (.endAllProbes _ p)

theorem Ambient.fence (s : State) (p : Agent) (c : FenceCause) (n : Option Txn) (l : Option Line) :
    Ambient s (s.fence p c n l) := by
  unfold State.fence
  split
  · dsimp only
    refine Ambient.trans (t := if s.part = .halted then s.fenceHalted p c else s.fenceRun p c) ?_ (.of_eq rfl)
    split
    · exact (Ambient.updPort s p _).trans (.updPort _ p _)
    · rw [State.fenceRun_body]
      split
      · exact (Ambient.fenceBody s p c).trans (.of_eq rfl)
      · exact .fenceBody s p c
  · exact .refl s

theorem Ambient.protocolError (s : State) (p : Agent) (c : ProtoCause) (m : MsgCode) (l : Option Line)
    (n : Option Txn) : Ambient s (s.protocolError p c m l n) := by
  unfold State.protocolError
  dsimp only
  split
  · exact (Ambient.report s _).trans (.fence _ _ _ _ _)
  · exact .report s _

/-! ### Messages and timers -/

/-- The arrival of a message is ambient where its taking is. -/
theorem Ambient.arrive (s : State) (p : Agent) (take : State → State) (h : ∀ u, Ambient u (take u)) :
    Ambient s (s.arrive p take) := by
  have hc : Ambient s s.clearOutputs := .of_eq rfl
  unfold State.arrive
  split
  · split
    · exact (hc.trans (h _)).trans (.finish _)
    · unfold State.discard
      split
      · exact hc.trans (.updPort _ p _)
      · exact hc
  · exact hc

theorem Ambient.answerNow (s : State) (p : Agent) (m : OutMsg) : Ambient s (s.answerNow p m) :=
  (Ambient.send s p m).trans (.returnCredit _ p)

theorem Ambient.spendCredit (s : State) (p : Agent) : Ambient s (s.spendCredit p) := .updPort s p _

theorem Ambient.joinIntake (s : State) (r : Request) : Ambient s (s.joinIntake r) :=
  (Ambient.updPort s r.port fun q => { q with tags := addTo q.tags r.tag }).trans (.of_eq rfl)

theorem Ambient.checkRequest (s : State) (r : Request) : Ambient s (s.checkRequest r) := by
  unfold State.checkRequest
  split
  · exact (Ambient.returnCredit s r.port).trans (.protocolError _ _ _ _ _ _)
  · split
    · exact .answerNow s _ _
    · split
      · exact .answerNow s _ _
      · split
        · exact (Ambient.answerNow s _ _).trans (.report _ _)
        · exact .joinIntake s r

theorem Ambient.takeRequest (s : State) (r : Request) : Ambient s (s.takeRequest r) := by
  unfold State.takeRequest
  split
  · exact .protocolError s _ _ _ _ _
  · exact (Ambient.spendCredit s r.port).trans (.checkRequest _ r)

theorem Ambient.takeBadKind (s : State) (p : Agent) (m : MsgCode) : Ambient s (s.takeBadKind p m) := by
  unfold State.takeBadKind
  split
  · exact .protocolError _ _ _ _ _ _
  · split
    · exact .protocolError s _ _ _ _ _
    · exact ((Ambient.spendCredit s p).trans (.returnCredit _ _)).trans (.protocolError _ _ _ _ _ _)

theorem Ambient.endWait (s : State) (e : EntryIdx) : Ambient s (s.endWait e) :=
  .updEntry s e _

theorem Ambient.takeDone (s : State) (p : Agent) (n : Txn) : Ambient s (s.takeDone p n) := by
  unfold State.takeDone
  split
  · exact .refl s
  · split
    · exact .endWait s _
    · exact .protocolError _ _ _ _ _ _

theorem Ambient.endProbe (s : State) (e : EntryIdx) (a : Agent) (ans : Answer) : Ambient s (s.endProbe e a ans) :=
  (Ambient.updEntry s e _).trans (.updPort _ a _)

theorem Ambient.takeAnswer (s : State) (p : Agent) (n : Txn) (l : Line) (m : MsgCode) (ans : Answer) :
    Ambient s (s.takeAnswer p n l m ans) := by
  unfold State.takeAnswer
  split
  · exact .refl s
  · split
    · exact .report s _
    · next x rest _ =>
      have h : Ambient s (s.updPort p fun q => { q with sends := rest }) := .updPort s p _
      dsimp only
      split
      · exact h.trans (.endProbe _ _ _ _)
      · exact h.trans (.report _ _)

theorem Ambient.setProbe (s : State) (e : EntryIdx) (a : Agent) (b : Probe) : Ambient s (s.setProbe e a b) :=
  .updEntry s e _

theorem Ambient.sendProbe (s : State) (p : Agent) (e : EntryIdx) : Ambient s (s.sendProbe p e) := by
  unfold State.sendProbe
  refine .trans (.trans (.send s p (s.probeMsg e)) (.updEntry _ e _ ?_)) (.updPort _ p _)
  split
  · exact ⟨rfl, rfl, rfl, rfl, id⟩
  · exact .refl

theorem Ambient.repeatProbe (s : State) (e : EntryIdx) (a : Agent) (b : Probe) : Ambient s (s.repeatProbe e a b) := by
  unfold State.repeatProbe
  split
  · split
    · exact .sendProbe _ _ _
    · exact (Ambient.setProbe s e a _).trans (.updPort _ a _)
  · exact .refl s
  · exact .refl s

theorem Ambient.probeExpires (s : State) (e : EntryIdx) (a : Agent) (b : Probe) : Ambient s (s.probeExpires e a b) := by
  unfold State.probeExpires
  split
  · dsimp only
    exact ((Ambient.setProbe s e a _).trans (.repeatProbe _ e a _)).trans (.report _ _)
  · exact .fence _ _ _ _ _

theorem Ambient.tick (s : State) : Ambient s s.tick := by
  unfold State.tick
  split
  · exact (Ambient.mapEntries s Entry.tick fun _ => ⟨rfl, rfl, rfl, rfl, id⟩).trans (.of_eq rfl)
  · exact .of_eq rfl
  · exact .of_eq rfl

theorem Ambient.linkUp (s : State) (p : Agent) : Ambient s (s.linkUp p) :=
  (Ambient.updPort s p _).trans (.bringUp _ p)

theorem Ambient.linkDown (s : State) (p : Agent) : Ambient s (s.linkDown p) := by
  unfold State.linkDown
  dsimp only
  split
  · exact (Ambient.updPort s p _).trans (.updPort _ p _)
  · exact (Ambient.updPort s p _).trans (.fence _ _ _ _ _)

/-! ### Maintenance commands at their WRITE -/

theorem Ambient.complete (s : State) (r : Result) : Ambient s (s.complete r) := .updSvc s _

theorem Ambient.fail (s : State) (why : FailReason) : Ambient s (s.fail why) := .updSvc s _

theorem Ambient.gate (s : State) (run : State → State) (h : ∀ u, Ambient u (run u)) : Ambient s (s.gate run) := by
  unfold State.gate
  split
  · exact h s
  · exact .fail s _
  · exact .fail s _

theorem Ambient.startInspect (s : State) : Ambient s s.startInspect := by
  unfold State.startInspect
  split
  · split
    · exact .complete s _
    · exact .updSvc s _
  · exact .fail s _

theorem Ambient.startLine (s : State) : Ambient s s.startLine := by
  unfold State.startLine
  split
  · exact .updSvc s _
  · exact .fail s _

theorem Ambient.startRecallLine (s : State) : Ambient s s.startRecallLine := by
  unfold State.startRecallLine
  split
  · split
    · exact .updSvc s _
    · exact .fail s _
  · exact .fail s _

theorem Ambient.startClearSet (s : State) : Ambient s s.startClearSet := by
  unfold State.startClearSet
  split
  · exact .updSvc s _
  · exact .fail s _

theorem Ambient.runFence (s : State) : Ambient s s.runFence := by
  unfold State.runFence
  split
  · split
    · exact (Ambient.fence _ _ _ _ _).trans (.complete _ _)
    · exact .fail s _
  · exact .fail s _

theorem Ambient.runUnfence (s : State) : Ambient s s.runUnfence := by
  unfold State.runUnfence
  split
  · split
    · exact ((Ambient.updPort s _ _).trans (.bringUp _ _)).trans (.complete _ _)
    · exact .fail s _
  · exact .fail s _

/-- CLEAR_ERRORS empties a capture; the outputs follow at the end of its event. -/
theorem Ambient.runClearErrors (s : State) : Ambient s s.runClearErrors.finish := by
  unfold State.runClearErrors
  split
  · dsimp only
    generalize s.err.setCapture s.svc.classArg ⟨none, 0⟩ = u
    have h := Ambient.finish ({ s with err := u }.complete
      { Result.clear with cleared := some ((s.err.capture s.svc.classArg).first.map Report.kind,
        (s.err.capture s.svc.classArg).later) })
    exact ⟨h.part, h.walk, h.dir, h.cfg, h.req, h.entry, fun _ => (Finishes.finish _).outputs⟩
  · exact (Ambient.fail s _).trans (.finish _)

/-- The whole event of a WRITE of the command register. -/
theorem Ambient.takeCommand (s : State) (v : Word) : Ambient s (s.takeCommand v).finish := by
  unfold State.takeCommand
  generalize hu : s.updSvc _ = u
  refine Ambient.trans (t := u) (hu ▸ .updSvc s _) ?_
  have ends {t : State} (h : Ambient u t) : Ambient u t.finish := h.trans (.finish t)
  unfold State.runCommand
  split
  · exact ends (.startInspect u)
  · split
    · exact ends (.fail u _)
    · exact ends (.startLine u)
  · exact ends (.gate u _ Ambient.startRecallLine)
  · exact ends (.gate u _ Ambient.startLine)
  · exact ends (.gate u _ Ambient.runFence)
  · exact ends (.gate u _ Ambient.runUnfence)
  · exact ends (.gate u _ Ambient.startClearSet)
  · exact ends (.gate u _ fun _ => .of_eq rfl)
  · exact ends (.gate u _ fun _ => .of_eq rfl)
  · split
    · exact ends (.fail u _)
    · exact .runClearErrors u
  · exact ends (.fail u _)

/-! ### WRITEs -/

/-- What a WRITE of a setting leaves: the array, the table and the part state as they are, every setting in its range and
the REQ_CREDITS values in theirs if they were (R111, R179). -/
structure Configures (s t : State) : Prop where
  part : t.part = s.part ∨ s.part = .run ∧ t.part = .halted
  walk : t.walk = s.walk
  dir : t.dir = s.dir
  entry : ∀ e, SameHold (s.entry e) (t.entry e)
  legal : s.cfg.legal = true → t.cfg.legal = true
  credits : s.creditTotal ≤ 48 → t.creditTotal ≤ 48
  range : (∀ p, 1 ≤ (s.port p).reqCredits ∧ (s.port p).reqCredits ≤ 8) →
    ∀ p, 1 ≤ (t.port p).reqCredits ∧ (t.port p).reqCredits ≤ 8
  outputs : s.outputsLawful → t.outputsLawful

theorem State.creditTotal_congr {s t : State} (h : ∀ p, (t.port p).reqCredits = (s.port p).reqCredits) :
    t.creditTotal = s.creditTotal := by
  unfold State.creditTotal
  simp only [h]

/-- An ambient event changes no setting. -/
theorem Configures.of_ambient {s t : State} (h : Ambient s t) : Configures s t :=
  ⟨h.part, h.walk, h.dir, h.entry, fun hl => h.cfg ▸ hl, fun hc => State.creditTotal_congr h.req ▸ hc,
    fun hr p => by rw [h.req p]; exact hr p, h.outputs⟩

theorem Configures.trans {s t u : State} (h : Configures s t) (g : Ambient t u) : Configures s u := by
  refine ⟨?_, g.walk.trans h.walk, g.dir.trans h.dir, fun e => (h.entry e).trans (g.entry e),
    fun hl => g.cfg ▸ h.legal hl, fun hc => State.creditTotal_congr g.req ▸ h.credits hc,
    fun hr p => by rw [g.req p]; exact h.range hr p, fun ho => g.outputs (h.outputs ho)⟩
  rcases g.part with hg | ⟨hg, hg'⟩
  · rw [hg]
    exact h.part
  · rcases h.part with hh | ⟨-, hh⟩
    · exact .inr ⟨hh ▸ hg, hg'⟩
    · rw [hh] at hg
      exact absurd hg (by decide)

/-- The outputs of the step before it do not matter. -/
theorem Configures.of_eq {s s' t : State} (hs : s'.ambience = s.ambience) (h : Configures s' t) : Configures s t := by
  have hn : s'.creditTotal = s.creditTotal := State.creditTotal_congr (Ambient.of_eq hs).req
  have he := (Ambient.of_eq hs).entry
  have hq := (Ambient.of_eq hs).req
  have ho := (Ambient.of_eq hs).outputs
  simp only [State.ambience, Prod.mk.injEq] at hs
  obtain ⟨hpart, hwalk, hdir, hcfg, -⟩ := hs
  exact ⟨hpart ▸ h.part, h.walk.trans hwalk, h.dir.trans hdir, fun e => (he e).trans (h.entry e),
    fun hl => h.legal (hcfg ▸ hl), fun hc => h.credits (hn ▸ hc), fun hr => h.range fun p => by rw [hq p]; exact hr p,
    fun g => h.outputs (ho g)⟩

theorem Configures.updCfg (s : State) (f : Settings → Settings) (h : s.cfg.legal = true → (f s.cfg).legal = true) :
    Configures s (s.updCfg f) :=
  ⟨.inl rfl, rfl, rfl, fun _ => .refl, h, id, id, id⟩

/-- A WRITE that is accepted leads, at the end of its event, to a state that `R` allows. -/
def WriteOutcome.ends (R : State → Prop) : WriteOutcome → Prop
  | .refused _ => True
  | .quiet t => R t
  | .live t => R t.finish

theorem WriteOutcome.ends_imp {R Q : State → Prop} {w : WriteOutcome} (h : w.ends R) (hi : ∀ t, R t → Q t) :
    w.ends Q := by
  cases w with
  | refused why => trivial
  | quiet t => exact hi _ h
  | live t => exact hi _ h

/-- The settings in their ranges, one by one. -/
theorem Settings.legal_iff (c : Settings) : c.legal = true ↔
    (1 ≤ c.winCount.toNat ∧ c.winBase.toNat + c.winCount.toNat ≤ 2 ^ 38)
    ∧ (1 ≤ c.probeCredits ∧ c.probeCredits ≤ 16) ∧ (1 ≤ c.probeTmo ∧ c.probeTmo ≤ 1023) ∧ c.probeRetries ≤ 3
    ∧ (1 ≤ c.doneTmo ∧ c.doneTmo ≤ 1023) ∧ (1 ≤ c.admitLow ∧ c.admitLow < c.admitHigh ∧ c.admitHigh ≤ 31)
    ∧ (1 ≤ c.recallBudget ∧ c.recallBudget ≤ 8) ∧ c.retireTh ≤ 15
    ∧ (1 ≤ c.scrubInterval ∧ c.scrubInterval ≤ 1023) ∧ (1 ≤ c.scrubStarve ∧ c.scrubStarve ≤ 255) := by
  simp only [Settings.legal, Bool.and_eq_true, decide_eq_true_eq, and_assoc]

theorem Configures.writeSetting (s : State) (v : Word) (lo hi : Nat) (f : Nat → Settings → Settings)
    (h : ∀ x, lo ≤ x → x ≤ hi → s.cfg.legal = true → (f x s.cfg).legal = true) :
    (s.writeSetting v lo hi f).ends (Configures s) := by
  unfold State.writeSetting
  split
  · next hv => exact Configures.updCfg s _ (h _ hv.1 hv.2)
  · trivial

theorem Configures.applyWindow (s : State) : s.applyWindow.ends (Configures s) := by
  unfold State.applyWindow
  dsimp only
  split
  · trivial
  · split
    · trivial
    · next hw =>
      refine Configures.updCfg s _ fun hl => ?_
      rw [Settings.legal_iff] at hl ⊢
      exact ⟨⟨by show 1 ≤ s.cfg.pendCount.toNat; omega, by show s.cfg.pendBase.toNat + s.cfg.pendCount.toNat ≤ _; omega⟩,
        hl.2⟩

theorem State.creditTotal_updPort (s : State) (p : Agent) (x : Nat) :
    (s.updPort p fun q => { q with reqCredits := x }).creditTotal = s.creditSum p x := by
  unfold State.creditTotal State.creditSum
  congr 1
  refine List.map_congr_left fun q _ => ?_
  rw [State.port_updPort]
  split <;> rfl

theorem Configures.writeReqCredits (s : State) (p : Agent) (v : Word) :
    (s.writeReqCredits p v).ends (Configures s) := by
  unfold State.writeReqCredits
  dsimp only
  split
  · trivial
  · next hx =>
    split
    · split
      · next hs =>
        refine ⟨.inl rfl, rfl, rfl, fun _ => .refl, id, fun _ => ?_, fun hr q => ?_, id⟩
        · rw [State.creditTotal_updPort]
          exact hs
        · rw [State.port_updPort]
          split
          · show 1 ≤ v.toNat % 16 ∧ v.toNat % 16 ≤ 8
            omega
          · exact hr q
      · trivial
    · trivial

theorem Ambient.writeEnable (v : Word) (s : State) (p : Agent) : Ambient s (s.writeEnable v p) := by
  unfold State.writeEnable
  split
  · exact (Ambient.updPort s p _).trans (.bringUp _ p)
  · exact .updPort s p _

theorem Ambient.pauseAgain (s : State) : Ambient s s.pauseAgain := .of_eq rfl

theorem Ambient.wakeLeave (s : State) : Ambient s s.wakeLeave := .of_eq rfl

theorem Configures.writeAdmit (s : State) (m : AdmitMark) (v : Word) :
    (s.writeAdmit m v).ends (Configures s) := by
  unfold State.writeAdmit
  dsimp only
  split
  · trivial
  · next hx =>
    have ends (f : Settings → Settings) (h : s.cfg.legal = true → (f s.cfg).legal = true) :
        Configures s (s.updCfg f).pauseAgain.finish :=
      ((Configures.updCfg s f h).trans (.pauseAgain _)).trans (.finish _)
    cases m with
    | high =>
      dsimp only
      split
      · refine ends _ fun hl => ?_
        rw [Settings.legal_iff] at hl ⊢
        obtain ⟨h1, h2, h3, h4, h5, h6, h7⟩ := hl
        exact ⟨h1, h2, h3, h4, h5, ⟨h6.1, ‹_›, by show settingField v ≤ 31; omega⟩, h7⟩
      · trivial
    | low =>
      dsimp only
      split
      · refine ends _ fun hl => ?_
        rw [Settings.legal_iff] at hl ⊢
        obtain ⟨h1, h2, h3, h4, h5, h6, h7⟩ := hl
        exact ⟨h1, h2, h3, h4, h5, ⟨by show 1 ≤ settingField v; omega, ‹_›, h6.2.2⟩, h7⟩
      · trivial

theorem Configures.writeRecallBudget (s : State) (v : Word) : (s.writeRecallBudget v).ends (Configures s) := by
  unfold State.writeRecallBudget
  dsimp only
  split
  · next hx =>
    refine ((Configures.updCfg s _ fun hl => ?_).trans (.wakeLeave _)).trans (.finish _)
    rw [Settings.legal_iff] at hl ⊢
    obtain ⟨h1, h2, h3, h4, h5, h6, -, h7⟩ := hl
    exact ⟨h1, h2, h3, h4, h5, h6, hx, h7⟩
  · trivial

theorem Configures.writeProbeCredits (s : State) (v : Word) : (s.writeProbeCredits v).ends (Configures s) := by
  unfold State.writeProbeCredits
  dsimp only
  split
  · next hx =>
    refine (Configures.updCfg s _ fun hl => ?_).trans (.finish _)
    rw [Settings.legal_iff] at hl ⊢
    obtain ⟨h1, -, h2⟩ := hl
    exact ⟨h1, hx, h2⟩
  · trivial

/-- A WRITE of any register, accepted. -/
theorem Configures.write (s : State) (r : Reg) (v : Word) : (s.write r v).ends (Configures s) := by
  have ambient {t : State} (h : Ambient s t) : Configures s t := .of_ambient h
  have pending (f : Settings → Settings) (h : (f s.cfg).legal = s.cfg.legal) : Configures s (s.updCfg f) :=
    .updCfg s f fun hl => h.trans hl
  cases r with
  | pendBaseLow => exact pending _ rfl
  | pendBaseHigh => exact pending _ rfl
  | pendCountLow => exact pending _ rfl
  | pendCountHigh => exact pending _ rfl
  | windowApply => exact Configures.applyWindow s
  | reqCredits p => exact Configures.writeReqCredits s p v
  | enables => exact ambient ((Ambient.foldl _ (Ambient.writeEnable v) _ s).trans (.finish _))
  | protoFence => exact pending _ rfl
  | probeCredits => exact Configures.writeProbeCredits s v
  | probeTmo =>
    refine Configures.writeSetting s v 1 1023 (fun x c => { c with probeTmo := x }) fun x hlo hhi hl => ?_
    rw [Settings.legal_iff] at hl ⊢
    obtain ⟨h1, h2, -, h3⟩ := hl
    exact ⟨h1, h2, ⟨hlo, hhi⟩, h3⟩
  | probeRetries =>
    refine Configures.writeSetting s v 0 3 (fun x c => { c with probeRetries := x }) fun x hlo hhi hl => ?_
    rw [Settings.legal_iff] at hl ⊢
    obtain ⟨h1, h2, h3, -, h4⟩ := hl
    exact ⟨h1, h2, h3, hhi, h4⟩
  | doneTmo =>
    refine Configures.writeSetting s v 1 1023 (fun x c => { c with doneTmo := x }) fun x hlo hhi hl => ?_
    rw [Settings.legal_iff] at hl ⊢
    obtain ⟨h1, h2, h3, h4, -, h5⟩ := hl
    exact ⟨h1, h2, h3, h4, ⟨hlo, hhi⟩, h5⟩
  | admission m => exact Configures.writeAdmit s m v
  | recallBudget => exact Configures.writeRecallBudget s v
  | retireTh =>
    refine Configures.writeSetting s v 0 15 (fun x c => { c with retireTh := x }) fun x hlo hhi hl => ?_
    rw [Settings.legal_iff] at hl ⊢
    obtain ⟨h1, h2, h3, h4, h5, h6, h7, -, h8⟩ := hl
    exact ⟨h1, h2, h3, h4, h5, h6, h7, hhi, h8⟩
  | scrubInterval =>
    refine Configures.writeSetting s v 1 1023 (fun x c => { c with scrubInterval := x }) fun x hlo hhi hl => ?_
    rw [Settings.legal_iff] at hl ⊢
    obtain ⟨h1, h2, h3, h4, h5, h6, h7, h8, -, h9⟩ := hl
    exact ⟨h1, h2, h3, h4, h5, h6, h7, h8, ⟨hlo, hhi⟩, h9⟩
  | scrubStarve =>
    refine Configures.writeSetting s v 1 255 (fun x c => { c with scrubStarve := x }) fun x hlo hhi hl => ?_
    rw [Settings.legal_iff] at hl ⊢
    obtain ⟨h1, h2, h3, h4, h5, h6, h7, h8, h9, -⟩ := hl
    exact ⟨h1, h2, h3, h4, h5, h6, h7, h8, h9, ⟨hlo, hhi⟩⟩
  | discards p =>
    show WriteOutcome.ends _ (if settingField v = 0 then _ else _)
    split
    · exact ambient (.updPort s p _)
    · trivial
  | counter k =>
    show WriteOutcome.ends _ (if v.toNat % 256 = 0 then _ else _)
    split
    · exact ⟨.inl rfl, rfl, rfl, fun _ => .refl, id, id, id, id⟩
    · trivial
  | mask k =>
    exact ⟨.inl rfl, rfl, rfl, fun _ => .refl, id, id, id, fun _ => State.outputsLawful_evalOutputs _⟩
  | command =>
    show WriteOutcome.ends _ (if s.svc.status = .busy then _ else _)
    split
    · trivial
    · exact ambient (.takeCommand s v)
  | argA => exact ambient (.updSvc s _)
  | argB => exact ambient (.updSvc s _)
  | readOnly a => trivial

theorem Configures.writeReg (s : State) (r : Reg) (v : Word) : Configures s (s.writeReg r v) := by
  have hc : Ambient s s.clearOutputs := .of_eq rfl
  unfold State.writeReg
  split
  · have h := Configures.write s.clearOutputs r v
    generalize s.clearOutputs.write r v = w at h
    cases w with
    | refused why => exact .of_ambient (.of_eq rfl)
    | quiet t => exact (Configures.of_eq (s := s) (s' := s.clearOutputs) rfl h).trans (.setFrame t _)
    | live t => exact (Configures.of_eq (s := s) (s' := s.clearOutputs) rfl h).trans (.setFrame t.finish _)
  · exact .of_ambient hc

theorem Configures.writeAddr (s : State) (a : Addr) (v : Word) : Configures s (s.writeAddr a v) := by
  unfold State.writeAddr
  split
  · exact .of_ambient (.of_eq rfl)
  · exact .writeReg s _ v

/-! ### Accesses -/

/-- What the claimant of an access does on the set of the access (R11). -/
def State.dueOutcome (s : State) : Due → Access → State
  | .intake r => intakeOutcome r
  | .resolution e => resolutionOutcome e
  | .parked e => parkedOutcome e
  | .close e => closeOutcome e
  | .handedOn e => handedOnOutcome e
  | .releasing e => releasingOutcome e
  | .serviceResolution e => serviceOutcome e
  | .retractResolution e => retractOutcome e
  | .repairResolution e => repairOutcome e
  | .recallResolution e => recallOutcome e
  | .retireResolution e => retireOutcome e
  | .recallStart e => recallStartOutcome e
  | .retireStart k w => retireStartOutcome k w
  | .repairStart k t => repairStartOutcome k t
  | .service code =>
    if code = 2 then lookupOutcome
    else if code = 3 then recallLineOutcome
    else if code = 4 then clearPoisonOutcome
    else if code = 7 then clearSetOutcome
    else fun a => a.s
  | .purge => purgeOutcome s.purge.pos
  | .leave p => leaveOutcome s.leave.pos p
  | .scrub => fun a => a.s

/-- What an access does after its end on the array: the readers fill the result registers, the scrub moves on. -/
def State.dueAfter (s : State) : Due → State → State
  | .service code => fun u => if code = 1 then u.fillInspect else if code = 2 then u.fillLookup else u
  | .scrub => fun u => u.scrubOn s.integ.scrubPos
  | _ => id

/-- The whole event of the access `d`. -/
def State.accessed (s : State) (d : Due) (f : List CellFault) : State :=
  (s.dueAfter d (s.takeClaim.access (s.dueSet d) f (s.dueOutcome d))).finish

/-- The codes of the commands that make accesses (section 11.4). -/
theorem Due.command_service {code : BitVec 8} {f : List CellFault} {c : Instr}
    (h : (Due.service code).command f = some c) :
    code = 1 ∧ c = .inspectAccess f ∨ code = 2 ∧ c = .lookupAccess f ∨ code = 3 ∧ c = .recallLineStart f
      ∨ code = 4 ∧ c = .clearPoisonAccess f ∨ code = 7 ∧ c = .clearSetAccess f := by
  unfold Due.command at h
  dsimp only at h
  split at h
  · cases h; exact .inl ⟨‹_›, rfl⟩
  · split at h
    · cases h; exact .inr (.inl ⟨‹_›, rfl⟩)
    · split at h
      · cases h; exact .inr (.inr (.inl ⟨‹_›, rfl⟩))
      · split at h
        · cases h; exact .inr (.inr (.inr (.inl ⟨‹_›, rfl⟩)))
        · split at h
          · cases h; exact .inr (.inr (.inr (.inr ⟨‹_›, rfl⟩)))
          · cases h

/-- An access command whose access is due carries it out. -/
theorem exec_due {d : Due} {f : List CellFault} {c : Instr} (h : d.command f = some c) {s : State}
    (hs : s.due = some d) : exec c s = .next (s.accessed d f) := by
  cases d with
  | intake r => cases h; show execIntakeLookup f s = _; rw [execIntakeLookup, hs]; rfl
  | resolution e => cases h; show execResolutionAccess f s = _; rw [execResolutionAccess, hs]; rfl
  | parked e => cases h; show execParkedResolution f s = _; rw [execParkedResolution, hs]; rfl
  | close e => cases h; show execCloseAccess f s = _; rw [execCloseAccess, hs]; rfl
  | handedOn e => cases h; show execLookupAfterHandOn f s = _; rw [execLookupAfterHandOn, hs]; rfl
  | releasing e => cases h; show execReleasingAccess f s = _; rw [execReleasingAccess, hs]; rfl
  | serviceResolution e => cases h; show execServiceResolution f s = _; rw [execServiceResolution, hs]; rfl
  | retractResolution e => cases h; show execRetractResolution f s = _; rw [execRetractResolution, hs]; rfl
  | repairResolution e => cases h; show execRepairResolution f s = _; rw [execRepairResolution, hs]; rfl
  | recallResolution e => cases h; show execRecallResolution f s = _; rw [execRecallResolution, hs]; rfl
  | retireResolution e => cases h; show execRetireResolution f s = _; rw [execRetireResolution, hs]; rfl
  | recallStart e => cases h; show execRecallStart f s = _; rw [execRecallStart, hs]; rfl
  | retireStart k w => cases h; show execRetireStart f s = _; rw [execRetireStart, hs]; rfl
  | repairStart k t => cases h; show execRepairStart f s = _; rw [execRepairStart, hs]; rfl
  | purge => cases h; show execPurgeStep f s = _; rw [execPurgeStep, hs]; rfl
  | leave p => cases h; show execLeaveStep f s = _; rw [execLeaveStep, hs]; rfl
  | scrub => cases h; show execScrubAccess f s = _; rw [execScrubAccess, hs]; rfl
  | service code =>
    obtain ⟨rfl, rfl⟩ | ⟨rfl, rfl⟩ | ⟨rfl, rfl⟩ | ⟨rfl, rfl⟩ | ⟨rfl, rfl⟩ := Due.command_service h
    · exact congrArg _ (if_pos hs)
    · exact congrArg _ (if_pos hs)
    · exact congrArg _ (if_pos hs)
    · exact congrArg _ (if_pos hs)
    · exact congrArg _ (if_pos hs)

/-- An access command whose access is not due clears the outputs (logs 2 and 4). -/
theorem exec_not_due {d : Due} {f : List CellFault} {c : Instr} (h : d.command f = some c) {s : State}
    (hn : ∀ d', d'.command f = some c → s.due ≠ some d') : exec c s = .next s.clearOutputs := by
  cases d with
  | intake r =>
    cases h
    show execIntakeLookup f s = _
    unfold execIntakeLookup
    split
    · exact absurd ‹_› (hn _ rfl)
    · rfl
  | resolution e =>
    cases h
    show execResolutionAccess f s = _
    unfold execResolutionAccess
    split
    · exact absurd ‹_› (hn _ rfl)
    · rfl
  | parked e =>
    cases h
    show execParkedResolution f s = _
    unfold execParkedResolution
    split
    · exact absurd ‹_› (hn _ rfl)
    · rfl
  | close e =>
    cases h
    show execCloseAccess f s = _
    unfold execCloseAccess
    split
    · exact absurd ‹_› (hn _ rfl)
    · rfl
  | handedOn e =>
    cases h
    show execLookupAfterHandOn f s = _
    unfold execLookupAfterHandOn
    split
    · exact absurd ‹_› (hn _ rfl)
    · rfl
  | releasing e =>
    cases h
    show execReleasingAccess f s = _
    unfold execReleasingAccess
    split
    · exact absurd ‹_› (hn _ rfl)
    · rfl
  | serviceResolution e =>
    cases h
    show execServiceResolution f s = _
    unfold execServiceResolution
    split
    · exact absurd ‹_› (hn _ rfl)
    · rfl
  | retractResolution e =>
    cases h
    show execRetractResolution f s = _
    unfold execRetractResolution
    split
    · exact absurd ‹_› (hn _ rfl)
    · rfl
  | repairResolution e =>
    cases h
    show execRepairResolution f s = _
    unfold execRepairResolution
    split
    · exact absurd ‹_› (hn _ rfl)
    · rfl
  | recallResolution e =>
    cases h
    show execRecallResolution f s = _
    unfold execRecallResolution
    split
    · exact absurd ‹_› (hn _ rfl)
    · rfl
  | retireResolution e =>
    cases h
    show execRetireResolution f s = _
    unfold execRetireResolution
    split
    · exact absurd ‹_› (hn _ rfl)
    · rfl
  | recallStart e =>
    cases h
    show execRecallStart f s = _
    unfold execRecallStart
    split
    · exact absurd ‹_› (hn _ rfl)
    · rfl
  | retireStart k w =>
    cases h
    show execRetireStart f s = _
    unfold execRetireStart
    split
    · exact absurd ‹_› (hn _ rfl)
    · rfl
  | repairStart k t =>
    cases h
    show execRepairStart f s = _
    unfold execRepairStart
    split
    · exact absurd ‹_› (hn _ rfl)
    · rfl
  | purge =>
    cases h
    show execPurgeStep f s = _
    unfold execPurgeStep
    split
    · exact absurd ‹_› (hn _ rfl)
    · rfl
  | leave p =>
    cases h
    show execLeaveStep f s = _
    unfold execLeaveStep
    split
    · exact absurd ‹_› (hn _ rfl)
    · rfl
  | scrub =>
    cases h
    show execScrubAccess f s = _
    unfold execScrubAccess
    split
    · exact absurd ‹_› (hn _ rfl)
    · rfl
  | service code =>
    obtain ⟨rfl, rfl⟩ | ⟨rfl, rfl⟩ | ⟨rfl, rfl⟩ | ⟨rfl, rfl⟩ | ⟨rfl, rfl⟩ := Due.command_service h
    · exact congrArg _ (if_neg (hn _ rfl))
    · exact congrArg _ (if_neg (hn _ rfl))
    · exact congrArg _ (if_neg (hn _ rfl))
    · exact congrArg _ (if_neg (hn _ rfl))
    · exact congrArg _ (if_neg (hn _ rfl))

/-- An access command carries out the access that is due, or, where another is due, clears the outputs (R16). -/
theorem exec_access {d : Due} {f : List CellFault} {c : Instr} (h : d.command f = some c) (s : State) :
    (∃ d', d'.command f = some c ∧ s.due = some d' ∧ exec c s = .next (s.accessed d' f))
      ∨ (∀ d', d'.command f = some c → s.due ≠ some d') ∧ exec c s = .next s.clearOutputs := by
  by_cases hd : ∃ d', d'.command f = some c ∧ s.due = some d'
  · obtain ⟨d', hc, hs⟩ := hd
    exact .inl ⟨d', hc, hs, exec_due hc hs⟩
  · have hn : ∀ d', d'.command f = some c → s.due ≠ some d' := fun d' hc hs => hd ⟨d', hc, hs⟩
    exact .inr ⟨hn, exec_not_due h hn⟩

/-! ### Every command, every step -/

/-- What a command can do to the state: leave the array and the table alone, put the part back to its power-on state, take
RESET_N down or up, take the clearing walk one set on, or make an access. -/
inductive Event (s : State) : State → Prop where
  | configures {t : State} (h : Configures s t) : Event s t
  | powerOn : Event s s.powerOn
  | powerOff : Event s s.powerOff
  | resetFall : Event s ({ s.clearOutputs with resetN := false } : State).warmReset.evalOutputs
  | resetRise {t : State} (h : Ambient { s with walk := some 0 } t) : Event s t
  | walk {k : SetIdx} (h : s.walk = some k) : Event s ((s.clearOutputs.clearSet k).walkOn k).finish
  | access {d : Due} {f : List CellFault} {c : Instr} (hc : d.command f = some c) (hd : s.due = some d) :
    Event s (s.accessed d f)

theorem Event.of_ambient {s t : State} (h : Ambient s t) : Event s t := .configures (.of_ambient h)

/-- An access command is an access or clears the outputs. -/
theorem Event.of_access {d : Due} {f : List CellFault} {c : Instr} (h : d.command f = some c) {s t : State}
    (ht : exec c s = .next t) : Event s t := by
  rcases exec_access h s with ⟨d', hc, hd, he⟩ | ⟨-, he⟩
  · rw [he] at ht
    cases ht
    exact .access hc hd
  · rw [he] at ht
    cases ht
    exact .of_ambient (.of_eq rfl)

/-- An event of the links or the timers that takes place under a condition. -/
theorem Ambient.guarded {s u : State} {p : Prop} [Decidable p] (h : Ambient s.clearOutputs u) :
    Ambient s (if p then u.finish else s.clearOutputs) := by
  have hc : Ambient s s.clearOutputs := .of_eq rfl
  split
  · exact (hc.trans h).trans (.finish u)
  · exact hc

/-- Every command is one of these events. -/
theorem Event.of_exec {c : Instr} {s t : State} (h : exec c s = .next t) : Event s t := by
  have hc : Ambient s s.clearOutputs := .of_eq rfl
  have request (r : Request) : Event s (s.requestArrives r) :=
    .of_ambient (.arrive s r.port _ fun u => .takeRequest u r)
  have write (r : Reg) (v : Word) : Event s (s.writeReg r v) := .configures (.writeReg s r v)
  cases c with
  | pwrokRise =>
    cases h
    split
    · exact .of_ambient hc
    · exact .powerOn
  | pwrokFall =>
    cases h
    split
    · exact .powerOff
    · exact .of_ambient hc
  | resetNFall =>
    cases h
    split
    · exact .resetFall
    · exact .of_ambient (.of_eq rfl)
  | resetNRise =>
    cases h
    split
    · refine .resetRise (Ambient.trans (t := { s.clearOutputs with resetN := true, walk := some 0 }) (.of_eq rfl) ?_)
      exact .foldl _ (fun u p => Ambient.bringUp u p) _ _
    · exact .of_ambient (.of_eq rfl)
  | clearingWalkStep =>
    cases h
    split
    · exact .walk ‹_›
    · exact .of_ambient hc
  | linkDetected p => cases h; exact .of_ambient (.guarded (.linkUp _ p))
  | linkLoss p => cases h; exact .of_ambient (.guarded (.linkDown _ p))
  | rdShared p tag line => cases h; exact request _
  | rdOwn p tag line fullWrite => cases h; exact request _
  | upgrade p tag line => cases h; exact request _
  | writeback p tag line => cases h; exact request _
  | drop p tag line => cases h; exact request _
  | leave p tag line => cases h; exact request _
  | badKind p channel code => cases h; exact .of_ambient (.arrive s p _ fun u => .takeBadKind u p _)
  | done p n => cases h; exact .of_ambient (.arrive s p _ fun u => .takeDone u p n)
  | ansClean p n line => cases h; exact .of_ambient (.arrive s p _ fun u => .takeAnswer u p n _ _ _)
  | ansWritten p n line => cases h; exact .of_ambient (.arrive s p _ fun u => .takeAnswer u p n _ _ _)
  | ansGone p n line => cases h; exact .of_ambient (.arrive s p _ fun u => .takeAnswer u p n _ _ _)
  | probeTimerExpiry e a =>
    cases h
    split
    · exact .of_ambient (.guarded (.probeExpires _ e a _))
    · exact .of_ambient hc
  | doneTimeout e => cases h; exact .of_ambient (.guarded ((Ambient.endWait _ e).trans (.report _ _)))
  | scrubIntervalExpiry => cases h; exact .of_ambient (.guarded (.of_eq rfl))
  | intakeLookup f => exact .of_access (d := .intake ⟨0, .drop, 0, 0, false⟩) rfl h
  | resolutionAccess f => exact .of_access (d := .resolution 0) rfl h
  | parkedResolution f => exact .of_access (d := .parked 0) rfl h
  | closeAccess f => exact .of_access (d := .close 0) rfl h
  | lookupAfterHandOn f => exact .of_access (d := .handedOn 0) rfl h
  | releasingAccess f => exact .of_access (d := .releasing 0) rfl h
  | recallStart f => exact .of_access (d := .recallStart 0) rfl h
  | recallResolution f => exact .of_access (d := .recallResolution 0) rfl h
  | retireStart f => exact .of_access (d := .retireStart 0 0) rfl h
  | retireResolution f => exact .of_access (d := .retireResolution 0) rfl h
  | repairStart f => exact .of_access (d := .repairStart 0 0) rfl h
  | repairResolution f => exact .of_access (d := .repairResolution 0) rfl h
  | purgeStep f => exact .of_access (d := .purge) rfl h
  | leaveStep f => exact .of_access (d := .leave 0) rfl h
  | retractResolution f => exact .of_access (d := .retractResolution 0) rfl h
  | scrubAccess f => exact .of_access (d := .scrub) rfl h
  | inspectAccess f => exact .of_access (d := .service 1) rfl h
  | lookupAccess f => exact .of_access (d := .service 2) rfl h
  | recallLineStart f => exact .of_access (d := .service 3) rfl h
  | serviceResolution f => exact .of_access (d := .serviceResolution 0) rfl h
  | clearPoisonAccess f => exact .of_access (d := .service 4) rfl h
  | clearSetAccess f => exact .of_access (d := .service 7) rfl h
  | inspect => cases h; exact write _ _
  | lookup => cases h; exact write _ _
  | recallLine => cases h; exact write _ _
  | clearPoison => cases h; exact write _ _
  | fence => cases h; exact write _ _
  | unfence => cases h; exact write _ _
  | clearSet => cases h; exact write _ _
  | scrubStart => cases h; exact write _ _
  | scrubStop => cases h; exact write _ _
  | clearErrors => cases h; exact write _ _
  | windowApply v => cases h; exact write _ _
  | reqCreditsWrite p v => cases h; exact write _ _
  | portEnableWrite v => cases h; exact write _ _
  | probeCreditsWrite v => cases h; exact write _ _
  | admitWrite m v => cases h; exact write _ _
  | recallBudgetWrite v => cases h; exact write _ _
  | maskRoutingWrite k v => cases h; exact write _ _
  | counterWrite k v => cases h; exact write _ _
  | discardCounterWrite p v => cases h; exact write _ _
  | registerWrite a v => cases h; exact .configures (.writeAddr s a v)
  | invalidOpcodeFrame =>
    cases h
    split
    · exact .of_ambient (.of_eq rfl)
    · exact .of_ambient hc
  | frameCutShort => cases h; exact .of_ambient (.of_eq rfl)

/-- Every step is one of these events, from a state that differs from the one before it in its queues alone. -/
theorem Event.of_step {s t : State} (h : step s = .next t) : ∃ s', s'.ambience = s.ambience ∧ Event s' t := by
  rcases step_cases s with ⟨c, rest, -, he⟩ | ⟨p, rest, -, -, he⟩ | ⟨-, -, he⟩
  · exact ⟨{ s with pending := rest }, rfl, .of_exec (he.symm.trans h)⟩
  · refine ⟨{ s with spi := { s.spi with pins := rest } }, rfl, ?_⟩
    rw [he] at h
    rcases pinStep_cases { s with spi := { s.spi with pins := rest } } p with ⟨x, hx⟩ | ⟨c, hx⟩
    · rw [hx] at h
      cases h
      exact .of_ambient (.of_eq rfl)
    · exact .of_exec (hx.symm.trans h)
  · rw [he] at h
    cases h
    exact ⟨s, rfl, .of_ambient (.tick s)⟩

end Sys2Proof.Machine
end

section
/-! PROOF. No access writes the argument registers: one equation for each shared operation, from the primitives to the
outcomes. -/

namespace Sys2Proof.Machine

/-- The argument registers (R181). -/
def State.args (s : State) : Word × Word := (s.svc.argA, s.svc.argB)

theorem State.args_congr {s t : State} (h : t.svc = s.svc) : t.args = s.args := by unfold State.args; rw [h]

theorem State.args_foldl {α : Type} (g : State → α → State) (h : ∀ s a, (g s a).args = s.args) (l : List α)
    (s : State) : (l.foldl g s).args = s.args := by
  induction l generalizing s with
  | nil => rfl
  | cons a l ih => exact (ih _).trans (h s a)

/-! ### Primitives -/

@[simp] theorem State.args_updEntry (s : State) (e : EntryIdx) (f : Entry → Entry) : (s.updEntry e f).args = s.args := rfl
@[simp] theorem State.args_setEntry (s : State) (e : EntryIdx) (x : Entry) : (s.setEntry e x).args = s.args := rfl
@[simp] theorem State.args_updPort (s : State) (p : Agent) (f : Port → Port) : (s.updPort p f).args = s.args := rfl
@[simp] theorem State.args_updSet (s : State) (k : SetIdx) (f : DirSet → DirSet) : (s.updSet k f).args = s.args := rfl
@[simp] theorem State.args_setWaiter (s : State) (i : PoolIdx) (w : Option Waiter) : (s.setWaiter i w).args = s.args := rfl
@[simp] theorem State.args_report (s : State) (r : Report) : (s.report r).args = s.args := rfl
@[simp] theorem State.args_writeRec (s : State) (k : SetIdx) (w : Way) (r : Record) :
    (s.writeRec k w r).args = s.args := rfl
@[simp] theorem State.args_writePoisoned (s : State) (k : SetIdx) (w : Way) (r : Record) :
    (s.writePoisoned k w r).args = s.args := rfl
@[simp] theorem State.args_bind (s : State) (k : SetIdx) (w : Way) (e : EntryIdx) : (s.bind k w e).args = s.args := rfl
@[simp] theorem State.args_alloc (s : State) (k : SetIdx) (w : Way) (r : Record) (e : EntryIdx) :
    (s.alloc k w r e).args = s.args := rfl
@[simp] theorem State.args_joinWaiters (s : State) (e : EntryIdx) (i : PoolIdx) (w : Waiter) :
    (s.joinWaiters e i w).args = s.args := rfl
@[simp] theorem State.args_reportPoison (s : State) (k : SetIdx) (w : Way) (l : Line) (a : Option Agent)
    (n : Option Txn) : (s.reportPoison k w l a n).args = s.args := rfl
@[simp] theorem State.args_complete (s : State) (r : Result) : (s.complete r).args = s.args := rfl
@[simp] theorem State.args_completeWith (s : State) (o : ResultOutcome) : (s.completeWith o).args = s.args := rfl
@[simp] theorem State.args_completeRecall (s : State) (e : EntryIdx) (o : ResultOutcome) :
    (s.completeRecall e o).args = s.args := rfl
@[simp] theorem State.args_fail (s : State) (why : FailReason) : (s.fail why).args = s.args := rfl
@[simp] theorem State.args_takeEntry (s : State) (e : EntryIdx) (l : Line) (kind : EntryKind) (who : Party)
    (req : Option EntryRequest) : (s.takeEntry e l kind who req).args = s.args := rfl
@[simp] theorem State.args_queueStarts (s : State) (l : List StartItem) : (s.queueStarts l).args = s.args := rfl
@[simp] theorem State.args_queueParked (s : State) (e : EntryIdx) (b : Bool) : (s.queueParked e b).args = s.args := rfl
@[simp] theorem State.args_park (s : State) (e : EntryIdx) (b : Bool) : (s.park e b).args = s.args := rfl
@[simp] theorem State.args_dropItem (s : State) (x : StartItem) : (s.dropItem x).args = s.args := rfl
@[simp] theorem State.args_dropAccess (s : State) (e : EntryIdx) : (s.dropAccess e).args = s.args := rfl
@[simp] theorem State.args_enterReleasing (s : State) (e : EntryIdx) : (s.enterReleasing e).args = s.args := rfl
@[simp] theorem State.args_handTo (s : State) (e : EntryIdx) (i : PoolIdx) (rest : List PoolIdx) (who : Party)
    (kind : EntryKind) (req : EntryRequest) : (s.handTo e i rest who kind req).args = s.args := rfl
@[simp] theorem State.args_reserveFor (s : State) (k : SetIdx) (w : Way) (p : EntryIdx) :
    (s.reserveFor k w p).args = s.args := rfl
@[simp] theorem State.args_withdrawSlot (s : State) (k : SetIdx) (w : Way) (m : ServiceMark) :
    (s.withdrawSlot k w m).args = s.args := rfl
@[simp] theorem State.args_leaveWaits (s : State) (x : LeaveWait) : (s.leaveWaits x).args = s.args := rfl
@[simp] theorem State.args_leaveOn (s : State) : s.leaveOn.args = s.args := rfl

@[simp] theorem State.args_send (s : State) (p : Agent) (m : OutMsg) : (s.send p m).args = s.args :=
  State.args_congr (State.svc_send s p m)

@[simp] theorem State.args_reply (s : State) (p : Agent) (tag : ReqTag) (m : OutMsg) : (s.reply p tag m).args = s.args :=
  State.args_send s p m

@[simp] theorem State.args_returnCredit (s : State) (p : Agent) : (s.returnCredit p).args = s.args :=
  State.args_congr (State.svc_returnCredit s p)

@[simp] theorem State.args_freeRec (s : State) (k : SetIdx) (w : Way) : (s.freeRec k w).args = s.args := by
  unfold State.freeRec
  dsimp only
  split <;> rfl

@[simp] theorem State.args_freeOrPoison (s : State) (k : SetIdx) (w : Way) (r : Record) :
    (s.freeOrPoison k w r).args = s.args := by
  unfold State.freeOrPoison
  split <;> simp

/-! ### Probe rounds -/

@[simp] theorem State.args_startProbe (e : EntryIdx) (s : State) (a : Agent) : (State.startProbe e s a).args = s.args := by
  unfold State.startProbe
  split <;> rfl

@[simp] theorem State.args_startRound (s : State) (e : EntryIdx) (kind : ProbeKind) (set : AgentSet) (b : Bool) :
    (s.startRound e kind set b).args = s.args :=
  State.args_foldl _ (State.args_startProbe e) _ _

@[simp] theorem State.args_startRepair (s : State) (e : EntryIdx) (keep : Option Agent) :
    (s.startRepair e keep).args = s.args :=
  State.args_startRound _ e _ _ _

/-! ### The end of a transaction -/

@[simp] theorem State.args_leaveSnapshots (s : State) (e : EntryIdx) : (s.leaveSnapshots e).args = s.args := by
  refine State.args_foldl _ (fun u p => ?_) _ _
  unfold State.leaveSnapshot
  dsimp only
  split
  · split <;> rfl
  · rfl

@[simp] theorem State.args_reportClose (s : State) (e : EntryIdx) : (s.reportClose e).args = s.args :=
  State.args_leaveSnapshots _ e

@[simp] theorem State.args_announceFree (s : State) (e : EntryIdx) : (s.announceFree e).args = s.args := by
  refine Eq.trans ?_ (State.args_leaveSnapshots s e)
  unfold State.announceFree State.args
  dsimp only
  split <;> rfl

@[simp] theorem State.args_handOn (s : State) (k : SetIdx) (e : EntryIdx) : (s.handOn k e).args = s.args := by
  unfold State.handOn
  split
  · exact State.args_announceFree _ e
  · split
    · split <;> simp
    · rfl
    · rfl
    · rfl

@[simp] theorem State.args_filterRecord (s : State) (k : SetIdx) (w : Way) (r : Record) (n : Txn) :
    (s.filterRecord k w r n).args = s.args := by
  unfold State.filterRecord
  split
  · dsimp only
    split <;> simp
  · split
    · split <;> simp
    · rfl
  · rfl
  · rfl

@[simp] theorem State.args_closeFilter (s : State) (k : SetIdx) (e : EntryIdx) : (s.closeFilter k e).args = s.args := by
  unfold State.closeFilter
  split
  · split <;> simp
  · rfl

@[simp] theorem State.args_closeEntry (s : State) (k : SetIdx) (e : EntryIdx) : (s.closeEntry k e).args = s.args := by
  simp [State.closeEntry]

@[simp] theorem State.args_closeRecall (s : State) (e : EntryIdx) (o : ResultOutcome) :
    (s.closeRecall e o).args = s.args := by
  simp [State.closeRecall]

/-! ### Grants and notices -/

@[simp] theorem State.args_grantReports (s : State) (k : SetIdx) (w : Way) (e : EntryIdx) (r : Request) (g : Grant) :
    (s.grantReports k w e r g).args = s.args := by
  unfold State.grantReports
  dsimp only
  split <;> split <;> rfl

@[simp] theorem State.args_finishGrant (s : State) (k : SetIdx) (e : EntryIdx) (r : Request) (g : Grant) :
    (s.finishGrant k e r g).args = s.args := by
  unfold State.finishGrant
  split <;> simp

@[simp] theorem State.args_grantInPlace (s : State) (k : SetIdx) (w : Way) (e : EntryIdx) (r : Request) (g : Grant) :
    (s.grantInPlace k w e r g).args = s.args := by
  simp [State.grantInPlace]

@[simp] theorem State.args_grantAbsent (s : State) (k : SetIdx) (e : EntryIdx) (r : Request) (freed : Option Way)
    (b : Bool) : (s.grantAbsent k e r freed b).args = s.args := by
  unfold State.grantAbsent
  split <;> simp

@[simp] theorem State.args_resolve (s : State) (e : EntryIdx) (r : Request) (freed : Option Way) (b : Bool) :
    (s.resolve e r freed b).args = s.args := by
  unfold State.resolve
  dsimp only
  split
  · split <;> simp
  · simp

@[simp] theorem State.args_decideRequest (s : State) (e : EntryIdx) (r : Request) (b : Bool) :
    (s.decideRequest e r b).args = s.args := by
  unfold State.decideRequest
  dsimp only
  split
  · split
    · split
      · simp
      · split <;> simp
    · rfl
  · simp

@[simp] theorem State.args_resolveHeld (s : State) (e : EntryIdx) (r : Request) (b : Bool) :
    (s.resolveHeld e r b).args = s.args := by
  unfold State.resolveHeld
  split
  · split
    · split <;> simp
    · rfl
  · simp

@[simp] theorem State.args_removeHolder (s : State) (k : SetIdx) (w : Way) (r : Record) (a : Agent) :
    (s.removeHolder k w r a).args = s.args := by
  unfold State.removeHolder
  split <;> simp

@[simp] theorem State.args_ack (s : State) (r : Request) (b : Bool) : (s.ack r b).args = s.args :=
  State.args_reply _ _ _ _

@[simp] theorem State.args_decideNotice (s : State) (r : Request) : (s.decideNotice r).args = s.args := by
  unfold State.decideNotice
  split
  · split
    · unfold State.noticeOn
      split
      · split <;> simp
      · split <;> simp
      · simp
      · simp
    · simp
  · simp

/-! ### Outcomes -/

theorem State.args_intakeOutcome (r : Request) (a : Access) : (intakeOutcome r a).args = a.s.args := by
  have hl (u : State) : (u.leaveIntake r).args = u.args := State.args_returnCredit _ _
  unfold intakeOutcome
  dsimp only
  split
  · unfold State.waitOn
    split <;> simp [hl]
  · split
    · simp [State.refuseLost, hl]
    · split
      · split
        · simp [State.beginRequest, hl]
        · rfl
      · simp [hl]

theorem State.args_resolutionOutcome (e : EntryIdx) (a : Access) : (resolutionOutcome e a).args = a.s.args := by
  unfold resolutionOutcome
  split <;> simp

theorem State.args_parkedOutcome (e : EntryIdx) (a : Access) : (parkedOutcome e a).args = a.s.args := by
  unfold parkedOutcome
  split
  · simp
  · split <;> simp

theorem State.args_closeOutcome (e : EntryIdx) (a : Access) : (closeOutcome e a).args = a.s.args := by
  unfold closeOutcome
  dsimp only
  split <;> simp

@[simp] theorem State.args_serveRecall (s : State) (e : EntryIdx) (w : Way) (old : Record) :
    (s.serveRecall e w old).args = s.args := by
  unfold State.serveRecall
  split <;> simp

theorem State.args_handedOnOutcome (e : EntryIdx) (a : Access) : (handedOnOutcome e a).args = a.s.args := by
  unfold handedOnOutcome
  split
  · unfold State.handedRecall
    split
    · split <;> simp
    · simp
  · split
    · simp
    · split <;> simp

@[simp] theorem State.args_decideClearPoison (s : State) (l : Line) : (s.decideClearPoison l).args = s.args := by
  unfold State.decideClearPoison
  split
  · split
    · unfold State.clearPoisonOn
      split
      · simp
      · simp
      · split <;> simp
      · split <;> simp
    · simp
  · simp

theorem State.args_decideWaiter (s : State) (e : EntryIdx) (i : PoolIdx) (rest : List PoolIdx) (w : Waiter) :
    (s.decideWaiter e i rest w).args = s.args := by
  unfold State.decideWaiter
  dsimp only
  split <;> simp

theorem State.args_releasingOutcome (e : EntryIdx) (a : Access) : (releasingOutcome e a).args = a.s.args := by
  unfold releasingOutcome
  dsimp only
  rw [State.args_handOn]
  split
  · split
    · split
      · exact State.args_decideWaiter _ _ _ _ _
      · rfl
    · rfl
  · rfl

@[simp] theorem State.args_takeBack (s : State) (k : SetIdx) (w : Way) (r : Record) (e : EntryIdx) :
    (s.takeBack k w r e).args = s.args := by
  unfold State.takeBack
  split <;> simp

@[simp] theorem State.args_refuseNoSlot (s : State) (k : SetIdx) (p : EntryIdx) : (s.refuseNoSlot k p).args = s.args := by
  unfold State.refuseNoSlot
  split <;> simp

@[simp] theorem State.args_beginRecall (s : State) (k : SetIdx) (w : Way) (r : Record) (p e : EntryIdx) :
    (s.beginRecall k w r p e).args = s.args :=
  (State.args_takeBack _ _ _ _ _).trans rfl

theorem State.args_recallStartOutcome (p : EntryIdx) (a : Access) : (recallStartOutcome p a).args = a.s.args := by
  unfold recallStartOutcome
  dsimp only
  split
  · simp
  · split
    · simp
    · split
      · split <;> simp
      · simp

@[simp] theorem State.args_freeVictim (s : State) (k : SetIdx) (w : Way) (e : EntryIdx) :
    (s.freeVictim k w e).args = s.args := by
  unfold State.freeVictim
  split <;> simp

@[simp] theorem State.args_withhold (s : State) (e : EntryIdx) : (s.withhold e).args = s.args := by
  unfold State.withhold
  split <;> simp

@[simp] theorem State.args_poisonLost (s : State) (k : SetIdx) (w : Way) (r : Record) (o : Agent) (e : EntryIdx) :
    (s.poisonLost k w r o e).args = s.args := rfl

theorem State.args_recallOutcome (e : EntryIdx) (a : Access) : (recallOutcome e a).args = a.s.args := by
  unfold recallOutcome
  dsimp only
  split
  · unfold State.resolveRecall
    split
    · simp
    · split <;> simp
  · simp

@[simp] theorem State.args_retireFree (s : State) (k : SetIdx) (w : Way) : (s.retireFree k w).1.args = s.args := by
  unfold State.retireFree
  split <;> rfl

@[simp] theorem State.args_joinRetireList (s : State) (k : SetIdx) (w : Way) (st : RetireStatus) :
    (s.joinRetireList k w st).args = s.args := by
  unfold State.joinRetireList
  split <;> rfl

@[simp] theorem State.args_moveRecord (s : State) (k : SetIdx) (w v : Way) : (s.moveRecord k w v).args = s.args := by
  unfold State.moveRecord
  dsimp only
  split <;> rfl

@[simp] theorem State.args_moveOrWait (s : State) (k : SetIdx) (w : Way) : (s.moveOrWait k w).args = s.args := by
  unfold State.moveOrWait
  split <;> simp

theorem State.args_retireStartOutcome (k : SetIdx) (w : Way) (a : Access) :
    (retireStartOutcome k w a).args = a.s.args := by
  unfold retireStartOutcome
  dsimp only
  split
  · rfl
  · split
    · rfl
    · split
      · simp
      · unfold State.retireRecord
        split
        · simp
        · split
          · split
            · simp [State.beginStart]
            · rfl
          · simp

@[simp] theorem State.args_withdrawFreed (s : State) (k : SetIdx) (w : Way) : (s.withdrawFreed k w).args = s.args := by
  simp [State.withdrawFreed]

theorem State.args_retireOutcome (e : EntryIdx) (a : Access) : (retireOutcome e a).args = a.s.args := by
  unfold retireOutcome
  dsimp only
  split
  · unfold State.resolveRetire
    split
    · simp
    · split <;> simp
  · simp

theorem State.args_repairStartOutcome (k : SetIdx) (t : Tag) (a : Access) :
    (repairStartOutcome k t a).args = a.s.args := by
  unfold repairStartOutcome
  dsimp only
  split
  · rfl
  · split
    · simp [State.beginStart]
    · rfl
    · rfl
    · rfl

@[simp] theorem State.args_repairReport (s : State) (k : SetIdx) (w : Way) (r : Record) (e : EntryIdx) :
    (s.repairReport k w r e).args = s.args := rfl

@[simp] theorem State.args_repairToPoison (s : State) (k : SetIdx) (w : Way) (r : Record) (e : EntryIdx) :
    (s.repairToPoison k w r e).args = s.args := rfl

@[simp] theorem State.args_endDamage (s : State) (k : SetIdx) (w : Way) : (s.endDamage k w).args = s.args := by
  unfold State.endDamage
  split <;> rfl

@[simp] theorem State.args_resolveRepair (s : State) (k : SetIdx) (w : Way) (r : Record) (e : EntryIdx) :
    (s.resolveRepair k w r e).args = s.args := by
  unfold State.resolveRepair
  dsimp only
  split
  · unfold State.repairKeep
    dsimp only
    split <;> simp
  · split
    · unfold State.repairBad
      dsimp only
      split
      · split <;> simp
      all_goals simp
    · unfold State.repairGood
      dsimp only
      split
      · split <;> simp
      all_goals simp

theorem State.args_repairOutcome (e : EntryIdx) (a : Access) : (repairOutcome e a).args = a.s.args := by
  unfold repairOutcome
  dsimp only
  split
  · split <;> simp
  · simp

theorem State.args_purgeOutcome (k : SetIdx) (a : Access) : (purgeOutcome k a).args = a.s.args := by
  have record (s : State) (w : Way) (r : Record) : (s.purgeRecord k w r).args = s.args := by
    unfold State.purgeRecord
    split
    · dsimp only
      split
      · rfl
      · split <;> simp
    · split
      · split <;> simp
      · rfl
    · rfl
    · rfl
  have slot (s : State) (w : Way) : (State.purgeSlot k s w).args = s.args := by
    unfold State.purgeSlot
    dsimp only
    split
    · split
      · exact record _ _ _
      · rfl
    · rfl
  have on (s : State) (p : Agent) : (s.purgeEnd p).args = s.args := by
    unfold State.purgeEnd
    split <;> rfl
  have purged (s : State) : s.purgeOn.args = s.args := State.args_foldl _ on _ _
  exact (purged _).trans (State.args_foldl _ slot allWays a.s)

theorem State.args_beginRetract (s : State) (k : SetIdx) (w : Way) (r : Record) (p : Agent) (e : EntryIdx) :
    (s.beginRetract k w r p e).args = s.args := by
  unfold State.beginRetract
  dsimp only
  split
  · rw [State.args_startRepair, State.args_bind]
    rfl
  · rw [State.args_startRound, State.args_bind]
    rfl

theorem State.args_leaveOutcome (k : SetIdx) (p : Agent) (a : Access) : (leaveOutcome k p a).args = a.s.args := by
  unfold leaveOutcome
  dsimp only
  split
  · split
    · split
      · exact State.args_beginRetract _ _ _ _ _ _
      · simp
    · simp
    · rfl
  · split <;> simp

@[simp] theorem State.args_retractFrom (s : State) (k : SetIdx) (w : Way) (r : Record) (p : Agent) :
    (s.retractFrom k w r p).args = s.args := by
  unfold State.retractFrom
  split
  · split <;> simp
  · split <;> simp
  · rfl
  · rfl

theorem State.args_retractOutcome (e : EntryIdx) (a : Access) : (retractOutcome e a).args = a.s.args := by
  unfold retractOutcome
  dsimp only
  split
  · unfold State.resolveRetract
    split
    · simp
    · split <;> simp
  · simp
  · simp

@[simp] theorem State.args_serviceWaits (s : State) (e : EntryIdx) (w : Waiter) : (s.serviceWaits e w).args = s.args := by
  unfold State.serviceWaits
  split <;> rfl

@[simp] theorem State.args_serviceMiss (s : State) (l : Line) : (s.serviceMiss l).args = s.args := by
  unfold State.serviceMiss
  split <;> rfl

theorem State.args_recallLineOutcome (a : Access) : (recallLineOutcome a).args = a.s.args := by
  unfold recallLineOutcome
  dsimp only
  split
  · simp
  · split
    · simp
    · split
      · split
        · simp
        · unfold State.beginService
          split
          · rw [State.args_serveRecall]; rfl
          · rfl
      · rfl

theorem State.args_serviceOutcome (e : EntryIdx) (a : Access) : (serviceOutcome e a).args = a.s.args := by
  unfold serviceOutcome
  dsimp only
  split
  · split
    · unfold State.resolveService
      split
      · simp
      all_goals
        split
        · simp
        · split <;> simp
    · rfl
  · simp

theorem State.args_clearPoisonOutcome (a : Access) : (clearPoisonOutcome a).args = a.s.args := by
  unfold clearPoisonOutcome
  dsimp only
  split
  · simp
  · split <;> simp

theorem State.args_clearSetOutcome (a : Access) : (clearSetOutcome a).args = a.s.args := by
  unfold clearSetOutcome
  dsimp only
  split
  · rfl
  · split <;> rfl

theorem State.args_lookupOutcome (a : Access) : (lookupOutcome a).args = a.s.args := by
  unfold lookupOutcome
  split <;> rfl

/-- The claimant's outcome of any access keeps the argument registers. -/
theorem State.args_dueOutcome (s : State) (d : Due) (a : Access) : (s.dueOutcome d a).args = a.s.args := by
  cases d with
  | intake r => exact State.args_intakeOutcome r a
  | resolution e => exact State.args_resolutionOutcome e a
  | parked e => exact State.args_parkedOutcome e a
  | close e => exact State.args_closeOutcome e a
  | handedOn e => exact State.args_handedOnOutcome e a
  | releasing e => exact State.args_releasingOutcome e a
  | serviceResolution e => exact State.args_serviceOutcome e a
  | retractResolution e => exact State.args_retractOutcome e a
  | repairResolution e => exact State.args_repairOutcome e a
  | recallResolution e => exact State.args_recallOutcome e a
  | retireResolution e => exact State.args_retireOutcome e a
  | recallStart e => exact State.args_recallStartOutcome e a
  | retireStart k w => exact State.args_retireStartOutcome k w a
  | repairStart k t => exact State.args_repairStartOutcome k t a
  | purge => exact State.args_purgeOutcome _ a
  | leave p => exact State.args_leaveOutcome _ p a
  | scrub => rfl
  | service code =>
    unfold State.dueOutcome
    dsimp only
    split
    · exact State.args_lookupOutcome a
    · split
      · exact State.args_recallLineOutcome a
      · split
        · exact State.args_clearPoisonOutcome a
        · split
          · exact State.args_clearSetOutcome a
          · rfl

/-! ### The end of an access -/

theorem State.args_foldl_fst {α β : Type} (g : State × β → α → State × β) (h : ∀ x a, (g x a).1.args = x.1.args)
    (l : List α) (x : State × β) : (l.foldl g x).1.args = x.1.args := by
  induction l generalizing x with
  | nil => rfl
  | cons a l ih => exact (ih _).trans (h x a)

theorem State.args_judgeSlot (k : SetIdx) (x : State × List Way) (w : Way) :
    (State.judgeSlot k x w).1.args = x.1.args := by
  unfold State.judgeSlot
  dsimp only
  split
  · rfl
  · split
    · rfl
    · split
      · simp
      · split
        · simp
        · split
          · rfl
          · split <;> simp

theorem State.args_examineSlot (k : SetIdx) (x : State × List Way) (w : Way) :
    (State.examineSlot k x w).1.args = x.1.args := by
  have leave (u : State) : (u.leaveRetireList k w).args = u.args := rfl
  unfold State.examineSlot
  dsimp only
  split
  · rfl
  · split
    · rfl
    · split
      · simp [leave]
      · split
        · rfl
        · split
          · rfl
          · split
            · simp [leave]
            · split <;> rfl

theorem State.args_endOfAccess (s : State) (k : SetIdx) (judge : List Way) : (s.endOfAccess k judge).args = s.args := by
  unfold State.endOfAccess
  dsimp only
  refine (State.args_foldl _ (fun u w => ?_) _ _).trans ?_
  · unfold State.dropQueued
    split <;> rfl
  · rw [State.args_queueStarts]
    exact (State.args_foldl_fst _ (State.args_examineSlot k) _ _).trans
      (State.args_foldl_fst _ (State.args_judgeSlot k) _ _)

theorem State.args_access (s : State) (k : SetIdx) (f : List CellFault) (outcome : Access → State)
    (h : ∀ a, (outcome a).args = a.s.args) : (s.access k f outcome).args = s.args := by
  have hb : (s.beginAccess k f).s.args = s.args := State.args_congr (SameOutside.beginAccess s k f).svc
  unfold State.access
  dsimp only
  split
  · exact (State.args_endOfAccess _ _ _).trans ((h _).trans hb)
  · exact (h _).trans hb

theorem State.args_takeReports (s : State) : s.takeReports.args = s.args := by
  unfold State.takeReports
  dsimp only
  split
  · unfold State.enterHalted State.haltCommand
    split <;> rfl
  · rfl

theorem State.args_finish (s : State) : s.finish.args = s.args :=
  (State.args_takeReports _).trans (State.args_congr (Settles.settle s).svc)

/-- No access writes the argument registers. -/
theorem State.args_accessed (s : State) (d : Due) (f : List CellFault) : (s.accessed d f).args = s.args := by
  have ha : (s.takeClaim.access (s.dueSet d) f (s.dueOutcome d)).args = s.args :=
    (State.args_access _ _ _ _ (State.args_dueOutcome s d)).trans (State.args_congr (SameOutside.takeClaim s).svc)
  unfold State.accessed
  rw [State.args_finish]
  generalize s.takeClaim.access (s.dueSet d) f (s.dueOutcome d) = u at ha
  rw [← ha]
  unfold State.dueAfter
  split
  · split
    · rfl
    · split <;> rfl
  · unfold State.scrubOn
    dsimp only
    split <;> rfl
  · rfl

end Sys2Proof.Machine
end

section
/-! PROOF. The frame of an access (R11), the law of records (O55), and the settings and outputs (O58). -/

namespace Sys2Proof.Machine

/-! ### What an access leaves alone -/

/-- The fields of a port that no access changes. -/
structure PortFrame (x y : Port) : Prop where
  enable : y.enable = x.enable
  link : y.link = x.link
  req : y.reqCredits = x.reqCredits
  discards : y.discards = x.discards

theorem PortFrame.refl (x : Port) : PortFrame x x := ⟨rfl, rfl, rfl, rfl⟩

theorem PortFrame.trans {x y z : Port} (h : PortFrame x y) (g : PortFrame y z) : PortFrame x z :=
  ⟨g.enable.trans h.enable, g.link.trans h.link, g.req.trans h.req, g.discards.trans h.discards⟩

/-- `t` comes from `s` by writes to set `k` that keep the law of records, with the settings, the error reporting unit and
the ports' configuration as they were. -/
structure Frames (k : SetIdx) (s t : State) : Prop where
  part : t.part = s.part
  cfg : t.cfg = s.cfg
  err : t.err = s.err
  ports : ∀ p, PortFrame (s.port p) (t.port p)
  other : ∀ j : Nat, j ≠ k.toNat → t.dir.find j = s.dir.find j
  law : s.lawful → t.lawful

theorem Frames.trans {k : SetIdx} {s t u : State} (h : Frames k s t) (g : Frames k t u) : Frames k s u :=
  ⟨g.part.trans h.part, g.cfg.trans h.cfg, g.err.trans h.err, fun p => (h.ports p).trans (g.ports p),
    fun j hj => (g.other j hj).trans (h.other j hj), fun l => g.law (h.law l)⟩

theorem Frames.of_keeps {k : SetIdx} {s t : State} (h : Keeps k s t) : Frames k s t :=
  ⟨h.part, h.cfg, h.err, fun p => ⟨(h.ports p).enable, (h.ports p).link, (h.ports p).req, (h.ports p).discards⟩,
    h.other, h.law⟩

/-- A change outside the array, the settings, the error reporting unit and the ports. -/
theorem Frames.of_eq {k : SetIdx} {s t : State} (h : (t.part, t.cfg, t.err, t.ports, t.dir)
    = (s.part, s.cfg, s.err, s.ports, s.dir)) : Frames k s t := by
  simp only [Prod.mk.injEq] at h
  obtain ⟨hpart, hcfg, herr, hports, hdir⟩ := h
  refine ⟨hpart, hcfg, herr, fun p => ?_, fun j _ => by rw [hdir], (State.lawful_congr hdir).2⟩
  unfold State.port
  rw [hports]
  exact .refl _

theorem Frames.updPort {k : SetIdx} (s : State) (p : Agent) (f : Port → Port) (h : PortFrame (s.port p) (f (s.port p))) :
    Frames k s (s.updPort p f) := by
  refine ⟨rfl, rfl, rfl, fun q => ?_, fun _ _ => rfl, id⟩
  rw [State.port_updPort]
  split
  · next hq => rw [hq]; exact h
  · exact .refl _

theorem Frames.foldl {α : Type} {k : SetIdx} (g : State → α → State) (h : ∀ s a, Frames k s (g s a)) (l : List α)
    (s : State) : Frames k s (l.foldl g s) := by
  induction l generalizing s with
  | nil => exact .of_eq rfl
  | cons a l ih => exact (h s a).trans (ih _)

theorem Frames.leaveIntake {k : SetIdx} (s : State) (r : Request) : Frames k s (s.leaveIntake r) := by
  refine .trans (.of_eq (t := { s with intake := s.intake.tail }) rfl) ?_
  refine .trans (.updPort _ r.port (fun q => { q with credits := q.credits + 1 }) ⟨rfl, rfl, rfl, rfl⟩) ?_
  exact .of_keeps (.send _ _ _)

theorem Frames.intakeOutcome (r : Request) (a : Access) : Frames (setOf r.line) a.s (intakeOutcome r a) := by
  have hl := Frames.leaveIntake (k := setOf r.line) a.s r
  unfold Machine.intakeOutcome
  dsimp only
  split
  · exact hl.trans (.of_keeps (.waitOn _ r _))
  · split
    · exact hl.trans (.of_keeps (.refuseLost _ r))
    · split
      · split
        · exact hl.trans (.of_keeps (.beginRequest _ r _ rfl))
        · exact .of_eq rfl
      · exact hl.trans (.of_keeps (.decideNotice _ r rfl))

theorem Frames.purgeOn {k : SetIdx} (s : State) : Frames k s s.purgeOn := by
  refine .trans (.of_eq (t := { s with purge := { s.purge with pos := s.purge.pos + 1 } }) rfl) (.foldl _ ?_ _ _)
  intro u p
  unfold State.purgeEnd
  split
  · exact .trans (.of_eq (t := { u with purge := { u.purge with starts := u.purge.starts.set p.val none } }) rfl)
      (.updPort _ p _ ⟨rfl, rfl, rfl, rfl⟩)
  · exact .of_eq rfl

/-- The claimant's outcome of any access works on the access's set alone. -/
theorem Frames.dueOutcome (s : State) (d : Due) (f : List CellFault) :
    Frames (s.dueSet d) (s.checked (s.dueSet d) f) (s.dueOutcome d (s.takeClaim.beginAccess (s.dueSet d) f)) := by
  have line (k : SetIdx) (e : EntryIdx) (h : setOf (s.lineOfEntry e) = k) :
      setOf ((s.checked k f).lineOfEntry e) = k := by rw [State.checked_lineOfEntry]; exact h
  have svc (k : SetIdx) : (s.checked k f).svc = s.svc := State.checked_svc s k f
  cases d with
  | intake r => exact .intakeOutcome r _
  | resolution e => exact .of_keeps (.resolutionOutcome e _ (line _ e rfl))
  | parked e => exact .of_keeps (.parkedOutcome e _ (line _ e rfl))
  | close e => exact .of_keeps (.closeOutcome e _ (line _ e rfl))
  | handedOn e => exact .of_keeps (.handedOnOutcome e _ (line _ e rfl))
  | releasing e => exact .of_keeps (.releasingOutcome e _ (line _ e rfl))
  | serviceResolution e => exact .of_keeps (.serviceOutcome e _ (line _ e rfl))
  | retractResolution e => exact .of_keeps (.retractOutcome e _ (line _ e rfl))
  | repairResolution e => exact .of_keeps (.repairOutcome e _ (line _ e rfl))
  | recallResolution e => exact .of_keeps (.recallOutcome e _ (line _ e rfl))
  | retireResolution e => exact .of_keeps (.retireOutcome e _ (line _ e rfl))
  | recallStart e => exact .of_keeps (.recallStartOutcome e _ (line _ e rfl))
  | retireStart k w => exact .of_keeps (.retireStartOutcome w _)
  | repairStart k t => exact .of_keeps (.repairStartOutcome t _)
  | purge => exact (Frames.of_keeps (.purgeSlots _)).trans (.purgeOn _)
  | leave p => exact .of_keeps (.leaveOutcome p _)
  | scrub => exact .of_eq rfl
  | service code =>
    by_cases h2 : code = 2
    · subst h2
      exact .of_keeps (.lookupOutcome _)
    by_cases h3 : code = 3
    · subst h3
      exact .of_keeps (.recallLineOutcome _ (congrArg (fun v => setOf v.lineArg) (svc _)))
    by_cases h4 : code = 4
    · subst h4
      exact .of_keeps (.clearPoisonOutcome _ (congrArg (fun v => setOf v.lineArg) (svc _)))
    by_cases h7 : code = 7
    · subst h7
      exact .of_keeps (.clearSetOutcome _ (congrArg ServicePort.setArg (svc _)))
    · have ho : s.dueOutcome (.service code) = fun a => a.s := by
        unfold State.dueOutcome
        simp only [if_neg h2, if_neg h3, if_neg h4, if_neg h7]
      rw [ho]
      exact .of_eq rfl

/-- The access on the array, from the claim to the end of the access. -/
theorem Frames.access (s : State) (d : Due) (f : List CellFault) :
    Frames (s.dueSet d) s (s.takeClaim.access (s.dueSet d) f (s.dueOutcome d)) := by
  obtain ⟨c, hc⟩ := s.takeClaim_cases
  have ht : Frames (s.dueSet d) s s.takeClaim := by rw [hc]; exact .of_eq rfl
  exact ht.trans (access_rel (Frames (s.dueSet d)) (fun _ _ => .of_keeps) (fun _ _ _ => .trans) _ f _
    (Frames.dueOutcome s d f))

theorem DirSet.decay_empty : DirSet.empty.decay = DirSet.empty := by decide

/-- A completed pass changes health counts alone. -/
theorem State.lawful_passDone (s : State) (h : s.lawful) : s.passDone.lawful := by
  refine ⟨Directory.wf_mapSets _ _ h.1, fun j => ?_⟩
  show ((s.dir.mapSets DirSet.decay).find j).lawful
  rw [Directory.find_mapSets _ DirSet.decay_empty _ h.1]
  exact DirSet.lawful_decay (h.2 j)

/-- What an access leaves of the part (R11), `t` being the state at its end. -/
structure AccessFrame (s : State) (d : Due) (t : State) : Prop where
  cfg : t.cfg = s.cfg
  ports : ∀ p, PortFrame (s.port p) (t.port p)
  masks : t.err.masks = s.err.masks
  routings : t.err.routings = s.err.routings
  other : ∀ j : SetIdx, j ≠ s.dueSet d → ¬ (d = .scrub ∧ s.integ.scrubPos.toNat = 2047) → t.dirSet j = s.dirSet j
  law : s.lawful → t.lawful
  args : t.args = s.args
  outputs : t.outputsLawful

theorem ErrorUnit.absorb_config (u : ErrorUnit) (r : Report) :
    (u.absorb r).masks = u.masks ∧ (u.absorb r).routings = u.routings := by
  unfold ErrorUnit.absorb
  dsimp only
  split
  · exact ⟨rfl, rfl⟩
  · unfold ErrorUnit.setCapture
    split <;> exact ⟨rfl, rfl⟩

theorem ErrorUnit.foldl_absorb_config (l : List Report) (u : ErrorUnit) :
    (l.foldl ErrorUnit.absorb u).masks = u.masks ∧ (l.foldl ErrorUnit.absorb u).routings = u.routings := by
  induction l generalizing u with
  | nil => exact ⟨rfl, rfl⟩
  | cons r l ih =>
    have h := u.absorb_config r
    exact ⟨(ih _).1.trans h.1, (ih _).2.trans h.2⟩

/-- The end of an event writes no mask and no routing. -/
theorem State.config_finish (s : State) : s.finish.err.masks = s.err.masks ∧ s.finish.err.routings = s.err.routings := by
  have h := ErrorUnit.foldl_absorb_config s.settle.reports s.settle.err
  rw [(Settles.settle s).err] at h
  have halted (u : State) (k : ErrKind) : (u.enterHalted k).err = { u.err with haltKind := some k } := by
    unfold State.enterHalted State.haltCommand
    split <;> rfl
  unfold State.finish State.takeReports
  dsimp only
  rw [(Settles.settle s).err]
  split
  · show ((State.enterHalted _ _).err.masks = _ ∧ (State.enterHalted _ _).err.routings = _)
    rw [halted]
    exact h
  · exact h

/-- The part that follows the access on the array: a completed scrub pass alone changes sets. -/
theorem Frames.dueAfter (s : State) (d : Due) (u : State) :
    (s.dueAfter d u).cfg = u.cfg ∧ (s.dueAfter d u).ports = u.ports ∧ (s.dueAfter d u).err = u.err
      ∧ (u.lawful → (s.dueAfter d u).lawful)
      ∧ (¬ (d = .scrub ∧ s.integ.scrubPos.toNat = 2047) → (s.dueAfter d u).dir = u.dir) := by
  unfold State.dueAfter
  split
  · split
    · exact ⟨rfl, rfl, rfl, id, fun _ => rfl⟩
    · split <;> exact ⟨rfl, rfl, rfl, id, fun _ => rfl⟩
  · unfold State.scrubOn
    dsimp only
    split
    · next hk => exact ⟨rfl, rfl, rfl, fun l => State.lawful_passDone _ l, fun hn => absurd ⟨rfl, hk⟩ hn⟩
    · exact ⟨rfl, rfl, rfl, id, fun _ => rfl⟩
  · exact ⟨rfl, rfl, rfl, id, fun _ => rfl⟩

theorem AccessFrame.accessed (s : State) (d : Due) (f : List CellFault) : AccessFrame s d (s.accessed d f) := by
  have ha := Frames.access s d f
  have hargs := State.args_accessed s d f
  unfold State.accessed at hargs ⊢
  generalize s.takeClaim.access (s.dueSet d) f (s.dueOutcome d) = u at ha hargs
  obtain ⟨hcfg, hports, herr, hlaw, hdir⟩ := Frames.dueAfter s d u
  generalize s.dueAfter d u = v at hcfg hports herr hlaw hdir hargs
  have hf := Finishes.finish v
  have hc := State.config_finish v
  refine ⟨hf.cfg.trans (hcfg.trans ha.cfg), fun p => ?_, ?_, ?_, fun j hj hn => ?_, fun l => ?_, hargs, hf.outputs⟩
  · have hv : v.port p = u.port p := by unfold State.port; rw [hports]
    have hp := hf.ports p
    rw [hv] at hp
    exact (ha.ports p).trans ⟨hp.enable, hp.link, hp.req, hp.discards⟩
  · rw [hc.1, herr, ha.err]
  · rw [hc.2, herr, ha.err]
  · show v.finish.dir.find _ = _
    rw [hf.dir, hdir hn]
    exact ha.other _ fun he => hj (BitVec.eq_of_toNat_eq he)
  · exact (State.lawful_congr hf.dir).2 (hlaw (ha.law l))

/-! ### The law of records -/

theorem State.lawful_walk (s : State) (k : SetIdx) (h : s.lawful) :
    ((s.clearOutputs.clearSet k).walkOn k).finish.lawful := by
  have hc : (s.clearOutputs.clearSet k).lawful :=
    (State.lawful_congr rfl).2 ((Keeps.updSet (k := k) s DirSet.clear fun _ _ => DirSet.lawful_clear _).law h)
  have hw : ((s.clearOutputs.clearSet k).walkOn k).dir = (s.clearOutputs.clearSet k).dir := by
    unfold State.walkOn
    split
    · exact (Ambient.foldl _ (fun u p => Ambient.trainUp u p) allAgents
        { s.clearOutputs.clearSet k with part := .run, walk := none }).dir
    · rfl
  exact (State.lawful_congr ((Finishes.finish _).dir.trans hw)).2 hc

/-- Settles O55: an event writes records by the operations of `Keeps` alone, or the sets of the walk and of power-on, which
hold none. -/
theorem stepKeepsRecordLaw : Obligations.StepKeepsRecordLaw := by
  intro s t hs ht
  obtain ⟨s', he, h⟩ := Event.of_step ht
  have hl : s'.lawful := (State.lawful_congr (Ambient.of_eq he).dir).2 hs
  cases h with
  | configures h => exact (State.lawful_congr h.dir).2 hl
  | powerOn => exact State.lawful_reset
  | powerOff => exact State.lawful_reset
  | resetFall => exact hl
  | resetRise h => exact (State.lawful_congr h.dir).2 hl
  | walk h => exact State.lawful_walk s' _ hl
  | access hc hd => exact (AccessFrame.accessed s' _ _).law hl

/-! ### Settings and outputs -/

/-- Every setting in its range, and the REQ_CREDITS values in theirs (R111, R179). -/
structure State.Configured (s : State) : Prop where
  legal : s.cfg.legal = true
  credits : s.creditTotal ≤ 48
  range : ∀ p, 1 ≤ (s.port p).reqCredits ∧ (s.port p).reqCredits ≤ 8

theorem State.Configured.congr {s t : State} (hc : t.cfg = s.cfg)
    (hr : ∀ p, (t.port p).reqCredits = (s.port p).reqCredits) (h : s.Configured) : t.Configured :=
  ⟨hc ▸ h.legal, State.creditTotal_congr hr ▸ h.credits, fun p => by rw [hr p]; exact h.range p⟩

theorem State.configured_reset : State.reset.Configured := by
  refine ⟨by decide, by decide, fun p => ?_⟩
  rw [State.port_reset]
  exact ⟨by decide, by decide⟩

/-- The clearing walk is ambient but for the array and the part state. -/
theorem State.config_walk (s : State) (k : SetIdx) :
    ((s.clearOutputs.clearSet k).walkOn k).finish.cfg = s.cfg
      ∧ ∀ p, (((s.clearOutputs.clearSet k).walkOn k).finish.port p).reqCredits = (s.port p).reqCredits := by
  have hf := Finishes.finish ((s.clearOutputs.clearSet k).walkOn k)
  have hw : ((s.clearOutputs.clearSet k).walkOn k).cfg = s.cfg
      ∧ ∀ p, (((s.clearOutputs.clearSet k).walkOn k).port p).reqCredits = (s.port p).reqCredits := by
    unfold State.walkOn
    split
    · have h := Ambient.foldl _ (fun u p => Ambient.trainUp u p) allAgents
        { s.clearOutputs.clearSet k with part := .run, walk := none }
      exact ⟨h.cfg, h.req⟩
    · exact ⟨rfl, fun _ => rfl⟩
  exact ⟨hf.cfg.trans hw.1, fun p => (hf.ports p).req.trans (hw.2 p)⟩

theorem Event.configured {s t : State} (h : Event s t) (hs : s.Configured) : t.Configured := by
  cases h with
  | configures h => exact ⟨h.legal hs.legal, h.credits hs.credits, h.range hs.range⟩
  | powerOn => exact .congr (s := State.reset) rfl (fun _ => rfl) State.configured_reset
  | powerOff => exact .congr (s := State.reset) rfl (fun _ => rfl) State.configured_reset
  | resetFall =>
    refine .congr (s := s) rfl (fun p => ?_) hs
    show ((mapVec Port.warmReset s.ports).get p).reqCredits = _
    rw [get_mapVec]
    rfl
  | resetRise h => exact .congr (s := s) h.cfg h.req hs
  | walk h => exact hs.congr (State.config_walk s _).1 (State.config_walk s _).2
  | access hc hd =>
    have h := AccessFrame.accessed s
    exact hs.congr (h _ _).cfg fun p => ((h _ _).ports p).req

theorem Event.outputsLawful {s t : State} (h : Event s t) (hs : s.outputsLawful) : t.outputsLawful := by
  cases h with
  | configures h => exact h.outputs hs
  | powerOn => exact State.outputsLawful_reset
  | powerOff => exact State.outputsLawful_reset
  | resetFall => exact State.outputsLawful_evalOutputs _
  | resetRise h => exact h.outputs hs
  | walk h => exact State.outputsLawful_finish _
  | access hc hd => exact State.outputsLawful_finish _

/-- Settles O58: a WRITE checks the range of what it writes, and every event ends with the outputs evaluated. -/
theorem stepKeepsSettingsAndOutputs : Obligations.StepKeepsSettingsAndOutputs := by
  constructor
  · intro s t hl hc hr ht
    obtain ⟨s', he, h⟩ := Event.of_step ht
    have ha := Ambient.of_eq he
    have g := h.configured (State.Configured.congr ha.cfg ha.req ⟨hl, hc, hr⟩)
    exact ⟨g.legal, g.credits, g.range⟩
  · intro s t ho ht
    obtain ⟨s', he, h⟩ := Event.of_step ht
    exact h.outputsLawful ((Ambient.of_eq he).outputs ho)

end Sys2Proof.Machine
end

section
/-! PROOF. Lines, sets and slots: the split of a line number, and the slots and the recency order after each operation on a
set. -/

namespace Sys2Proof.Machine

/-! ### Lines (R1) -/

/-- The bits of a line: the low ones mix set index and tag, the high ones are the tag's (R1). -/
theorem lineOf_bit (k : SetIdx) (t : Tag) (i : Nat) : (lineOf k t).getLsbD i =
    if i < 11 then (k.getLsbD i ^^ t.getLsbD i) else t.getLsbD (i - 11) := by
  refine (BitVec.getLsbD_append (x := t) (y := k ^^^ t.extractLsb' 0 11)).trans ?_
  by_cases h : i < 11 <;> simp [h]

theorem setOf_bit (l : Line) {i : Nat} (h : i < 11) : (setOf l).getLsbD i = (l.getLsbD i ^^ l.getLsbD (11 + i)) := by
  simp only [setOf, BitVec.getLsbD_xor, BitVec.getLsbD_extractLsb', h, decide_true, Bool.true_and, Nat.zero_add]

theorem tagOf_bit (l : Line) {i : Nat} (h : i < 27) : (tagOf l).getLsbD i = l.getLsbD (11 + i) := by
  simp only [tagOf, BitVec.getLsbD_extractLsb', h, decide_true, Bool.true_and]

theorem setOf_lineOf (k : SetIdx) (t : Tag) : setOf (lineOf k t) = k := by
  refine BitVec.eq_of_getLsbD_eq fun i hi => ?_
  have hn : ¬ 11 + i < 11 := by omega
  rw [setOf_bit _ hi, lineOf_bit, lineOf_bit, if_pos hi, if_neg hn, Nat.add_sub_cancel_left, Bool.xor_assoc,
    Bool.xor_self, Bool.xor_false]

theorem tagOf_lineOf (k : SetIdx) (t : Tag) : tagOf (lineOf k t) = t := by
  refine BitVec.eq_of_getLsbD_eq fun i hi => ?_
  have hn : ¬ 11 + i < 11 := by omega
  rw [tagOf_bit _ hi, lineOf_bit, if_neg hn, Nat.add_sub_cancel_left]

theorem lineOf_setOf_tagOf (l : Line) : lineOf (setOf l) (tagOf l) = l := by
  refine BitVec.eq_of_getLsbD_eq fun i hi => ?_
  rw [lineOf_bit]
  split
  · next h => rw [setOf_bit _ h, tagOf_bit _ (by omega), Bool.xor_assoc, Bool.xor_self, Bool.xor_false]
  · next h => rw [tagOf_bit _ (by omega), Nat.add_sub_cancel' (by omega)]

/-! ### Finding a record -/

/-- A hit is a record with the tag sought (R12). -/
theorem DirSet.findTag_some {d : DirSet} {t : Tag} {w : Way} (h : d.findTag t = some w) :
    ∃ r, d.record w = some r ∧ r.tag = t := by
  have hh := List.find?_some h
  unfold Slot.holdsTag at hh
  split at hh
  · next r hr => exact ⟨r, hr, of_decide_eq_true hh⟩
  · cases hh

/-- A miss means that no record has the tag. -/
theorem DirSet.findTag_none {d : DirSet} {t : Tag} (h : d.findTag t = none) {w : Way} {r : Record}
    (hr : d.record w = some r) : r.tag ≠ t := by
  intro ht
  have hn := List.find?_eq_none.1 h w (List.mem_finRange w)
  have hc : (d.slot w).content = some r := hr
  exact hn (by unfold Slot.holdsTag; rw [hc]; exact decide_eq_true ht)

/-- The one record with a tag is found. -/
theorem DirSet.findTag_of_record {d : DirSet} {t : Tag} {w : Way} {r : Record} (hr : d.record w = some r) (ht : r.tag = t)
    (hu : ∀ v q, d.record v = some q → q.tag = t → v = w) : d.findTag t = some w := by
  rcases h : d.findTag t with _ | v
  · exact absurd ht (DirSet.findTag_none h hr)
  · obtain ⟨q, hq, hqt⟩ := DirSet.findTag_some h
    rw [hu v q hq hqt]

theorem State.findLine_some {s : State} {l : Line} {w : Way} (h : s.findLine l = some w) :
    ∃ r, s.recordAt (setOf l) w = some r ∧ r.tag = tagOf l := DirSet.findTag_some h

/-! ### Choosing a slot -/

/-- The slot that an allocation takes is free: a reserved or usable one, or the one just freed (R14). -/
theorem DirSet.record_allocWay {d : DirSet} {e : EntryIdx} {freed : Option Way} {w : Way}
    (h : d.allocWay e freed = some w) (hf : ∀ v, freed = some v → d.record v = none) : d.record w = none := by
  have usable {v : Way} (hv : (d.slot v).usableFor e = true) : d.record v = none := by
    unfold Slot.usableFor at hv
    simp only [Bool.and_eq_true] at hv
    exact Option.isNone_iff_eq_none.1 hv.1.1
  unfold DirSet.allocWay at h
  split at h
  · next v hv =>
    cases h
    have := List.find?_some hv
    simp only [Bool.and_eq_true] at this
    exact usable this.1
  · split at h
    · cases h
      exact hf _ rfl
    · exact usable (List.find?_some (p := fun v => (d.slot v).usableFor e) h)

/-- The slot that a move takes is free, in service and unreserved (R146). -/
theorem DirSet.moveWay_some {d : DirSet} {v : Way} (h : d.moveWay = some v) :
    d.record v = none ∧ (d.slot v).mark = .inService ∧ (d.slot v).reservation = none := by
  have hu := List.find?_some h
  unfold Slot.usable at hu
  simp only [Bool.and_eq_true, decide_eq_true_eq] at hu
  exact ⟨Option.isNone_iff_eq_none.1 hu.1.1, hu.1.2, hu.2⟩

theorem DirSet.moveTarget_some {d : DirSet} {v : Way} (h : d.moveTarget = some v) :
    d.mapHasRoom = true ∧ d.moveWay = some v := by
  unfold DirSet.moveTarget at h
  split at h
  · exact ⟨‹_›, h⟩
  · cases h

/-! ### The slots of a set after each operation -/

@[simp] theorem Slot.content_write (x : Slot) (r : Option Record) : (x.write r).content = r := rfl
@[simp] theorem Slot.bound_write (x : Slot) (r : Option Record) : (x.write r).bound = x.bound := rfl
@[simp] theorem Slot.mark_write (x : Slot) (r : Option Record) : (x.write r).mark = x.mark := rfl
@[simp] theorem Slot.health_write (x : Slot) (r : Option Record) : (x.write r).health = x.health := rfl
@[simp] theorem Slot.reservation_write (x : Slot) (r : Option Record) : (x.write r).reservation = x.reservation := rfl

theorem DirSet.slot_writeRec (d : DirSet) (w v : Way) (r : Record) :
    (d.writeRec w r).slot v = if v = w then (d.slot w).write (some r) else d.slot v := DirSet.slot_setSlot _ _ _ _

theorem DirSet.slot_freeRec (d : DirSet) (w v : Way) :
    (d.freeRec w).slot v = if v = w then { (d.slot w).write none with bound := none } else d.slot v :=
  DirSet.slot_setSlot _ _ _ _

theorem DirSet.slot_alloc (d : DirSet) (w v : Way) (r : Record) (b : Option EntryIdx) :
    (d.alloc w r b).slot v =
      if v = w then { (d.slot w).write (some r) with bound := b, reservation := none } else d.slot v :=
  DirSet.slot_setSlot _ _ _ _

theorem DirSet.slot_setBound (d : DirSet) (w v : Way) (b : Option EntryIdx) :
    (d.setBound w b).slot v = if v = w then { d.slot w with bound := b } else d.slot v := DirSet.slot_setSlot _ _ _ _

theorem DirSet.slot_setReservation (d : DirSet) (w v : Way) (b : Option EntryIdx) :
    (d.setReservation w b).slot v = if v = w then { d.slot w with reservation := b } else d.slot v :=
  DirSet.slot_setSlot _ _ _ _

theorem DirSet.slot_withdraw (d : DirSet) (w v : Way) (m : ServiceMark) :
    (d.withdraw w m).slot v = if v = w then (d.slot w).outOfService m else d.slot v := DirSet.slot_setSlot _ _ _ _

@[simp] theorem DirSet.slot_toFront (d : DirSet) (w v : Way) : (d.toFront w).slot v = d.slot v := rfl

theorem DirSet.slot_dropReservation (d : DirSet) (e : EntryIdx) (w : Way) : (d.dropReservation e).slot w =
    if (d.slot w).reservation = some e then { d.slot w with reservation := none } else d.slot w :=
  DirSet.slot_mapSlots _ _ _

theorem DirSet.slot_dropBound (d : DirSet) (e : EntryIdx) (w : Way) : (d.dropBound e).slot w =
    if (d.slot w).bound = some e then { d.slot w with bound := none } else d.slot w := DirSet.slot_mapSlots _ _ _

/-- A move takes content and bound field to the new way; the old one is RETIRED (R146). -/
theorem DirSet.slot_move (d : DirSet) {w v : Way} (u : Way) (h : v ≠ w) : (d.move w v).slot u =
    if u = w then (d.slot w).outOfService .retired
    else if u = v then { (d.slot v).write (d.slot w).content with bound := (d.slot w).bound } else d.slot u := by
  show DirSet.slot (DirSet.setSlot (DirSet.setSlot _ _ _) _ _) u = _
  rw [DirSet.slot_setSlot, DirSet.slot_setSlot, if_neg h.symm, DirSet.slot_setSlot]
  rfl

theorem DirSet.slot_clear (d : DirSet) (w : Way) : d.clear.slot w =
    { (d.slot w).write none with bound := none, reservation := none, damageMark := false } := get_mapVec _ _ _

/-! ### The slots of the state -/

theorem State.slot_updSet_same (s : State) (k : SetIdx) (f : DirSet → DirSet) (w : Way) (h : s.dir.wf = true) :
    (s.updSet k f).slot k w = (f (s.dirSet k)).slot w := by
  unfold State.slot
  rw [State.dirSet_updSet_same _ _ _ h]

theorem State.recordAt_updSet_same (s : State) (k : SetIdx) (f : DirSet → DirSet) (w : Way) (h : s.dir.wf = true) :
    (s.updSet k f).recordAt k w = (f (s.dirSet k)).record w := by
  unfold State.recordAt
  rw [State.dirSet_updSet_same _ _ _ h]

theorem State.recordAt_congr {s t : State} (h : t.dir = s.dir) (k : SetIdx) (w : Way) :
    t.recordAt k w = s.recordAt k w := by
  unfold State.recordAt State.dirSet
  rw [h]

theorem State.dirSet_congr {s t : State} (h : t.dir = s.dir) (k : SetIdx) : t.dirSet k = s.dirSet k := by
  unfold State.dirSet
  rw [h]

theorem State.slot_congr {s t : State} (h : t.dir = s.dir) (k : SetIdx) (w : Way) : t.slot k w = s.slot k w := by
  unfold State.slot
  rw [State.dirSet_congr h]

theorem State.findLine_congr {s t : State} (h : t.dir = s.dir) (l : Line) : t.findLine l = s.findLine l := by
  unfold State.findLine
  rw [State.dirSet_congr h]

/-! ### Entries that hold a line -/

/-- Entry `e` is in use and carries line `l` (R26). -/
def State.holds (s : State) (e : EntryIdx) (l : Line) : Prop :=
  (s.entry e).inUse = true ∧ (s.entry e).line = some l

theorem State.holds.line_eq {s : State} {e : EntryIdx} {l m : Line} (h : s.holds e l) (g : s.holds e m) : l = m :=
  Option.some.inj (h.2.symm.trans g.2)

theorem State.holds.lineOfEntry {s : State} {e : EntryIdx} {l : Line} (h : s.holds e l) : s.lineOfEntry e = l := by
  unfold State.lineOfEntry
  rw [h.2]
  rfl

/-- The bound entry of a line holds it. -/
theorem State.boundEntry_some {s : State} {l : Line} {e : EntryIdx} (h : s.boundEntry l = some e) : s.holds e l := by
  have hh := List.find?_some h
  simp only [Bool.and_eq_true, decide_eq_true_eq] at hh
  exact hh

/-- An unbound line is held by no entry. -/
theorem State.boundEntry_none {s : State} {l : Line} (h : s.boundEntry l = none) (e : EntryIdx) : ¬ s.holds e l := by
  intro hh
  have hn := List.find?_eq_none.1 h e (List.mem_finRange e)
  exact hn (by rw [hh.1, hh.2]; simp)

theorem State.freeEntry_some {s : State} {e : EntryIdx} (h : s.freeEntry = some e) : (s.entry e).inUse = false := by
  have hh := List.find?_some h
  simpa using hh

/-- The request of an entry is on the line that the entry carries. -/
theorem State.line_of_requestOf {s : State} {e : EntryIdx} {r : Request} (h : s.requestOf e = some r) :
    (s.entry e).line = some r.line := by
  unfold State.requestOf at h
  split at h
  · next hl => cases h; exact hl
  · cases h

end Sys2Proof.Machine
end

section
/-! PROOF. The law of links outside INIT as one predicate on sets and table, `State.Tied`, and its rule for each operation on
a set, an entry, or both (R6, R9, R12, R26). -/

namespace Sys2Proof.Machine

/-! ### A set in agreement with the table -/

/-- Set `k` agrees with a table whose entries hold the lines of `H`: its order lists its records, no two records carry one
tag, and a record is bound to the entry that holds its line. Entry `x`, if one is named, may still have to be bound: it is
being begun. -/
structure DirSet.Tied (d : DirSet) (H : EntryIdx → Line → Prop) (x : Option EntryIdx) (k : SetIdx) : Prop where
  nodup : d.recency.Nodup
  listed : ∀ w, w ∈ d.recency ↔ (d.record w).isSome = true
  tags : ∀ v w q r, d.record v = some q → d.record w = some r → q.tag = r.tag → v = w
  free : ∀ w, d.record w = none → (d.slot w).bound = none
  bound : ∀ w r e, d.record w = some r → (d.slot w).bound = some e → H e (lineOf k r.tag)
  held : ∀ w r e, d.record w = some r → H e (lineOf k r.tag) → some e ≠ x → (d.slot w).bound = some e

section
variable {d d' : DirSet} {H : EntryIdx → Line → Prop} {x : Option EntryIdx} {k : SetIdx}

/-- A record with tag `t` where the other set has one. -/
theorem DirSet.record_of_tag {w : Way} {r : Record} (h : d'.record w = some r)
    (ht : (d'.record w).map Record.tag = (d.record w).map Record.tag) : ∃ q, d.record w = some q ∧ q.tag = r.tag := by
  rw [h] at ht
  rcases hq : d.record w with _ | q
  · rw [hq] at ht; cases ht
  · rw [hq] at ht
    exact ⟨q, rfl, (Option.some.inj ht).symm⟩

/-- Tags, bound fields and listed ways are all that matters. -/
theorem DirSet.Tied.same (h : d.Tied H x k) (hn : d'.recency.Nodup) (hm : ∀ w, w ∈ d'.recency ↔ w ∈ d.recency)
    (ht : ∀ w, (d'.record w).map Record.tag = (d.record w).map Record.tag)
    (hb : ∀ w, (d'.slot w).bound = (d.slot w).bound) : d'.Tied H x k := by
  refine ⟨hn, fun w => ?_, fun v w q r hq hr he => ?_, fun w hw => ?_, fun w r e hr hbe => ?_, fun w r e hr hh hx => ?_⟩
  · rw [hm, h.listed, ← Option.isSome_map (f := Record.tag), ← ht, Option.isSome_map]
  · obtain ⟨q', hq', hqt⟩ := DirSet.record_of_tag hq (ht v)
    obtain ⟨r', hr', hrt⟩ := DirSet.record_of_tag hr (ht w)
    exact h.tags v w q' r' hq' hr' (hqt.trans (he.trans hrt.symm))
  · rw [hb]
    refine h.free w ?_
    have := ht w
    rw [hw] at this
    exact Option.map_eq_none_iff.1 this.symm
  · obtain ⟨q, hq, hqt⟩ := DirSet.record_of_tag hr (ht w)
    rw [hb] at hbe
    exact hqt ▸ h.bound w q e hq hbe
  · obtain ⟨q, hq, hqt⟩ := DirSet.record_of_tag hr (ht w)
    rw [hb]
    exact h.held w q e hq (hqt.symm ▸ hh) hx

/-- A slot written with its tag and its bound field kept. -/
theorem DirSet.Tied.setSlot (h : d.Tied H x k) (w : Way) (y : Slot)
    (ht : y.content.map Record.tag = (d.record w).map Record.tag) (hb : y.bound = (d.slot w).bound) :
    (d.setSlot w y).Tied H x k := by
  refine h.same h.nodup (fun _ => Iff.rfl) (fun v => ?_) fun v => ?_
  · unfold DirSet.record at ht ⊢
    rw [DirSet.slot_setSlot]
    split
    · next hv => rw [hv]; exact ht
    · rfl
  · rw [DirSet.slot_setSlot]
    split
    · next hv => rw [hv]; exact hb
    · rfl

theorem DirSet.Tied.mapSlots (h : d.Tied H x k) (f : Slot → Slot) (hc : ∀ y, (f y).content = y.content)
    (hb : ∀ y, (f y).bound = y.bound) : (d.mapSlots f).Tied H x k := by
  refine h.same h.nodup (fun _ => Iff.rfl) (fun v => ?_) fun v => ?_
  · unfold DirSet.record
    rw [DirSet.slot_mapSlots, hc]
  · rw [DirSet.slot_mapSlots, hb]

theorem DirSet.Tied.writeRec (h : d.Tied H x k) {w : Way} {r q : Record} (hq : d.record w = some q)
    (ht : r.tag = q.tag) : (d.writeRec w r).Tied H x k :=
  h.setSlot w _ (by rw [hq]; exact congrArg some ht) rfl

theorem DirSet.Tied.toFront (h : d.Tied H x k) {w : Way} {r : Record} (hr : d.record w = some r) :
    (d.toFront w).Tied H x k := by
  have hw : w ∈ d.recency := (h.listed w).2 (by rw [hr]; rfl)
  refine h.same ?_ (fun v => ?_) (fun _ => rfl) fun _ => rfl
  · exact List.nodup_cons.2 ⟨h.nodup.not_mem_erase, h.nodup.erase w⟩
  · show v ∈ w :: d.recency.erase w ↔ _
    rw [List.mem_cons, h.nodup.mem_erase_iff]
    constructor
    · rintro (rfl | hv)
      · exact hw
      · exact hv.2
    · intro hv
      by_cases he : v = w
      · exact .inl he
      · exact .inr ⟨he, hv⟩

/-- A slot emptied: no content, no bound field, out of the order. -/
theorem DirSet.Tied.emptied (h : d.Tied H x k) (w : Way) {y : Slot} (hc : y.content = none) (hb : y.bound = none) :
    ({ d.setSlot w y with recency := d.recency.erase w } : DirSet).Tied H x k := by
  have slot (v : Way) : ({ d.setSlot w y with recency := d.recency.erase w } : DirSet).slot v
      = if v = w then y else d.slot v := DirSet.slot_setSlot _ _ _ _
  have record (v : Way) : ({ d.setSlot w y with recency := d.recency.erase w } : DirSet).record v
      = if v = w then none else d.record v := by
    unfold DirSet.record
    rw [slot]
    split
    · exact hc
    · rfl
  have other {v : Way} {r : Record}
      (hr : ({ d.setSlot w y with recency := d.recency.erase w } : DirSet).record v = some r) :
      v ≠ w ∧ d.record v = some r := by
    rw [record] at hr
    split at hr
    · cases hr
    · exact ⟨‹_›, hr⟩
  refine ⟨h.nodup.erase w, fun v => ?_, fun u v q r hq hr he => ?_, fun v hv => ?_, fun v r e hr hbe => ?_,
    fun v r e hr hh hx => ?_⟩
  · show v ∈ d.recency.erase w ↔ _
    rw [h.nodup.mem_erase_iff, record, h.listed]
    split
    · next hv => simp [hv]
    · next hv => simp [hv]
  · exact h.tags u v q r (other hq).2 (other hr).2 he
  · rw [slot]
    rw [record] at hv
    split at hv
    · next hw => rw [if_pos hw]; exact hb
    · next hw => rw [if_neg hw]; exact h.free v hv
  · obtain ⟨hw, hr'⟩ := other hr
    rw [slot, if_neg hw] at hbe
    exact h.bound v r e hr' hbe
  · obtain ⟨hw, hr'⟩ := other hr
    rw [slot, if_neg hw]
    exact h.held v r e hr' hh hx

theorem DirSet.Tied.freeRec (h : d.Tied H x k) (w : Way) : (d.freeRec w).Tied H x k := h.emptied w rfl rfl

theorem DirSet.Tied.withdraw (h : d.Tied H x k) (w : Way) (m : ServiceMark) : (d.withdraw w m).Tied H x k :=
  h.emptied w rfl rfl

/-- A record allocated and bound to the entry that holds its line (R14). -/
theorem DirSet.Tied.alloc (h : d.Tied H x k) {w : Way} {r : Record} {e : EntryIdx} (hw : d.record w = none)
    (hh : H e (lineOf k r.tag)) (hu : ∀ i, H i (lineOf k r.tag) → i = e)
    (hn : ∀ v q, d.record v = some q → q.tag ≠ r.tag) : (d.alloc w r (some e)).Tied H x k := by
  have hout : w ∉ d.recency := fun hm => by
    have := (h.listed w).1 hm
    rw [hw] at this
    cases this
  have he : d.recency.erase w = d.recency := List.erase_of_not_mem hout
  have record (v : Way) : (d.alloc w r (some e)).record v = if v = w then some r else d.record v := by
    unfold DirSet.record
    rw [DirSet.slot_alloc]
    split <;> rfl
  have cases_of {v : Way} {q : Record} (hq : (d.alloc w r (some e)).record v = some q) :
      v = w ∧ q = r ∨ v ≠ w ∧ d.record v = some q := by
    rw [record] at hq
    split at hq
    · cases hq; exact .inl ⟨‹_›, rfl⟩
    · exact .inr ⟨‹_›, hq⟩
  refine ⟨?_, fun v => ?_, fun u v q q' hq hq' ht => ?_, fun v hv => ?_, fun v q i hq hb => ?_,
    fun v q i hq hi hx => ?_⟩
  · show (w :: d.recency.erase w).Nodup
    rw [he]
    exact List.nodup_cons.2 ⟨hout, h.nodup⟩
  · show v ∈ w :: d.recency.erase w ↔ _
    rw [he, List.mem_cons, record, h.listed]
    split
    · next hv => simp [hv]
    · next hv => simp [hv]
  · rcases cases_of hq with ⟨hu', hqr⟩ | ⟨_, hold⟩
    · rcases cases_of hq' with ⟨hv, -⟩ | ⟨_, hold'⟩
      · exact hu'.trans hv.symm
      · exact absurd (hqr ▸ ht.symm) (hn v q' hold')
    · rcases cases_of hq' with ⟨_, hqr⟩ | ⟨_, hold'⟩
      · exact absurd (hqr ▸ ht) (hn u q hold)
      · exact h.tags u v q q' hold hold' ht
  · rw [record] at hv
    split at hv
    · cases hv
    · next hvw => rw [DirSet.slot_alloc, if_neg hvw]; exact h.free v hv
  · rw [DirSet.slot_alloc] at hb
    rcases cases_of hq with ⟨hv, rfl⟩ | ⟨hv, hq⟩
    · rw [if_pos hv] at hb
      cases hb
      exact hh
    · rw [if_neg hv] at hb
      exact h.bound v q i hq hb
  · rw [DirSet.slot_alloc]
    rcases cases_of hq with ⟨hv, rfl⟩ | ⟨hv, hq⟩
    · rw [if_pos hv, hu i hi]
    · rw [if_neg hv]
      exact h.held v q i hq hi hx

/-- A record bound to the entry that holds its line (R6). -/
theorem DirSet.Tied.setBound (h : d.Tied H x k) {w : Way} {r : Record} {e : EntryIdx} (hr : d.record w = some r)
    (hh : H e (lineOf k r.tag)) (hu : ∀ i, H i (lineOf k r.tag) → i = e) : (d.setBound w (some e)).Tied H x k := by
  have record (v : Way) : (d.setBound w (some e)).record v = d.record v := by
    unfold DirSet.record
    rw [DirSet.slot_setBound]
    split
    · next hv => rw [hv]
    · rfl
  refine ⟨h.nodup, fun v => by rw [record]; exact h.listed v, fun u v q q' hq hq' ht => ?_, fun v hv => ?_,
    fun v q i hq hb => ?_, fun v q i hq hi hx => ?_⟩
  · rw [record] at hq hq'
    exact h.tags u v q q' hq hq' ht
  · rw [record] at hv
    rw [DirSet.slot_setBound]
    split
    · next hvw => rw [hvw, hr] at hv; cases hv
    · exact h.free v hv
  · rw [record] at hq
    rw [DirSet.slot_setBound] at hb
    split at hb
    · next hvw =>
      cases hb
      rw [hvw, hr] at hq
      cases hq
      exact hh
    · exact h.bound v q i hq hb
  · rw [record] at hq
    rw [DirSet.slot_setBound]
    split
    · next hvw =>
      rw [hvw, hr] at hq
      cases hq
      rw [hu i hi]
    · exact h.held v q i hq hi hx

/-- A record moved to a free slot (R146). -/
theorem DirSet.Tied.move (h : d.Tied H x k) {w v : Way} {r : Record} (hr : d.record w = some r)
    (hv : d.record v = none) : (d.move w v).Tied H x k := by
  have hne : v ≠ w := fun he => by rw [he, hr] at hv; cases hv
  have hout : v ∉ d.recency := fun hm => by
    have := (h.listed v).1 hm
    rw [hv] at this
    cases this
  have hc : (d.slot w).content = some r := hr
  have record (u : Way) : (d.move w v).record u = if u = w then none else if u = v then some r else d.record u := by
    unfold DirSet.record
    rw [DirSet.slot_move d u hne]
    split
    · rfl
    · split
      · exact hc
      · rfl
  have bound (u : Way) : ((d.move w v).slot u).bound =
      if u = w then none else if u = v then (d.slot w).bound else (d.slot u).bound := by
    rw [DirSet.slot_move d u hne]
    split
    · rfl
    · split <;> rfl
  have cases_of {u : Way} {q : Record} (hq : (d.move w v).record u = some q) :
      u = v ∧ q = r ∨ u ≠ v ∧ u ≠ w ∧ d.record u = some q := by
    rw [record] at hq
    split at hq
    · cases hq
    · split at hq
      · cases hq; exact .inl ⟨‹_›, rfl⟩
      · exact .inr ⟨‹_›, ‹_›, hq⟩
  have hmem (u : Way) : u ∈ (d.move w v).recency ↔ u = v ∨ u ≠ w ∧ u ∈ d.recency := by
    show u ∈ d.recency.map (fun y => if y = w then v else y) ↔ _
    rw [List.mem_map]
    have hwin : w ∈ d.recency := (h.listed w).2 (by rw [hr]; rfl)
    constructor
    · rintro ⟨y, hy, rfl⟩
      split
      · exact .inl rfl
      · exact .inr ⟨‹_›, hy⟩
    · rintro (rfl | ⟨hu, hm⟩)
      · exact ⟨w, hwin, if_pos rfl⟩
      · exact ⟨u, hm, if_neg hu⟩
  refine ⟨?_, fun u => ?_, fun u u' q q' hq hq' ht => ?_, fun u hu => ?_, fun u q i hq hb => ?_,
    fun u q i hq hi hx => ?_⟩
  · refine h.nodup.map_on fun a ha b hb hab => ?_
    split at hab
    · next ha' =>
      split at hab
      · next hb' => rw [ha', hb']
      · exact absurd (hab ▸ hb) hout
    · split at hab
      · exact absurd (hab ▸ ha) hout
      · exact hab
  · rw [hmem, record, h.listed]
    by_cases huw : u = w
    · simp [huw, hne.symm]
    · by_cases huv : u = v
      · simp [huv, hne]
      · simp [huw, huv]
  · rcases cases_of hq with ⟨hu, rfl⟩ | ⟨_, huw, hq⟩
    · rcases cases_of hq' with ⟨hu', -⟩ | ⟨_, huw', hq'⟩
      · exact hu.trans hu'.symm
      · exact absurd (h.tags w u' q q' hr hq' ht).symm huw'
    · rcases cases_of hq' with ⟨_, rfl⟩ | ⟨_, _, hq'⟩
      · exact absurd (h.tags u w q q' hq hr ht) huw
      · exact h.tags u u' q q' hq hq' ht
  · rw [record] at hu
    rw [bound]
    split at hu
    · next huw => rw [if_pos huw]
    · split at hu
      · cases hu
      · next huw huv => rw [if_neg huw, if_neg huv]; exact h.free u hu
  · rw [bound] at hb
    rcases cases_of hq with ⟨hu, rfl⟩ | ⟨huv, huw, hq⟩
    · rw [if_neg (hu ▸ hne), if_pos hu] at hb
      exact h.bound w q i hr hb
    · rw [if_neg huw, if_neg huv] at hb
      exact h.bound u q i hq hb
  · rw [bound]
    rcases cases_of hq with ⟨hu, rfl⟩ | ⟨huv, huw, hq⟩
    · rw [if_neg (hu ▸ hne), if_pos hu]
      exact h.held w q i hr hi hx
    · rw [if_neg huw, if_neg huv]
      exact h.held u q i hq hi hx

/-- The bound fields of entry `e` dropped as it gives up its line (R60). -/
theorem DirSet.Tied.dropBound {H' : EntryIdx → Line → Prop} (h : d.Tied H x k) (e : EntryIdx)
    (hH : ∀ i l, H' i l ↔ i ≠ e ∧ H i l) : (d.dropBound e).Tied H' x k := by
  have record (w : Way) : (d.dropBound e).record w = d.record w := by
    unfold DirSet.record
    rw [DirSet.slot_dropBound]
    split <;> rfl
  refine ⟨h.nodup, fun w => by rw [record]; exact h.listed w, fun u v q r hq hr ht => ?_, fun w hw => ?_,
    fun w r i hr hb => ?_, fun w r i hr hi hx => ?_⟩
  · rw [record] at hq hr
    exact h.tags u v q r hq hr ht
  · rw [record] at hw
    rw [DirSet.slot_dropBound, h.free w hw]
    exact h.free w hw
  · rw [record] at hr
    rw [DirSet.slot_dropBound] at hb
    split at hb
    · cases hb
    · next hne =>
      refine (hH i _).2 ⟨fun he => hne (he ▸ hb), h.bound w r i hr hb⟩
  · rw [record] at hr
    obtain ⟨hie, hi⟩ := (hH i _).1 hi
    have hb := h.held w r i hr hi hx
    rw [DirSet.slot_dropBound, hb, if_neg (fun he => hie (Option.some.inj he))]
    exact hb

/-- Another table in which the lines of the set are held as before. -/
theorem DirSet.Tied.table {H' : EntryIdx → Line → Prop} (h : d.Tied H x k)
    (hH : ∀ e t, H' e (lineOf k t) ↔ H e (lineOf k t)) : d.Tied H' x k :=
  ⟨h.nodup, h.listed, h.tags, h.free, fun w r e hr hb => (hH e _).2 (h.bound w r e hr hb),
    fun w r e hr hh hx => h.held w r e hr ((hH e _).1 hh) hx⟩

/-- A set without records. -/
theorem DirSet.tied_of_none (hr : d.recency = []) (hn : ∀ w, d.record w = none) (hb : ∀ w, (d.slot w).bound = none) :
    d.Tied H x k := by
  refine ⟨by rw [hr]; exact List.nodup_nil, fun w => by rw [hr, hn w]; simp, fun v w q r hq _ _ => ?_, fun w _ => hb w,
    fun w r e hq _ => ?_, fun w r e hq _ _ => ?_⟩
  all_goals
    rw [hn] at hq
    cases hq

end

/-! ### The whole directory in agreement with the table -/

/-- A FREE entry carries nothing (R45). -/
structure Entry.Blank (x : Entry) : Prop where
  line : x.line = none
  kind : x.kind = none
  waiters : x.waiters = []
  repairRound : x.repairRound = false

theorem Entry.blank_freeOf (g : Gen) : (Entry.freeOf g).Blank := ⟨rfl, rfl, rfl, rfl⟩

/-- Directory and table agree, but for entry `x`, if one is named, which may still have to be bound. -/
structure State.Tied (s : State) (x : Option EntryIdx) : Prop where
  wf : s.dir.wf = true
  blank : ∀ e, (s.entry e).inUse = false → (s.entry e).Blank
  line : ∀ e, (s.entry e).inUse = true → (s.entry e).line.isSome = true
  unique : ∀ e i l, s.holds e l → s.holds i l → e = i
  sets : ∀ k, (s.dirSet k).Tied s.holds x k

section
variable {s t : State} {x : Option EntryIdx}

/-- An entry with a line is in use. -/
theorem State.Tied.holds_of_line (h : s.Tied x) {e : EntryIdx} {l : Line} (hl : (s.entry e).line = some l) :
    s.holds e l := by
  refine ⟨?_, hl⟩
  rcases hu : (s.entry e).inUse with _ | _
  · rw [(h.blank e hu).line] at hl
    cases hl
  · rfl

/-- An entry in use holds its line. -/
theorem State.Tied.holds_of_inUse (h : s.Tied x) {e : EntryIdx} (hu : (s.entry e).inUse = true) :
    s.holds e (s.lineOfEntry e) := by
  obtain ⟨l, hl⟩ := Option.isSome_iff_exists.1 (h.line e hu)
  refine ⟨hu, ?_⟩
  unfold State.lineOfEntry
  rw [hl]
  rfl

/-- Outside INIT this is the law of links. -/
theorem State.linked_iff_tied (hp : s.part ≠ .init) : s.linked ↔ s.Tied none := by
  constructor
  · rintro ⟨hwf, hblank, -, hrest⟩
    obtain ⟨hord, hline, huniq, hbound, hheld⟩ := hrest hp
    refine ⟨hwf, fun e he => ?_, hline, fun e i l he hi => huniq e i he.1 hi.1 (he.2.trans hi.2.symm), fun k => ?_⟩
    · obtain ⟨h1, h2, h3, h4⟩ := hblank e he
      exact ⟨h1, h2, h3, h4⟩
    · obtain ⟨hnodup, hlisted, htags⟩ := hord k
      refine ⟨hnodup, hlisted, htags, fun w hw => ?_, fun w r e hr hb => ?_, fun w r e hr hh _ => ?_⟩
      · rcases hb : ((s.dirSet k).slot w).bound with _ | e
        · rfl
        · obtain ⟨-, r, hr, -⟩ := hbound k w e hb
          exact absurd (hw.symm.trans hr) (by simp)
      · obtain ⟨hu, q, hq, hl⟩ := hbound k w e hb
        have hqr : some q = some r := hq.symm.trans hr
        cases hqr
        exact ⟨hu, hl⟩
      · have hf : s.findLine (lineOf k r.tag) = some w := by
          unfold State.findLine
          rw [setOf_lineOf, tagOf_lineOf]
          exact DirSet.findTag_of_record hr rfl fun v q hq ht => htags v w q r hq hr ht
        have := hheld e _ w hh.1 hh.2 hf
        rwa [setOf_lineOf] at this
  · intro h
    refine ⟨h.wf, fun e he => ?_, fun hi => absurd hi hp, fun _ => ⟨fun k => ?_, h.line, fun e i he hi hl => ?_,
      fun k w e hb => ?_, fun e l w he hl hf => ?_⟩⟩
    · have hb := h.blank e he
      exact ⟨hb.line, hb.kind, hb.waiters, hb.repairRound⟩
    · exact ⟨(h.sets k).nodup, (h.sets k).listed, (h.sets k).tags⟩
    · obtain ⟨l, hle⟩ := Option.isSome_iff_exists.1 (h.line e he)
      exact h.unique e i l ⟨he, hle⟩ ⟨hi, hl ▸ hle⟩
    · rcases hr : (s.dirSet k).record w with _ | r
      · rw [State.slot, (h.sets k).free w hr] at hb
        cases hb
      · have hh := (h.sets k).bound w r e hr hb
        exact ⟨hh.1, r, hr, hh.2⟩
    · obtain ⟨r, hr, ht⟩ := State.findLine_some hf
      refine (h.sets (setOf l)).held w r e hr ?_ (by simp)
      rw [ht, lineOf_setOf_tagOf]
      exact ⟨he, hl⟩

/-- Only directory and table matter, and of the table who holds which line. -/
theorem State.Tied.congr (h : s.Tied x) (hd : t.dir = s.dir) (hu : ∀ e, (t.entry e).inUse = (s.entry e).inUse)
    (hl : ∀ e, (t.entry e).line = (s.entry e).line)
    (hb : ∀ e, (s.entry e).inUse = false → (s.entry e).Blank → (t.entry e).Blank) : t.Tied x := by
  have hh (e : EntryIdx) (l : Line) : t.holds e l ↔ s.holds e l := by
    unfold State.holds
    rw [hu, hl]
  refine ⟨hd ▸ h.wf, fun e he => hb e (hu e ▸ he) (h.blank e (hu e ▸ he)), fun e he => ?_, fun e i l he hi => ?_,
    fun k => ?_⟩
  · rw [hl]
    exact h.line e (hu e ▸ he)
  · exact h.unique e i l ((hh e l).1 he) ((hh i l).1 hi)
  · rw [State.dirSet_congr hd]
    exact (h.sets k).table fun e t => hh e _

/-- A write to set `k` that keeps it in agreement. -/
theorem State.Tied.updSet (h : s.Tied x) {k : SetIdx} {f : DirSet → DirSet}
    (hf : (f (s.dirSet k)).Tied s.holds x k) : (s.updSet k f).Tied x := by
  refine ⟨State.wf_updSet _ _ _ h.wf, h.blank, h.line, h.unique, fun j => ?_⟩
  by_cases hj : j = k
  · rw [hj, State.dirSet_updSet_same _ _ _ h.wf]
    exact hf
  · rw [State.dirSet_updSet_ne _ _ hj]
    exact h.sets j

/-- Two slots with one line are one slot. -/
theorem State.Tied.slot_of_line (h : s.Tied x) {k j : SetIdx} {w v : Way} {r q : Record}
    (hr : s.recordAt k w = some r) (hq : s.recordAt j v = some q) (hl : lineOf j q.tag = lineOf k r.tag) :
    j = k ∧ v = w := by
  have hj : j = k := by rw [← setOf_lineOf j q.tag, hl, setOf_lineOf]
  subst hj
  have ht : q.tag = r.tag := by rw [← tagOf_lineOf j q.tag, hl, tagOf_lineOf]
  exact ⟨rfl, (h.sets j).tags v w q r hq hr ht⟩

/-- Where the entry being begun has its line bound, agreement is full. -/
theorem State.Tied.complete (h : s.Tied x) {e : EntryIdx} (hx : ∀ i, x = some i → i = e)
    (hb : ∀ k w r, s.recordAt k w = some r → s.holds e (lineOf k r.tag) → (s.slot k w).bound = some e) :
    s.Tied none := by
  refine ⟨h.wf, h.blank, h.line, h.unique, fun k => ?_⟩
  have g := h.sets k
  refine ⟨g.nodup, g.listed, g.tags, g.free, g.bound, fun w r i hr hi _ => ?_⟩
  by_cases hie : i = e
  · subst hie
    exact hb k w r hr hi
  · exact g.held w r i hr hi fun he => hie (hx i he.symm)

/-- An entry that holds an absent line has nothing to bind. -/
theorem State.Tied.absent (h : s.Tied x) {e : EntryIdx} (hx : ∀ i, x = some i → i = e) {l : Line}
    (hh : s.holds e l) (hf : s.findLine l = none) : s.Tied none := by
  refine h.complete hx fun k w r hr hi => ?_
  have hl := hi.line_eq hh
  subst hl
  unfold State.findLine at hf
  rw [setOf_lineOf, tagOf_lineOf] at hf
  exact absurd rfl (DirSet.findTag_none hf hr)

/-- A record bound to the entry that holds its line (R6). -/
theorem State.Tied.bind (h : s.Tied x) {k : SetIdx} {w : Way} {e : EntryIdx} {r : Record}
    (hx : ∀ i, x = some i → i = e) (hr : s.recordAt k w = some r) (hh : s.holds e (lineOf k r.tag)) :
    (s.bind k w e).Tied none := by
  have h1 : (s.updSet k fun d => d.setBound w (some e)).Tied x :=
    h.updSet ((h.sets k).setBound hr hh fun i hi => h.unique i e _ hi hh)
  have hslot : ((s.updSet k fun d => d.setBound w (some e)).slot k w).bound = some e := by
    rw [State.slot_updSet_same _ _ _ _ h.wf, DirSet.slot_setBound, if_pos rfl]
  have hrec : (s.updSet k fun d => d.setBound w (some e)).recordAt k w = some r := by
    rw [State.recordAt_updSet_same _ _ _ _ h.wf, DirSet.record, DirSet.slot_setBound, if_pos rfl]
    exact hr
  have h2 : (s.updSet k fun d => d.setBound w (some e)).Tied none := by
    refine h1.complete hx fun j v q hq hi => ?_
    obtain ⟨rfl, rfl⟩ := h1.slot_of_line hrec hq (State.holds.line_eq hi hh)
    exact hslot
  refine h2.congr rfl (fun i => ?_) (fun i => ?_) fun i _ hb => ?_ <;> unfold State.bind <;> rw [State.entry_updEntry]
  · split
    · next hi => rw [hi]; rfl
    · rfl
  · split
    · next hi => rw [hi]
    · rfl
  · split
    · next hi => rw [hi] at hb; exact ⟨hb.line, hb.kind, hb.waiters, hb.repairRound⟩
    · exact hb

/-- A record allocated for the entry that holds its line (R14). -/
theorem State.Tied.alloc (h : s.Tied x) {k : SetIdx} {w : Way} {e : EntryIdx} {r : Record}
    (hx : ∀ i, x = some i → i = e) (hw : s.recordAt k w = none) (hh : s.holds e (lineOf k r.tag))
    (hf : (s.dirSet k).findTag r.tag = none) : (s.alloc k w r e).Tied none := by
  have h1 : (s.updSet k fun d => d.alloc w r (some e)).Tied x :=
    h.updSet ((h.sets k).alloc hw hh (fun i hi => h.unique i e _ hi hh) fun v q hq => DirSet.findTag_none hf hq)
  have hslot : ((s.updSet k fun d => d.alloc w r (some e)).slot k w).bound = some e := by
    rw [State.slot_updSet_same _ _ _ _ h.wf, DirSet.slot_alloc, if_pos rfl]
  have hrec : (s.updSet k fun d => d.alloc w r (some e)).recordAt k w = some r := by
    rw [State.recordAt_updSet_same _ _ _ _ h.wf, DirSet.record, DirSet.slot_alloc, if_pos rfl]
    rfl
  have h2 : (s.updSet k fun d => d.alloc w r (some e)).Tied none := by
    refine h1.complete hx fun j v q hq hi => ?_
    obtain ⟨rfl, rfl⟩ := h1.slot_of_line hrec hq (State.holds.line_eq hi hh)
    exact hslot
  refine h2.congr rfl (fun i => ?_) (fun i => ?_) fun i _ hb => ?_ <;> unfold State.alloc <;> rw [State.entry_updEntry]
  · split
    · next hi => rw [hi]; rfl
    · rfl
  · split
    · next hi => rw [hi]
    · rfl
  · split
    · next hi => rw [hi] at hb; exact ⟨hb.line, hb.kind, hb.waiters, hb.repairRound⟩
    · exact hb

/-- A FREE entry taken for a line that no entry holds (R49). -/
theorem State.Tied.takeEntry (h : s.Tied none) {e : EntryIdx} {l : Line} (kind : EntryKind) (who : Party)
    (req : Option EntryRequest) (he : (s.entry e).inUse = false) (hn : ∀ i, ¬ s.holds i l) :
    (s.takeEntry e l kind who req).Tied (some e) ∧ (s.takeEntry e l kind who req).holds e l := by
  have hent (i : EntryIdx) : (s.takeEntry e l kind who req).entry i =
      if i = e then Entry.begin (s.entry e).gen l none kind who req [] else s.entry i :=
    State.entry_updEntry s e i fun _ => Entry.begin (s.entry e).gen l none kind who req []
  have hself : (s.takeEntry e l kind who req).holds e l := by
    unfold State.holds
    rw [hent, if_pos rfl]
    exact ⟨rfl, rfl⟩
  have hother {i : EntryIdx} (m : Line) (hi : i ≠ e) : (s.takeEntry e l kind who req).holds i m ↔ s.holds i m := by
    unfold State.holds
    rw [hent, if_neg hi]
  have hnot (m : Line) : ¬ s.holds e m := fun hh => by rw [hh.1] at he; cases he
  refine ⟨⟨h.wf, fun i hi => ?_, fun i hi => ?_, fun i j m hi hj => ?_, fun k => ?_⟩, hself⟩
  · rw [hent] at hi ⊢
    split at hi
    · cases hi
    · next hie => rw [if_neg hie]; exact h.blank i hi
  · rw [hent] at hi ⊢
    split
    · rfl
    · next hie => rw [if_neg hie] at hi; exact h.line i hi
  · by_cases hie : i = e
    · by_cases hje : j = e
      · rw [hie, hje]
      · rw [hie] at hi
        rw [hother m hje, hi.line_eq hself] at hj
        exact absurd hj (hn j)
    · by_cases hje : j = e
      · rw [hje] at hj
        rw [hother m hie, hj.line_eq hself] at hi
        exact absurd hi (hn i)
      · rw [hother m hie] at hi
        rw [hother m hje] at hj
        exact h.unique i j m hi hj
  · have g := h.sets k
    refine ⟨g.nodup, g.listed, g.tags, g.free, fun w r i hr hb => ?_, fun w r i hr hi hx => ?_⟩
    · have hi := g.bound w r i hr hb
      have hie : i ≠ e := fun hie => hnot _ (hie ▸ hi)
      exact (hother _ hie).2 hi
    · have hie : i ≠ e := fun hie => hx (by rw [hie])
      exact g.held w r i hr ((hother _ hie).1 hi) (by simp)

/-- An entry whose line lies in set `k` given up, with the bound fields that name it in that set (R60). -/
theorem State.Tied.release (h : s.Tied none) {k : SetIdx} {e : EntryIdx} (g : Gen)
    (hk : ∀ l, (s.entry e).line = some l → setOf l = k) :
    ((s.updSet k fun d => d.dropBound e).setEntry e (Entry.freeOf g)).Tied none := by
  have hent (i : EntryIdx) : ((s.updSet k fun d => d.dropBound e).setEntry e (Entry.freeOf g)).entry i =
      if i = e then Entry.freeOf g else s.entry i := State.entry_updEntry (s.updSet k _) e i fun _ => Entry.freeOf g
  have hholds (i : EntryIdx) (l : Line) :
      ((s.updSet k fun d => d.dropBound e).setEntry e (Entry.freeOf g)).holds i l ↔ i ≠ e ∧ s.holds i l := by
    unfold State.holds
    rw [hent]
    split
    · next hi => exact ⟨fun hh => (Bool.noConfusion hh.1 : False).elim, fun hh => absurd hi hh.1⟩
    · next hi => exact ⟨fun hh => ⟨hi, hh⟩, fun hh => hh.2⟩
  refine ⟨State.wf_updSet _ _ _ h.wf, fun i hi => ?_, fun i hi => ?_, fun i j l hi hj => ?_, fun j => ?_⟩
  · rw [hent] at hi ⊢
    split
    · exact Entry.blank_freeOf g
    · next hie => rw [if_neg hie] at hi; exact h.blank i hi
  · rw [hent] at hi ⊢
    split at hi
    · cases hi
    · next hie => rw [if_neg hie]; exact h.line i hi
  · exact h.unique i j l ((hholds i l).1 hi).2 ((hholds j l).1 hj).2
  · rw [State.dirSet_setEntry]
    by_cases hj : j = k
    · rw [hj, State.dirSet_updSet_same _ _ _ h.wf]
      exact (h.sets k).dropBound e hholds
    · rw [State.dirSet_updSet_ne _ _ hj]
      refine (h.sets j).table fun i t => ?_
      rw [hholds]
      refine ⟨fun hh => hh.2, fun hh => ⟨fun hie => hj ?_, hh⟩⟩
      rw [hie] at hh
      rw [← hk _ hh.2, setOf_lineOf]

end

end Sys2Proof.Machine
end

section
/-! PROOF. Each operation of an access keeps directory and table in agreement (O56), from the primitives to the outcomes. -/

namespace Sys2Proof.Machine

/-! ### Changes that no agreement feels -/

/-- Entry `y` is in use and carries a line as `x` is and does, and carries nothing if `x` does. -/
structure Retains (x y : Entry) : Prop where
  inUse : y.inUse = x.inUse
  line : y.line = x.line
  blank : x.inUse = false → x.Blank → y.Blank

theorem Retains.refl (x : Entry) : Retains x x := ⟨rfl, rfl, fun _ h => h⟩

theorem Retains.trans {x y z : Entry} (h : Retains x y) (g : Retains y z) : Retains x z :=
  ⟨g.inUse.trans h.inUse, g.line.trans h.line, fun hu hb => g.blank (h.inUse.trans hu) (h.blank hu hb)⟩

theorem Retains.of_sameHold {x y : Entry} (h : SameHold x y) : Retains x y :=
  ⟨h.inUse, h.line, fun _ hb => ⟨h.line.trans hb.line, h.kind.trans hb.kind, h.waiters hb.waiters,
    h.repairRound.trans hb.repairRound⟩⟩

/-- An entry in use that stays in use with its line may change otherwise. -/
theorem Retains.of_inUse {x y : Entry} (hx : x.inUse = true) (hy : y.inUse = true) (hl : y.line = x.line) :
    Retains x y := ⟨hy.trans hx.symm, hl, fun hn => by rw [hx] at hn; cases hn⟩

/-- Every entry of `t` retains what it carries in `s`. -/
def SameLines (s t : State) : Prop := ∀ e, Retains (s.entry e) (t.entry e)

theorem SameLines.refl (s : State) : SameLines s s := fun _ => .refl _

theorem SameLines.trans {s t u : State} (h : SameLines s t) (g : SameLines t u) : SameLines s u :=
  fun e => (h e).trans (g e)

theorem SameLines.of_tt {s t : State} (h : t.tt = s.tt) : SameLines s t := fun e => by
  unfold State.entry
  rw [h]
  exact .refl _

theorem SameLines.updEntry (s : State) (e : EntryIdx) (f : Entry → Entry) (h : Retains (s.entry e) (f (s.entry e))) :
    SameLines s (s.updEntry e f) := fun i => by
  rw [State.entry_updEntry]
  split
  · next hi => rw [hi]; exact h
  · exact .refl _

theorem SameLines.holds {s t : State} (h : SameLines s t) {e : EntryIdx} {l : Line} (hh : s.holds e l) : t.holds e l :=
  ⟨(h e).inUse.trans hh.1, (h e).line.trans hh.2⟩

theorem SameLines.lineOfEntry {s t : State} (h : SameLines s t) (e : EntryIdx) : t.lineOfEntry e = s.lineOfEntry e := by
  unfold State.lineOfEntry
  rw [(h e).line]

/-- `t` comes from `s` without a write to the array, and its entries retain what they carry. -/
structure Steady (s t : State) : Prop where
  dir : t.dir = s.dir
  lines : SameLines s t

theorem Steady.refl (s : State) : Steady s s := ⟨rfl, .refl s⟩

theorem Steady.trans {s t u : State} (h : Steady s t) (g : Steady t u) : Steady s u :=
  ⟨g.dir.trans h.dir, h.lines.trans g.lines⟩

theorem Steady.of_eq {s t : State} (h : (t.dir, t.tt) = (s.dir, s.tt)) : Steady s t :=
  ⟨congrArg Prod.fst h, .of_tt (congrArg Prod.snd h)⟩

theorem Steady.of_ambient {s t : State} (h : Ambient s t) : Steady s t :=
  ⟨h.dir, fun e => .of_sameHold (h.entry e)⟩

theorem Steady.updEntry (s : State) (e : EntryIdx) (f : Entry → Entry) (h : Retains (s.entry e) (f (s.entry e))) :
    Steady s (s.updEntry e f) := ⟨rfl, .updEntry s e f h⟩

/-- What is written beside directory and table is not felt. -/
theorem Steady.beside {s t u : State} (h : Steady s t) (hd : u.dir = t.dir) (ht : u.tt = t.tt) : Steady s u :=
  h.trans ⟨hd, .of_tt ht⟩

theorem SameLines.beside {s t u : State} (h : SameLines s t) (ht : u.tt = t.tt) : SameLines s u := h.trans (.of_tt ht)

/-- The way of an entry written. -/
theorem Steady.setWay (s : State) (e : EntryIdx) (v : Option Way) :
    Steady s (s.updEntry e fun x => { x with way := v }) :=
  .updEntry s e _ ⟨rfl, rfl, fun _ h => ⟨h.line, h.kind, h.waiters, h.repairRound⟩⟩

theorem Steady.foldl {α : Type} (g : State → α → State) (h : ∀ s a, Steady s (g s a)) (l : List α) (s : State) :
    Steady s (l.foldl g s) := by
  induction l generalizing s with
  | nil => exact .refl s
  | cons a l ih => exact (h s a).trans (ih _)

theorem Steady.foldlFrom {α : Type} {s t : State} (h : Steady s t) (g : State → α → State)
    (hg : ∀ s a, Steady s (g s a)) (l : List α) : Steady s (l.foldl g t) := h.trans (.foldl g hg l t)

theorem State.Tied.beside {s t : State} {x : Option EntryIdx} (h : s.Tied x) (hd : t.dir = s.dir) (ht : t.tt = s.tt) :
    t.Tied x := by
  have entry (e : EntryIdx) : t.entry e = s.entry e := by
    unfold State.entry
    rw [ht]
  exact h.congr hd (fun e => by rw [entry]) (fun e => by rw [entry]) fun e _ hb => by rw [entry]; exact hb

theorem State.Tied.steady {s t : State} {x : Option EntryIdx} (h : s.Tied x) (g : Steady s t) : t.Tied x :=
  h.congr g.dir (fun e => (g.lines e).inUse) (fun e => (g.lines e).line) fun e => (g.lines e).blank

theorem Steady.send (s : State) (p : Agent) (m : OutMsg) : Steady s (s.send p m) := .of_ambient (.send s p m)

theorem Steady.reply (s : State) (p : Agent) (tag : ReqTag) (m : OutMsg) : Steady s (s.reply p tag m) :=
  (Steady.send s p m).beside rfl rfl

theorem Steady.returnCredit (s : State) (p : Agent) : Steady s (s.returnCredit p) := .of_ambient (.returnCredit s p)

theorem Steady.leaveIntake (s : State) (r : Request) : Steady s (s.leaveIntake r) :=
  (Steady.refl s).beside (u := { s with intake := s.intake.tail }) rfl rfl |>.trans (.returnCredit _ r.port)

/-- A probe round of an entry in use. -/
theorem Steady.startRound (s : State) (e : EntryIdx) (kind : ProbeKind) (set : AgentSet) (b : Bool)
    (hu : (s.entry e).inUse = true) : Steady s (s.startRound e kind set b) := by
  have probe (u : State) (a : Agent) : Steady u (State.startProbe e u a) := by
    unfold State.startProbe
    split
    · exact (Steady.updEntry u e (fun x => { x with
          probes := x.probes.set a.val (some u.newProbe)
          pendingSet := addTo x.pendingSet a })
        ⟨rfl, rfl, fun _ h => ⟨h.line, h.kind, h.waiters, h.repairRound⟩⟩).beside rfl rfl
    · exact .updEntry u e _ ⟨rfl, rfl, fun _ h => ⟨h.line, h.kind, h.waiters, h.repairRound⟩⟩
  have begun : Steady s (s.updEntry e fun x => { x with
      phase := .probing
      probeKind := some kind
      pendingSet := 0
      answers := Vector.replicate 8 none
      probes := Vector.replicate 8 none
      repairRound := b }) := .updEntry s e _ (.of_inUse hu rfl rfl)
  unfold State.startRound
  dsimp only
  refine .foldlFrom ?_ _ probe _
  exact begun.beside rfl rfl

theorem Steady.startRepair (s : State) (e : EntryIdx) (keep : Option Agent) (hu : (s.entry e).inUse = true) :
    Steady s (s.startRepair e keep) := by
  have h1 : Steady s (s.updEntry e fun x => { x with keep := keep }) := .updEntry s e _ (.of_inUse hu hu rfl)
  exact h1.trans (.startRound _ e _ _ _ ((h1.lines e).inUse.trans hu))

theorem Steady.leaveSnapshots (s : State) (e : EntryIdx) : Steady s (s.leaveSnapshots e) := by
  refine .foldl _ (fun u p => ?_) _ _
  unfold State.leaveSnapshot
  dsimp only
  split
  · split <;> exact .of_eq rfl
  · exact .refl u

theorem Steady.reportClose (s : State) (e : EntryIdx) : Steady s (s.reportClose e) := by
  unfold State.reportClose
  dsimp only
  refine .trans ?_ (.leaveSnapshots _ e)
  exact .of_eq rfl

theorem Steady.announceFree (s : State) (e : EntryIdx) : Steady s (s.announceFree e) :=
  (Steady.leaveSnapshots s e).beside rfl rfl

theorem Steady.park (s : State) (e : EntryIdx) (again : Bool) (hu : (s.entry e).inUse = true) :
    Steady s (s.park e again) :=
  (Steady.updEntry s e (fun x => { x with phase := .awaitSlot, way := none, slotClaim := false })
    (.of_inUse hu rfl rfl)).beside rfl rfl

theorem Steady.enterReleasing (s : State) (e : EntryIdx) (hu : (s.entry e).inUse = true) :
    Steady s (s.enterReleasing e) := .updEntry s e _ (.of_inUse hu rfl rfl)

theorem Steady.handTo (s : State) (e : EntryIdx) (i : PoolIdx) (rest : List PoolIdx) (who : Party)
    (kind : EntryKind) (req : EntryRequest) (hu : (s.entry e).inUse = true) :
    Steady s (s.handTo e i rest who kind req) :=
  (Steady.updEntry s e (fun x => { Entry.begin x.gen (x.line.getD 0) x.way kind who (some req) rest with line := x.line })
    (.of_inUse hu rfl rfl)).beside rfl rfl

theorem Steady.joinWaiters (s : State) (e : EntryIdx) (i : PoolIdx) (w : Waiter) (hu : (s.entry e).inUse = true) :
    Steady s (s.joinWaiters e i w) :=
  (Steady.updEntry s e (fun x => { x with waiters := x.waiters ++ [i] }) (.of_inUse hu hu rfl)).beside rfl rfl

theorem Steady.withhold (s : State) (e : EntryIdx) : Steady s (s.withhold e) := by
  unfold State.withhold
  split
  · exact .of_eq rfl
  · exact .refl s

theorem Steady.joinRetireList (s : State) (k : SetIdx) (w : Way) (st : RetireStatus) :
    Steady s (s.joinRetireList k w st) := by
  unfold State.joinRetireList
  split
  · exact .refl s
  · exact .of_eq rfl

/-! ### Records written, freed, moved -/

section
variable {s : State} {x : Option EntryIdx} {k : SetIdx}

/-- A slot written with its tag and its bound field kept. -/
theorem State.Tied.setSlot (h : s.Tied x) (w : Way) (y : Slot)
    (ht : y.content.map Record.tag = (s.recordAt k w).map Record.tag) (hb : y.bound = (s.slot k w).bound) :
    (s.setSlot k w y).Tied x :=
  h.updSet ((h.sets k).setSlot w y ht hb)

theorem State.Tied.writeRec (h : s.Tied x) {w : Way} {r q : Record} (hq : s.recordAt k w = some q)
    (ht : r.tag = q.tag) : (s.writeRec k w r).Tied x :=
  h.updSet ((h.sets k).writeRec hq ht)

theorem State.recordAt_writeRec (h : s.dir.wf = true) (w : Way) (r : Record) :
    (s.writeRec k w r).recordAt k w = some r := by
  unfold State.writeRec
  rw [State.recordAt_updSet_same _ _ _ _ h, DirSet.record, DirSet.slot_writeRec, if_pos rfl]
  rfl

theorem State.Tied.writePoisoned (h : s.Tied x) {w : Way} {r q : Record} (hq : s.recordAt k w = some q)
    (ht : r.tag = q.tag) : (s.writePoisoned k w r).Tied x :=
  h.writeRec hq ht

/-- The entry bound to a record freed loses its way, and nothing that it carries. -/
theorem SameLines.freeRec (s : State) (k : SetIdx) (w : Way) : SameLines s (s.freeRec k w) := by
  unfold State.freeRec
  dsimp only
  split
  · exact (Steady.setWay s _ none).lines.beside rfl
  · exact .of_tt rfl

theorem State.Tied.freeRec (h : s.Tied x) (w : Way) : (s.freeRec k w).Tied x := by
  unfold State.freeRec
  dsimp only
  split
  · next e _ =>
    have g := h.steady (Steady.setWay s e none)
    exact g.updSet ((g.sets k).freeRec w)
  · exact h.updSet ((h.sets k).freeRec w)

theorem State.recordAt_freeRec_self (h : s.dir.wf = true) (w : Way) : (s.freeRec k w).recordAt k w = none := by
  unfold State.freeRec
  dsimp only
  rw [State.recordAt_updSet_same, DirSet.record, DirSet.slot_freeRec, if_pos rfl]
  · rfl
  · split <;> exact h

theorem SameLines.freeOrPoison (s : State) (k : SetIdx) (w : Way) (r : Record) :
    SameLines s (s.freeOrPoison k w r) := by
  unfold State.freeOrPoison
  split
  · exact .of_tt rfl
  · exact .freeRec s k w

theorem State.Tied.freeOrPoison (h : s.Tied x) {w : Way} {r : Record} (hr : s.recordAt k w = some r) :
    (s.freeOrPoison k w r).Tied x := by
  unfold State.freeOrPoison
  split
  · exact h.writePoisoned hr rfl
  · exact h.freeRec w

theorem State.Tied.withdrawSlot (h : s.Tied x) (w : Way) (m : ServiceMark) : (s.withdrawSlot k w m).Tied x :=
  h.updSet ((h.sets k).withdraw w m)

theorem State.Tied.moveRecord (h : s.Tied x) {w v : Way} {r : Record} (hr : s.recordAt k w = some r)
    (hv : (s.dirSet k).record v = none) : (s.moveRecord k w v).Tied x := by
  unfold State.moveRecord
  dsimp only
  split
  · next e _ =>
    have g := h.steady (Steady.setWay s e (some v))
    exact (g.updSet (f := fun d => d.move w v) ((g.sets k).move hr hv)).beside rfl rfl
  · exact (h.updSet (f := fun d => d.move w v) ((h.sets k).move hr hv)).beside rfl rfl

theorem SameLines.moveRecord (s : State) (k : SetIdx) (w v : Way) : SameLines s (s.moveRecord k w v) := by
  unfold State.moveRecord
  dsimp only
  split
  · exact (Steady.setWay s _ (some v)).lines.beside rfl
  · exact .of_tt rfl

theorem State.Tied.retireFree (h : s.Tied x) (w : Way) : (s.retireFree k w).1.Tied x := by
  unfold State.retireFree
  split
  · exact h.withdrawSlot w _
  · exact h

theorem State.tt_retireFree (s : State) (k : SetIdx) (w : Way) : (s.retireFree k w).1.tt = s.tt := by
  unfold State.retireFree
  split <;> rfl

theorem State.Tied.toFront (h : s.Tied x) {w : Way} {r : Record} (hr : s.recordAt k w = some r) :
    (s.updSet k fun d => d.toFront w).Tied x :=
  h.updSet ((h.sets k).toFront hr)

theorem State.Tied.dropReservation (h : s.Tied x) (e : EntryIdx) : (s.updSet k fun d => d.dropReservation e).Tied x := by
  refine h.updSet ((h.sets k).mapSlots _ (fun y => ?_) fun y => ?_) <;> split <;> rfl

theorem State.Tied.reserveFor (h : s.Tied x) (w : Way) (p : EntryIdx) : (s.reserveFor k w p).Tied x := by
  have g : (s.updSet k fun d => d.setReservation w (some p)).Tied x := h.updSet ((h.sets k).setSlot w _ rfl rfl)
  exact g.steady (.updEntry _ p _ ⟨rfl, rfl, fun _ h => ⟨h.line, h.kind, h.waiters, h.repairRound⟩⟩)

theorem SameLines.reserveFor (s : State) (k : SetIdx) (w : Way) (p : EntryIdx) : SameLines s (s.reserveFor k w p) :=
  .updEntry (s.updSet k _) p _ ⟨rfl, rfl, fun _ h => ⟨h.line, h.kind, h.waiters, h.repairRound⟩⟩

/-! ### The end of a transaction -/

theorem State.Tied.releaseEntry (h : s.Tied none) {e : EntryIdx}
    (hk : ∀ l, (s.entry e).line = some l → setOf l = k) : (s.releaseEntry k e).Tied none := by
  have h1 := h.release ((s.updSet k fun d => d.dropBound e).entry e).gen hk
  have h2 : State.Tied (((s.updSet k fun d => d.dropBound e).setEntry e
      (Entry.freeOf ((s.updSet k fun d => d.dropBound e).entry e).gen)).pauseDown) none := h1.beside rfl rfl
  exact h2.steady (.announceFree _ e)

/-- The hand-on step of an entry whose line, if it has one, lies in set `k`. -/
theorem State.Tied.handOn (h : s.Tied none) {e : EntryIdx} (hk : ∀ l, (s.entry e).line = some l → setOf l = k) :
    (s.handOn k e).Tied none := by
  have used {i : PoolIdx} {rest : List PoolIdx} (hw : (s.entry e).waiters = i :: rest) : (s.entry e).inUse = true := by
    rcases hu : (s.entry e).inUse with _ | _
    · rw [(h.blank e hu).waiters] at hw
      cases hw
    · rfl
  unfold State.handOn
  split
  · exact h.releaseEntry hk
  · next i rest hw =>
    have hu := used hw
    split
    · split
      · exact h.steady (.handTo s e i rest _ _ _ hu)
      · exact h.steady (.enterReleasing s e hu)
    · exact (h.steady (.handTo s e i rest .service .service .recallLine hu)).beside rfl rfl
    · exact h.steady (.enterReleasing s e hu)
    · exact h.steady (.enterReleasing s e hu)

theorem State.Tied.filterRecord (h : s.Tied none) {w : Way} {r : Record} (hr : s.recordAt k w = some r) (n : Txn) :
    (s.filterRecord k w r n).Tied none := by
  unfold State.filterRecord
  split
  · dsimp only
    split
    · exact h.freeOrPoison hr
    · exact h.writeRec hr rfl
  · split
    · split
      · exact (h.writePoisoned hr rfl).beside rfl rfl
      · exact h
    · exact h
  · exact h
  · exact h

theorem SameLines.filterRecord (s : State) (k : SetIdx) (w : Way) (r : Record) (n : Txn) :
    SameLines s (s.filterRecord k w r n) := by
  unfold State.filterRecord
  split
  · dsimp only
    split
    · exact .freeOrPoison s k w r
    · exact .of_tt rfl
  · split
    · split <;> exact .of_tt rfl
    · exact .refl s
  · exact .refl s
  · exact .refl s

theorem State.Tied.closeFilter (h : s.Tied none) (e : EntryIdx) : (s.closeFilter k e).Tied none := by
  unfold State.closeFilter
  split
  · split
    · next hr => exact h.filterRecord hr _
    · exact h
  · exact h

theorem SameLines.closeFilter (s : State) (k : SetIdx) (e : EntryIdx) : SameLines s (s.closeFilter k e) := by
  unfold State.closeFilter
  split
  · split
    · exact .filterRecord s k _ _ _
    · exact .refl s
  · exact .refl s

/-- The close of an entry whose line, if it has one, lies in set `k` (R57 to R60). -/
theorem State.Tied.closeEntry (h : s.Tied none) {e : EntryIdx} (hk : ∀ l, (s.entry e).line = some l → setOf l = k) :
    (s.closeEntry k e).Tied none := by
  unfold State.closeEntry
  dsimp only
  have g := ((h.closeFilter (k := k) e).dropReservation (k := k) e).steady (.reportClose _ e)
  refine g.handOn fun l hl => hk l ?_
  rw [((Steady.reportClose _ e).lines e).line] at hl
  exact ((SameLines.closeFilter s k e) e).line ▸ hl

/-- A close that the entry's own line places. -/
theorem State.Tied.closeOwn (h : s.Tied none) {e : EntryIdx} (hk : setOf (s.lineOfEntry e) = k) :
    (s.closeEntry k e).Tied none := by
  refine h.closeEntry fun l hl => ?_
  unfold State.lineOfEntry at hk
  rw [hl] at hk
  exact hk

theorem State.Tied.closeRecall (h : s.Tied none) (e : EntryIdx) (o : ResultOutcome) :
    (s.closeRecall e o).Tied none := by
  have g : (s.completeRecall e o).Tied none := h.beside rfl rfl
  exact g.closeOwn rfl

/-! ### Grants -/

theorem State.holds.setOf_eq {s : State} {e : EntryIdx} {k : SetIdx} {t : Tag} (h : s.holds e (lineOf k t)) {l : Line}
    (hl : (s.entry e).line = some l) : setOf l = k := by
  have : l = lineOf k t := Option.some.inj (hl.symm.trans h.2)
  rw [this, setOf_lineOf]

theorem grantOn_tag (kind : ReqKind) (a : Agent) (full : Bool) (r : Record) (y : Entry) :
    (grantOn kind a full r y).record.tag = r.tag := by
  have own (b : Bool) : (grantOwn a b r y).record.tag = r.tag := by
    unfold grantOwn
    split <;> rfl
  have upgrade : (grantUpgrade a r y).record.tag = r.tag := (congrArg Record.tag (grantUpgrade_record a r y)).trans (own _)
  cases kind with
  | rdShared =>
    show (grantShared a r y).record.tag = r.tag
    unfold grantShared
    split
    · rfl
    · split <;> rfl
    · rfl
    · rfl
  | rdOwn => exact own full
  | upgrade => exact upgrade
  | writeback => exact upgrade
  | drop => exact upgrade
  | leave => exact upgrade

theorem grantNew_tag (kind : ReqKind) (a : Agent) (full : Bool) (t : Tag) :
    (grantNew kind a full t).record.tag = t := by
  cases kind <;> rfl

theorem Steady.grantReports (s : State) (k : SetIdx) (w : Way) (e : EntryIdx) (r : Request) (g : Grant) :
    Steady s (s.grantReports k w e r g) := by
  unfold State.grantReports
  dsimp only
  split <;> split <;> exact .of_eq rfl

theorem State.Tied.finishGrant (h : s.Tied none) {e : EntryIdx} (hu : (s.entry e).inUse = true)
    (hk : ∀ l, (s.entry e).line = some l → setOf l = k) (r : Request) (g : Grant) :
    (s.finishGrant k e r g).Tied none := by
  unfold State.finishGrant
  split
  · exact h.closeEntry hk
  · exact (h.steady (.updEntry s e _ (.of_inUse hu rfl rfl))).steady (.reply _ _ _ _)

theorem SameLines.bind (s : State) (k : SetIdx) (w : Way) (e : EntryIdx) : SameLines s (s.bind k w e) :=
  .updEntry (s.updSet k _) e _ ⟨rfl, rfl, fun _ h => ⟨h.line, h.kind, h.waiters, h.repairRound⟩⟩

theorem SameLines.alloc (s : State) (k : SetIdx) (w : Way) (r : Record) (e : EntryIdx) :
    SameLines s (s.alloc k w r e) :=
  .updEntry (s.updSet k _) e _ ⟨rfl, rfl, fun _ h => ⟨h.line, h.kind, h.waiters, h.repairRound⟩⟩

/-- A grant in place, for an entry that holds the record's line and may still have to be bound. -/
theorem State.Tied.grantInPlace (h : s.Tied x) {w : Way} {e : EntryIdx} {old : Record} (hx : ∀ i, x = some i → i = e)
    (hr : s.recordAt k w = some old) (hh : s.holds e (lineOf k old.tag)) (r : Request) {g : Grant}
    (ht : g.record.tag = old.tag) : (s.grantInPlace k w e r g).Tied none := by
  unfold State.grantInPlace
  dsimp only
  have h1 := h.writeRec hr ht
  have r1 : (s.writeRec k w g.record).recordAt k w = some g.record := State.recordAt_writeRec h.wf w _
  have h2 := h1.toFront r1
  have r2 : ((s.writeRec k w g.record).updSet k fun d => d.toFront w).recordAt k w = some g.record := by
    rw [State.recordAt_updSet_same _ _ _ _ h1.wf]
    exact r1
  have hh2 : ((s.writeRec k w g.record).updSet k fun d => d.toFront w).holds e (lineOf k g.record.tag) := ht ▸ hh
  have h3 := h2.bind hx r2 hh2
  have hh4 := ((SameLines.bind _ k w e).trans (Steady.grantReports _ k w e r g).lines).holds hh2
  exact (h3.steady (.grantReports _ k w e r g)).finishGrant hh4.1 (fun _ => hh4.setOf_eq) r g

/-- A grant on an absent line, by an allocation or parked. -/
theorem State.Tied.grantAbsent (h : s.Tied x) {e : EntryIdx} {r : Request} (hx : ∀ i, x = some i → i = e)
    (hh : s.holds e r.line) (hf : s.findLine r.line = none) {freed : Option Way} (again : Bool)
    (hfree : ∀ v, freed = some v → s.recordAt (setOf r.line) v = none) :
    (s.grantAbsent (setOf r.line) e r freed again).Tied none := by
  unfold State.grantAbsent
  split
  · next w hw =>
    dsimp only
    have ht := grantNew_tag r.kind r.port r.fullWrite (tagOf r.line)
    generalize grantNew r.kind r.port r.fullWrite (tagOf r.line) = g at ht
    have hh' : s.holds e (lineOf (setOf r.line) g.record.tag) := by rw [ht, lineOf_setOf_tagOf]; exact hh
    have h1 := h.alloc (r := g.record) hx (DirSet.record_allocWay hw hfree) hh' (ht ▸ hf)
    have hh1 := (SameLines.alloc s (setOf r.line) w g.record e).holds hh'
    exact h1.finishGrant hh1.1 (fun _ => hh1.setOf_eq) r g
  · exact (h.absent hx hh hf).steady (.park s e again hh.1)

theorem State.Tied.resolve (h : s.Tied x) {e : EntryIdx} {r : Request} (hx : ∀ i, x = some i → i = e)
    (hh : s.holds e r.line) {freed : Option Way} (again : Bool)
    (hfree : ∀ v, freed = some v → s.recordAt (setOf r.line) v = none) :
    (s.resolve e r freed again).Tied none := by
  unfold State.resolve
  dsimp only
  split
  · next w hw =>
    obtain ⟨old, hold, ht⟩ := State.findLine_some hw
    have hrec : (s.dirSet (setOf r.line)).record w = some old := hold
    rw [hrec]
    exact h.grantInPlace hx hold (by rw [ht, lineOf_setOf_tagOf]; exact hh) r (grantOn_tag _ _ _ _ _)
  · next hf => exact h.grantAbsent hx hh hf again hfree

theorem State.Tied.decideRequest (h : s.Tied x) {e : EntryIdx} {r : Request} (hx : ∀ i, x = some i → i = e)
    (hh : s.holds e r.line) (again : Bool) : (s.decideRequest e r again).Tied none := by
  have resolved : (s.resolve e r none again).Tied none := h.resolve hx hh again fun v hv => by cases hv
  unfold State.decideRequest
  dsimp only
  split
  · next w hw =>
    obtain ⟨old, hold, ht⟩ := State.findLine_some hw
    have hrec : (s.dirSet (setOf r.line)).record w = some old := hold
    have hb := h.bind hx hold (by rw [ht, lineOf_setOf_tagOf]; exact hh)
    have hu := ((SameLines.bind s (setOf r.line) w e).holds hh).1
    rw [hrec]
    dsimp only
    split
    · exact hb.steady (.startRepair _ e none hu)
    · split
      · exact hb.steady (.startRound _ e _ _ _ hu)
      · exact resolved
  · exact resolved

theorem State.Tied.resolveHeld (h : s.Tied none) {e : EntryIdx} {r : Request} (hh : s.holds e r.line) (again : Bool) :
    (s.resolveHeld e r again).Tied none := by
  have resolved : (s.resolve e r none again).Tied none :=
    h.resolve (fun i hi => by cases hi) hh again fun v hv => by cases hv
  unfold State.resolveHeld
  split
  · split
    · split
      · exact h.steady (.startRepair s e none hh.1)
      · exact resolved
    · exact h
  · exact resolved

/-! ### Notices -/

theorem State.Tied.ack (h : s.Tied x) (r : Request) (b : Bool) : (s.ack r b).Tied x := h.steady (.reply _ _ _ _)

theorem State.Tied.removeHolder (h : s.Tied x) {w : Way} {r : Record} (hr : s.recordAt k w = some r) (a : Agent) :
    (s.removeHolder k w r a).Tied x := by
  unfold State.removeHolder
  split
  · exact h.freeOrPoison hr
  · exact h.writeRec hr rfl

theorem SameLines.removeHolder (s : State) (k : SetIdx) (w : Way) (r : Record) (a : Agent) :
    SameLines s (s.removeHolder k w r a) := by
  unfold State.removeHolder
  split
  · exact .freeOrPoison s k w r
  · exact .of_tt rfl

theorem State.Tied.decideNotice (h : s.Tied x) (r : Request) : (s.decideNotice r).Tied x := by
  unfold State.decideNotice
  split
  · split
    · next w _ old hr =>
      unfold State.noticeOn
      split
      · split
        · exact (h.removeHolder hr _).ack r _
        · exact h.ack r _
      · split
        · exact (h.freeOrPoison hr).ack r _
        · exact h.ack r _
      · exact h.ack r _
      · exact h.ack r _
    · exact h.ack r _
  · exact h.ack r _

theorem SameLines.ack (s : State) (r : Request) (b : Bool) : SameLines s (s.ack r b) := (Steady.reply s _ _ _).lines

theorem SameLines.decideNotice (s : State) (r : Request) : SameLines s (s.decideNotice r) := by
  unfold State.decideNotice
  split
  · split
    · unfold State.noticeOn
      split
      · split
        · exact (SameLines.removeHolder s _ _ _ _).trans (.ack _ r _)
        · exact .ack s r _
      · split
        · exact (SameLines.freeOrPoison s _ _ _).trans (.ack _ r _)
        · exact .ack s r _
      · exact .ack s r _
      · exact .ack s r _
    · exact .ack s r _
  · exact .ack s r _

end

/-! ### Outcomes: requests and transactions (chapters 2 and 3) -/

theorem State.Tied.intakeOutcome {a : Access} (h : a.s.Tied none) (r : Request) : (intakeOutcome r a).Tied none := by
  have hl := Steady.leaveIntake a.s r
  have h1 := h.steady hl
  unfold Machine.intakeOutcome
  dsimp only
  split
  · next e he =>
    have hu := (hl.lines.holds (State.boundEntry_some he)).1
    unfold State.waitOn
    split
    · exact h1.steady (.joinWaiters _ e _ _ hu)
    · exact (h1.steady (.reply _ r.port r.tag _)).beside rfl rfl
  · next hn =>
    split
    · exact (h1.steady (.reply _ r.port r.tag _)).beside rfl rfl
    · split
      · split
        · next e he =>
          obtain ⟨h2, hh⟩ := h1.takeEntry .request (.agent r.port) (some (.agent r.kind r.tag r.fullWrite))
            ((hl.lines e).inUse.trans (State.freeEntry_some he)) (l := r.line) fun i hi =>
              State.boundEntry_none hn i ⟨(hl.lines i).inUse ▸ hi.1, (hl.lines i).line ▸ hi.2⟩
          exact h2.decideRequest (fun i hi => (Option.some.inj hi).symm) hh false
        · exact h
      · exact h1.decideNotice r

/-- The request of an entry is on the line that the entry holds. -/
theorem State.Tied.holds_requestOf {s : State} {x : Option EntryIdx} (h : s.Tied x) {e : EntryIdx} {r : Request}
    (hr : s.requestOf e = some r) : s.holds e r.line := h.holds_of_line (State.line_of_requestOf hr)

theorem State.Tied.resolutionOutcome {a : Access} (h : a.s.Tied none) (e : EntryIdx) :
    (resolutionOutcome e a).Tied none := by
  unfold Machine.resolutionOutcome
  split
  · next hr => exact h.resolveHeld (h.holds_requestOf hr) false
  · exact h

theorem State.Tied.parkedOutcome {a : Access} (h : a.s.Tied none) (e : EntryIdx) : (parkedOutcome e a).Tied none := by
  unfold Machine.parkedOutcome
  split
  · exact h.closeOwn rfl
  · split
    · next hr => exact h.resolveHeld (h.holds_requestOf hr) true
    · exact h

theorem State.Tied.closeOutcome {a : Access} (h : a.s.Tied none) (e : EntryIdx) : (closeOutcome e a).Tied none := by
  unfold Machine.closeOutcome
  dsimp only
  split
  · next hc =>
    refine h.steady (.startRepair _ e _ ?_)
    rcases hu : (a.s.entry e).inUse with _ | _
    · rw [(h.blank e hu).kind] at hc
      cases hc.1
    · rfl
  · exact h.closeOwn rfl

/-- A SERVICE entry on the record of the line that it holds. -/
theorem State.Tied.serveRecall {s : State} {x : Option EntryIdx} (h : s.Tied x) {e : EntryIdx} {w : Way} {old : Record}
    (hx : ∀ i, x = some i → i = e) (hu : (s.entry e).inUse = true) (hf : s.findLine (s.lineOfEntry e) = some w)
    (hr : s.recordAt (setOf (s.lineOfEntry e)) w = some old) (hp : old.state = .poisoned → x = none) :
    (s.serveRecall e w old).Tied none := by
  have hh := h.holds_of_inUse hu
  obtain ⟨q, hq, ht⟩ := State.findLine_some hf
  have hqo : some q = some old := hq.symm.trans hr
  cases hqo
  have hb := h.bind hx hr (by rw [ht, lineOf_setOf_tagOf]; exact hh)
  have hbu := ((SameLines.bind s (setOf (s.lineOfEntry e)) w e).holds hh).1
  unfold State.serveRecall
  split
  · exact hb.steady (.startRound _ e _ _ _ hbu)
  · exact hb.steady (.startRound _ e _ _ _ hbu)
  · exact hb.steady (.startRepair _ e _ hbu)
  · next hst =>
    obtain rfl := hp hst
    exact h.closeRecall e _

theorem State.Tied.handedOnOutcome {a : Access} (h : a.s.Tied none) (e : EntryIdx)
    (hu : (a.s.entry e).inUse = true) : (handedOnOutcome e a).Tied none := by
  unfold Machine.handedOnOutcome
  split
  · unfold State.handedRecall
    split
    · next w hw =>
      split
      · next old hr => exact h.serveRecall (fun i hi => by cases hi) hu hw hr fun _ => rfl
      · exact h
    · exact h.closeRecall e _
  · split
    · exact h.closeOwn rfl
    · split
      · next hr => exact h.decideRequest (fun i hi => by cases hi) (h.holds_requestOf hr) false
      · exact h

theorem State.Tied.decideClearPoison {s : State} (h : s.Tied none) (l : Line) : (s.decideClearPoison l).Tied none := by
  unfold State.decideClearPoison
  split
  · split
    · next w _ _ old hr =>
      unfold State.clearPoisonOn
      split
      · exact (h.freeRec w).beside rfl rfl
      · exact h.beside rfl rfl
      all_goals
        split
        · exact (h.writeRec (r := { old with poison := false }) hr rfl).beside rfl rfl
        · exact h.beside rfl rfl
    · exact h.beside rfl rfl
  · exact h.beside rfl rfl

theorem SameLines.decideClearPoison (s : State) (l : Line) : SameLines s (s.decideClearPoison l) := by
  unfold State.decideClearPoison
  split
  · split
    · unfold State.clearPoisonOn
      split
      · exact .freeRec s _ _
      · exact .of_tt rfl
      all_goals split <;> exact .of_tt rfl
    · exact .of_tt rfl
  · exact .of_tt rfl

theorem State.Tied.decideWaiter {s : State} (h : s.Tied none) {e : EntryIdx} (hu : (s.entry e).inUse = true)
    (i : PoolIdx) (rest : List PoolIdx) (w : Waiter) :
    (s.decideWaiter e i rest w).Tied none ∧ SameLines s (s.decideWaiter e i rest w) := by
  have g : Steady s ((s.setWaiter i none).updEntry e fun y => { y with waiters := rest }) :=
    (Steady.updEntry s e (fun y => { y with waiters := rest }) (.of_inUse hu hu rfl)).beside rfl rfl
  have h1 := h.steady g
  unfold State.decideWaiter
  dsimp only
  split
  · exact ⟨h1.decideNotice _, g.lines.trans (.decideNotice _ _)⟩
  · exact ⟨h1.decideClearPoison _, g.lines.trans (.decideClearPoison _ _)⟩
  · exact ⟨h1, g.lines⟩

theorem State.Tied.releasingOutcome {a : Access} (h : a.s.Tied none) (e : EntryIdx)
    (hu : (a.s.entry e).inUse = true) : (releasingOutcome e a).Tied none := by
  have hh := h.holds_of_inUse hu
  have handed {u : State} (hu : u.Tied none) (hl : SameLines a.s u) :
      (u.handOn (setOf (a.s.lineOfEntry e)) e).Tied none := by
    refine hu.handOn fun l hle => ?_
    rw [(hl e).line, hh.2] at hle
    rw [Option.some.inj hle]
  unfold Machine.releasingOutcome
  dsimp only
  split
  · next i rest _ =>
    split
    · next w _ =>
      split
      · obtain ⟨h1, hl⟩ := h.decideWaiter hu i rest w
        exact handed h1 hl
      · exact handed h (.refl _)
    · exact handed h (.refl _)
  · exact handed h (.refl _)

/-! ### Outcomes: recalls, retirements, repairs (chapters 5 and 7) -/

/-- A record of an unbound slot is held by no entry. -/
theorem State.Tied.not_held {s : State} (h : s.Tied none) {k : SetIdx} {w : Way} {r : Record}
    (hr : s.recordAt k w = some r) (hb : (s.slot k w).bound = none) (i : EntryIdx) : ¬ s.holds i (lineOf k r.tag) := by
  intro hi
  have := (h.sets k).held w r i hr hi (by simp)
  rw [State.slot, this] at hb
  cases hb

/-- An INVALIDATE round or a repair begun for an entry that holds the record's line. -/
theorem State.Tied.takeBack {s : State} {x : Option EntryIdx} (h : s.Tied x) {k : SetIdx} {w : Way} {e : EntryIdx}
    {r : Record} (hx : ∀ i, x = some i → i = e) (hr : s.recordAt k w = some r) (hh : s.holds e (lineOf k r.tag)) :
    (s.takeBack k w r e).Tied none := by
  have hb := h.bind hx hr hh
  have hu := ((SameLines.bind s k w e).holds hh).1
  unfold State.takeBack
  split
  · exact hb.steady (.startRepair _ e none hu)
  · exact hb.steady (.startRound _ e _ _ _ hu)

/-- A transaction begun in a FREE entry on an unbound record (R94, R141, R144). -/
theorem State.Tied.beginStart {s : State} (h : s.Tied none) {k : SetIdx} {w : Way} {e : EntryIdx} {r : Record}
    (hr : s.recordAt k w = some r) (hb : (s.slot k w).bound = none) (he : (s.entry e).inUse = false)
    (kind : EntryKind) : (s.beginStart k w r kind e).Tied none := by
  obtain ⟨h1, hh⟩ := h.takeEntry kind .none none he (h.not_held hr hb)
  exact h1.takeBack (fun i hi => (Option.some.inj hi).symm) hr hh

theorem State.Tied.beginRecall {s : State} (h : s.Tied none) {k : SetIdx} {w : Way} {p e : EntryIdx} {r : Record}
    (hr : s.recordAt k w = some r) (hb : (s.slot k w).bound = none) (he : (s.entry e).inUse = false) :
    (s.beginRecall k w r p e).Tied none := by
  obtain ⟨h1, hh⟩ := h.takeEntry .recallVictim .none none he (h.not_held hr hb)
  have hr1 : (s.takeEntry e (lineOf k r.tag) .recallVictim .none none).recordAt k w = some r := hr
  unfold State.beginRecall
  dsimp only
  generalize s.takeEntry e (lineOf k r.tag) .recallVictim .none none = u at h1 hh hr1 ⊢
  have h2 : State.Tied { u with recallUnit := { u.recallUnit with
      inFlight := u.recallUnit.inFlight + 1
      serves := u.recallUnit.serves.set e.val (some p) } } (some e) := h1.beside rfl rfl
  exact h2.takeBack (fun i hi => (Option.some.inj hi).symm) hr1 hh

/-- A victim is an unbound record (R93). -/
theorem DirSet.victim_some {d : DirSet} {w : Way} (h : d.victim = some w) :
    (d.slot w).bound = none ∧ ∃ r, d.record w = some r ∧ r.poison = false := by
  have hv := List.find?_some (p := fun w => (d.slot w).isVictim) h
  unfold Slot.isVictim at hv
  split at hv
  · next r hr =>
    simp only [Bool.and_eq_true, decide_eq_true_eq, Bool.not_eq_true'] at hv
    exact ⟨hv.1, r, hr, hv.2⟩
  · cases hv

/-- A close after writes that leave the entry its line. -/
theorem State.Tied.closeAfter {s t : State} (h : t.Tied none) (hl : SameLines s t) (e : EntryIdx) :
    (t.closeEntry (setOf (s.lineOfEntry e)) e).Tied none :=
  h.closeOwn (congrArg setOf (hl.lineOfEntry e))

theorem State.Tied.refuseNoSlot {s : State} (h : s.Tied none) (p : EntryIdx) :
    (s.refuseNoSlot (setOf (s.lineOfEntry p)) p).Tied none := by
  unfold State.refuseNoSlot
  split
  · next r _ =>
    have g := Steady.reply s r.port r.tag (.nack r.tag r.line .noSlot)
    refine State.Tied.closeAfter (s := s) ?_ (g.lines.beside ?_) p
    · exact (h.steady g).beside rfl rfl
    · rfl
  · exact h.closeOwn rfl

theorem State.Tied.recallStartOutcome {a : Access} (h : a.s.Tied none) (p : EntryIdx) :
    (recallStartOutcome p a).Tied none := by
  have h1 : (a.s.dropItem (.parked p)).Tied none := h.beside rfl rfl
  unfold Machine.recallStartOutcome
  dsimp only
  split
  · exact h1.closeOwn rfl
  · split
    · exact h1.reserveFor _ p
    · split
      · next w hw =>
        split
        · next r e hr he => exact h1.beginRecall hr (DirSet.victim_some hw).1 (State.freeEntry_some he)
        · exact h
        · exact h
      · exact h1.refuseNoSlot p

theorem State.Tied.freeVictim {s : State} {x : Option EntryIdx} (h : s.Tied x) {k : SetIdx} (w : Way) (e : EntryIdx) :
    (s.freeVictim k w e).Tied x := by
  unfold State.freeVictim
  split
  · exact (h.freeRec w).reserveFor w _
  · exact h.freeRec w

theorem SameLines.freeVictim (s : State) (k : SetIdx) (w : Way) (e : EntryIdx) : SameLines s (s.freeVictim k w e) := by
  unfold State.freeVictim
  split
  · exact (SameLines.freeRec s k w).trans (.reserveFor _ k w _)
  · exact .freeRec s k w

theorem State.heldRecord_some {s : State} {e : EntryIdx} {w : Way} {r : Record} (h : s.heldRecord e = some (w, r)) :
    s.findLine (s.lineOfEntry e) = some w ∧ s.recordAt (setOf (s.lineOfEntry e)) w = some r := by
  unfold State.heldRecord at h
  split at h
  · next v hv =>
    obtain ⟨q, hq, he⟩ := Option.map_eq_some_iff.1 h
    cases he
    exact ⟨hv, hq⟩
  · cases h

/-- A record written POISONED, with a report: what a lost owner and a poisoned repair leave. -/
theorem State.Tied.poisonReported {s t : State} {x : Option EntryIdx} (h : s.Tied x) {k : SetIdx} {w : Way} {r : Record}
    (hr : s.recordAt k w = some r) (hd : t.dir = (s.writePoisoned k w r).dir) (ht : t.tt = s.tt) :
    t.Tied x ∧ SameLines s t ∧ ∃ q, t.recordAt k w = some q := by
  refine ⟨(h.writePoisoned hr rfl).beside hd ht, .of_tt ht, { r with state := .poisoned, holders := 0, poison := true }, ?_⟩
  exact (State.recordAt_congr hd k w).trans (State.recordAt_writeRec h.wf w _)

theorem State.Tied.resolveRecall {s : State} (h : s.Tied none) {w : Way} {r : Record} {e : EntryIdx}
    (hr : s.recordAt (setOf (s.lineOfEntry e)) w = some r) (hu : (s.entry e).inUse = true) :
    (s.resolveRecall (setOf (s.lineOfEntry e)) w r e).Tied none := by
  unfold State.resolveRecall
  split
  · exact h.steady (.startRepair _ e none hu)
  · split
    · next o _ =>
      obtain ⟨h1, hl, -⟩ := h.poisonReported (t := s.poisonLost (setOf (s.lineOfEntry e)) w r o e) hr rfl rfl
      have g := Steady.withhold (s.poisonLost (setOf (s.lineOfEntry e)) w r o e) e
      exact (h1.steady g).closeAfter (hl.trans g.lines) e
    · exact (h.freeVictim w e).closeAfter (.freeVictim _ _ w e) e

theorem State.Tied.recallOutcome {a : Access} (h : a.s.Tied none) (e : EntryIdx) (hu : (a.s.entry e).inUse = true) :
    (recallOutcome e a).Tied none := by
  have h1 : (a.s.dropAccess e).Tied none := h.beside rfl rfl
  unfold Machine.recallOutcome
  dsimp only
  split
  · next hw => exact h1.resolveRecall (State.heldRecord_some hw).2 hu
  · exact h1.closeOwn rfl

theorem State.Tied.moveOrWait {s : State} {x : Option EntryIdx} (h : s.Tied x) {k : SetIdx} {w : Way} {r : Record}
    (hr : s.recordAt k w = some r) : (s.moveOrWait k w).Tied x := by
  unfold State.moveOrWait
  split
  · next v hv => exact h.moveRecord hr (DirSet.moveWay_some (DirSet.moveTarget_some hv).2).1
  · exact h.steady (.joinRetireList s k w _)

theorem SameLines.moveOrWait (s : State) (k : SetIdx) (w : Way) : SameLines s (s.moveOrWait k w) := by
  unfold State.moveOrWait
  split
  · exact .moveRecord s k w _
  · exact (Steady.joinRetireList s k w _).lines

theorem State.Tied.retireStartOutcome {a : Access} (h : a.s.Tied none) (k : SetIdx) (w : Way) :
    (retireStartOutcome k w a).Tied none := by
  have h1 : (a.s.dropItem (.retire k w)).Tied none := h.beside rfl rfl
  unfold Machine.retireStartOutcome
  dsimp only
  split
  · exact h1
  · split
    · exact h1.beside rfl rfl
    · split
      · exact (h1.retireFree w).beside rfl rfl
      · next r hr =>
        unfold State.retireRecord
        split
        · exact h1.steady (.joinRetireList _ k w _)
        · next hb =>
          split
          · split
            · next e he =>
              exact h1.beginStart hr (Option.not_isSome_iff_eq_none.1 hb) (State.freeEntry_some he) .retire
            · exact h
          · exact h1.moveOrWait hr

theorem State.Tied.withdrawFreed {s : State} {x : Option EntryIdx} (h : s.Tied x) {k : SetIdx} (w : Way) :
    (s.withdrawFreed k w).Tied x := (h.retireFree w).beside rfl rfl

theorem SameLines.withdrawFreed (s : State) (k : SetIdx) (w : Way) : SameLines s (s.withdrawFreed k w) :=
  .of_tt (State.tt_retireFree s k w)

theorem State.Tied.resolveRetire {s : State} (h : s.Tied none) {w : Way} {r : Record} {e : EntryIdx}
    (hr : s.recordAt (setOf (s.lineOfEntry e)) w = some r) (hu : (s.entry e).inUse = true) :
    (s.resolveRetire (setOf (s.lineOfEntry e)) w r e).Tied none := by
  unfold State.resolveRetire
  split
  · exact h.steady (.startRepair _ e none hu)
  · split
    · next o _ =>
      obtain ⟨h1, hl, q, hq⟩ := h.poisonReported (t := s.poisonLost (setOf (s.lineOfEntry e)) w r o e) hr rfl rfl
      exact (h1.moveOrWait hq).closeAfter (hl.trans (.moveOrWait _ _ w)) e
    · exact ((h.freeRec w).withdrawFreed w).closeAfter ((SameLines.freeRec s _ w).trans (.withdrawFreed _ _ w)) e

theorem State.Tied.retireOutcome {a : Access} (h : a.s.Tied none) (e : EntryIdx) (hu : (a.s.entry e).inUse = true) :
    (retireOutcome e a).Tied none := by
  have h1 : (a.s.dropAccess e).Tied none := h.beside rfl rfl
  unfold Machine.retireOutcome
  dsimp only
  split
  · next hw => exact h1.resolveRetire (State.heldRecord_some hw).2 hu
  · exact h1.closeOwn rfl

theorem State.wantsRepair_some {s : State} {k : SetIdx} {w : Way} {i : StartItem} (h : s.wantsRepair k w = some i) :
    (s.slot k w).bound = none := by
  unfold State.wantsRepair at h
  dsimp only at h
  split at h
  · split at h
    · next hc => exact hc.2
    · cases h
  · cases h

theorem State.Tied.repairStartOutcome {a : Access} (h : a.s.Tied none) (k : SetIdx) (t : Tag) :
    (repairStartOutcome k t a).Tied none := by
  have h1 : (a.s.dropItem (.repair k t)).Tied none := h.beside rfl rfl
  unfold Machine.repairStartOutcome
  dsimp only
  split
  · exact h1
  · split
    · next hw hr he => exact h1.beginStart hr (State.wantsRepair_some hw) (State.freeEntry_some he) .repair
    · exact h
    · exact h1
    · exact h1

theorem State.Tied.endDamage {s : State} {x : Option EntryIdx} (h : s.Tied x) (k : SetIdx) (w : Way) :
    (s.endDamage k w).Tied x := by
  unfold State.endDamage
  split
  · exact (h.setSlot (k := k) w { s.slot k w with damageMark := false } rfl rfl).beside rfl rfl
  · exact h

theorem SameLines.endDamage (s : State) (k : SetIdx) (w : Way) : SameLines s (s.endDamage k w) := by
  unfold State.endDamage
  split
  · exact .of_tt rfl
  · exact .refl s

theorem State.recordAt_endDamage {s : State} (h : s.dir.wf = true) (k : SetIdx) (w : Way) :
    (s.endDamage k w).recordAt k w = s.recordAt k w := by
  unfold State.endDamage
  split
  · show ((s.setSlot k w _).dirSet k).record w = _
    unfold State.setSlot
    rw [State.dirSet_updSet_same _ _ _ h, DirSet.record, DirSet.slot_setSlot_same]
    rfl
  · rfl

section
variable {s : State} {w : Way} {r : Record} {e : EntryIdx}

theorem State.Tied.repairKeep (h : s.Tied none) (hr : s.recordAt (setOf (s.lineOfEntry e)) w = some r) (a : Agent)
    (poison : Bool) : (s.repairKeep (setOf (s.lineOfEntry e)) w r e a poison).Tied none := by
  have h1 := h.writeRec (r := keepRecord r a (s.entry e).grantSent poison) hr rfl
  have h2 := h1.toFront (State.recordAt_writeRec h.wf w _)
  unfold State.repairKeep
  dsimp only
  cases poison with
  | true =>
    rw [if_pos rfl]
    refine State.Tied.closeAfter (s := s) ?_ (.of_tt ?_) e
    · exact h2.beside rfl rfl
    · rfl
  | false =>
    rw [if_neg Bool.false_ne_true]
    exact h2.closeAfter (s := s) (.of_tt rfl) e

theorem State.Tied.repairBad (h : s.Tied none) (hr : s.recordAt (setOf (s.lineOfEntry e)) w = some r) :
    (s.repairBad (setOf (s.lineOfEntry e)) w r e).Tied none := by
  obtain ⟨h1, hl, q, hq⟩ := h.poisonReported (t := s.repairToPoison (setOf (s.lineOfEntry e)) w r e) hr rfl rfl
  unfold State.repairBad
  dsimp only
  generalize s.repairToPoison (setOf (s.lineOfEntry e)) w r e = u at h1 hl hq ⊢
  split
  · split
    · next r hreq =>
      exact h1.resolve (fun i hi => by cases hi) (hl.holds (h.holds_requestOf hreq)) false fun v hv => by cases hv
    · exact h1
  · exact (h1.steady (.withhold u e)).closeAfter (hl.trans (Steady.withhold u e).lines) e
  · exact (h1.moveOrWait hq).closeAfter (hl.trans (.moveOrWait u _ w)) e
  · exact h1.closeAfter hl e
  · exact h1.closeAfter hl e
  · exact h1.closeRecall e _
  · exact h1

theorem State.Tied.repairGood (h : s.Tied none) :
    (s.repairGood (setOf (s.lineOfEntry e)) w e).Tied none := by
  have h1 := h.freeRec (k := setOf (s.lineOfEntry e)) w
  have hl := SameLines.freeRec s (setOf (s.lineOfEntry e)) w
  have hfree := State.recordAt_freeRec_self (k := setOf (s.lineOfEntry e)) h.wf w
  unfold State.repairGood
  dsimp only
  generalize s.freeRec (setOf (s.lineOfEntry e)) w = u at h1 hl hfree ⊢
  split
  · split
    · next q hq =>
      have hline := h.holds_requestOf hq
      refine h1.resolve (fun i hi => by cases hi) (hl.holds hline) false fun v hv => ?_
      cases hv
      rw [← hline.lineOfEntry]
      exact hfree
    · exact h1
  · exact (h.freeVictim w e).closeAfter (.freeVictim s _ w e) e
  · exact (h1.withdrawFreed w).closeAfter (hl.trans (.withdrawFreed u _ w)) e
  · exact h1.closeAfter hl e
  · exact h1.closeAfter hl e
  · exact h1.closeRecall e _
  · exact h1

/-- The resolution of a repair round on the record of the entry's line (R140). -/
theorem State.Tied.resolveRepair (h : s.Tied none) (hr : s.recordAt (setOf (s.lineOfEntry e)) w = some r) :
    (s.resolveRepair (setOf (s.lineOfEntry e)) w r e).Tied none := by
  have hl := (SameLines.endDamage s (setOf (s.lineOfEntry e)) w).lineOfEntry e
  have h1 := h.endDamage (setOf (s.lineOfEntry e)) w
  have hr1 := (State.recordAt_endDamage h.wf (setOf (s.lineOfEntry e)) w).trans hr
  unfold State.resolveRepair
  dsimp only
  generalize s.repairPoisoned r e = poison
  generalize s.endDamage (setOf (s.lineOfEntry e)) w = u at h1 hr1 hl ⊢
  rw [← hl] at hr1 ⊢
  split
  · exact h1.repairKeep hr1 _ poison
  · split
    · exact h1.repairBad hr1
    · exact h1.repairGood

end

theorem State.Tied.repairOutcome {a : Access} (h : a.s.Tied none) (e : EntryIdx) (hu : (a.s.entry e).inUse = true) :
    (repairOutcome e a).Tied none := by
  have h1 : (a.s.dropAccess e).Tied none := h.beside rfl rfl
  unfold Machine.repairOutcome
  dsimp only
  split
  · next w r hw =>
    split
    · exact h1.steady (.startRepair _ e _ hu)
    · exact h1.resolveRepair (State.heldRecord_some hw).2
  · exact h1.closeOwn rfl

/-! ### Outcomes: walks (sections 6.5 and 6.6) -/

theorem State.Tied.purgeSlot {s : State} (h : s.Tied none) (k : SetIdx) (w : Way) : (State.purgeSlot k s w).Tied none := by
  unfold State.purgeSlot
  dsimp only
  split
  · next r hr =>
    split
    · unfold State.purgeRecord
      split
      · dsimp only
        split
        · exact h
        · split
          · exact h.freeOrPoison hr
          · exact h.writeRec hr rfl
      · split
        · split
          · exact (h.writePoisoned hr rfl).beside rfl rfl
          · exact h
        · exact h
      · exact h
      · exact h
    · exact h
  · exact h

theorem Steady.purgeOn (s : State) : Steady s s.purgeOn := by
  refine .trans (.of_eq (t := { s with purge := { s.purge with pos := s.purge.pos + 1 } }) rfl) (.foldl _ ?_ _ _)
  intro u p
  unfold State.purgeEnd
  split <;> exact .of_eq rfl

theorem State.Tied.foldl {α : Type} {x : Option EntryIdx} (g : State → α → State)
    (hg : ∀ s a, s.Tied x → (g s a).Tied x) (l : List α) {s : State} (h : s.Tied x) : (l.foldl g s).Tied x := by
  induction l generalizing s with
  | nil => exact h
  | cons a l ih => exact ih (hg s a h)

theorem State.Tied.purgeOutcome {a : Access} (h : a.s.Tied none) (k : SetIdx) : (purgeOutcome k a).Tied none :=
  (State.Tied.foldl _ (fun _ w hs => hs.purgeSlot k w) allWays h).steady (.purgeOn _)

/-- The leave walker's way holds an unbound record (R125). -/
theorem DirSet.leaveWay_some {d : DirSet} {p : Agent} {w : Way} (h : d.leaveWay p = some w) :
    (d.slot w).bound = none := by
  have hw := List.find?_some (p := fun w => d.mayHold p w && decide ((d.slot w).bound = none)) h
  simp only [Bool.and_eq_true, decide_eq_true_eq] at hw
  exact hw.2

theorem State.Tied.beginRetract {s : State} (h : s.Tied none) {k : SetIdx} {w : Way} {e : EntryIdx} {r : Record}
    (hr : s.recordAt k w = some r) (hb : (s.slot k w).bound = none) (he : (s.entry e).inUse = false) (p : Agent) :
    (s.beginRetract k w r p e).Tied none := by
  obtain ⟨h1, hh⟩ := h.takeEntry .retract .none none he (h.not_held hr hb)
  have hr1 : (s.takeEntry e (lineOf k r.tag) .retract .none none).recordAt k w = some r := hr
  unfold State.beginRetract
  dsimp only
  generalize s.takeEntry e (lineOf k r.tag) .retract .none none = u at h1 hh hr1 ⊢
  have g : Steady u (u.updEntry e fun y => { y with target := some p }) := .updEntry u e _ (.of_inUse hh.1 hh.1 rfl)
  have h2 := h1.steady g
  have hh2 := g.lines.holds hh
  have hr2 : (u.updEntry e fun y => { y with target := some p }).recordAt k w = some r := hr1
  generalize (u.updEntry e fun y => { y with target := some p }) = v at h2 hh2 hr2 ⊢
  have h3 : State.Tied { v with
      recallUnit := { v.recallUnit with inFlight := v.recallUnit.inFlight + 1 }
      leave := { v.leave with retracts := v.leave.retracts + 1 } } (some e) := h2.beside rfl rfl
  have h4 := h3.bind (fun i hi => (Option.some.inj hi).symm) hr2 hh2
  have hu := ((SameLines.bind _ k w e).holds (l := lineOf k r.tag) hh2).1
  split
  · exact h4.steady (.startRepair _ e none hu)
  · exact h4.steady (.startRound _ e _ _ _ hu)

theorem State.Tied.leaveOutcome {a : Access} (h : a.s.Tied none) (k : SetIdx) (p : Agent) :
    (leaveOutcome k p a).Tied none := by
  unfold Machine.leaveOutcome
  dsimp only
  split
  · next w hw =>
    split
    · next r e hr he =>
      split
      · exact h.beginRetract hr (DirSet.leaveWay_some hw) (State.freeEntry_some he) p
      · exact h.beside rfl rfl
    · exact h.beside rfl rfl
    · exact h
  · split <;> exact h.beside rfl rfl

theorem State.Tied.retractOutcome {a : Access} (h : a.s.Tied none) (e : EntryIdx) (hu : (a.s.entry e).inUse = true) :
    (retractOutcome e a).Tied none := by
  unfold Machine.retractOutcome
  dsimp only
  split
  · next w r p hw _ =>
    have hr := (State.heldRecord_some hw).2
    unfold State.resolveRetract
    split
    · exact h.steady (.startRepair _ e none hu)
    · split
      · exact h.closeOwn rfl
      · unfold State.retractFrom
        split
        · split
          · exact (h.removeHolder hr p).closeAfter (.removeHolder _ _ _ _ _) e
          · exact h.closeOwn rfl
        · split
          · exact (h.freeOrPoison hr).closeAfter (.freeOrPoison _ _ _ _) e
          · exact h.closeOwn rfl
        · exact h.closeOwn rfl
        · exact h.closeOwn rfl
  · exact h.closeOwn rfl
  · exact h.closeOwn rfl

/-! ### Outcomes: service commands (sections 10.4 and 10.5) -/

theorem State.Tied.serviceWaits {s : State} (h : s.Tied none) {e : EntryIdx} (hu : (s.entry e).inUse = true)
    (w : Waiter) : (s.serviceWaits e w).Tied none := by
  unfold State.serviceWaits
  split
  · exact h.steady (.trans (.joinWaiters s e _ w hu) (.of_eq rfl))
  · exact h.beside rfl rfl

theorem State.Tied.serviceMiss {s : State} (h : s.Tied none) (l : Line) : (s.serviceMiss l).Tied none := by
  unfold State.serviceMiss
  split <;> exact h.beside rfl rfl

/-- RECALL_LINE begun on an unbound line whose record is not POISONED (R100). -/
theorem State.Tied.beginService {s : State} (h : s.Tied none) {l : Line} {w : Way} {r : Record}
    (hn : ∀ i, ¬ s.holds i l) (hw : s.findLine l = some w) (hr : s.recordAt (setOf l) w = some r)
    (hst : r.state ≠ .poisoned) : (s.beginService l w r).Tied none := by
  unfold State.beginService
  split
  · next e he =>
    obtain ⟨h1, hh⟩ := h.takeEntry .service .service (some .recallLine) (State.freeEntry_some he) hn
    have hw1 : (s.takeEntry e l .service .service (some .recallLine)).findLine l = some w := hw
    have hr1 : (s.takeEntry e l .service .service (some .recallLine)).recordAt (setOf l) w = some r := hr
    generalize s.takeEntry e l .service .service (some .recallLine) = u at h1 hh hw1 hr1 ⊢
    have h2 : (u.updSvc fun v => { v with waiting := .entry e }).Tied (some e) := h1.beside rfl rfl
    have hl := hh.lineOfEntry
    refine h2.serveRecall (fun i hi => (Option.some.inj hi).symm) hh.1 ?_ ?_ fun hp => absurd hp hst
    · exact (congrArg u.findLine hl).trans hw1
    · exact (congrArg (fun l => u.recordAt (setOf l) w) hl).trans hr1
  · exact h.beside rfl rfl

theorem State.Tied.recallLineOutcome {a : Access} (h : a.s.Tied none) : (recallLineOutcome a).Tied none := by
  unfold Machine.recallLineOutcome
  dsimp only
  split
  · next e he => exact h.serviceWaits (State.boundEntry_some he).1 _
  · next hn =>
    split
    · exact h.serviceMiss _
    · next w hw =>
      split
      · next r hr =>
        split
        · exact h.beside rfl rfl
        · next hst => exact h.beginService (State.boundEntry_none hn) hw hr hst
      · exact h

theorem State.Tied.resolveService {s : State} (h : s.Tied none) {w : Way} {r : Record} {e : EntryIdx}
    (hr : s.recordAt (setOf (s.lineOfEntry e)) w = some r) (hu : (s.entry e).inUse = true) :
    (s.resolveService (setOf (s.lineOfEntry e)) w r e).Tied none := by
  unfold State.resolveService
  split
  · exact h.steady (.startRepair s e none hu)
  all_goals
    split
    · refine State.Tied.closeRecall ?_ e _
      exact (h.writePoisoned hr rfl).beside rfl rfl
    · split
      · exact (h.writePoisoned hr rfl).closeRecall e _
      · exact (h.freeRec w).closeRecall e _

theorem State.Tied.serviceOutcome {a : Access} (h : a.s.Tied none) (e : EntryIdx) (hu : (a.s.entry e).inUse = true) :
    (serviceOutcome e a).Tied none := by
  unfold Machine.serviceOutcome
  dsimp only
  split
  · split
    · next hr => exact h.resolveService hr hu
    · exact h
  · exact h.closeRecall e _

theorem State.Tied.clearPoisonOutcome {a : Access} (h : a.s.Tied none) : (clearPoisonOutcome a).Tied none := by
  unfold Machine.clearPoisonOutcome
  dsimp only
  split
  · next e he => exact h.serviceWaits (State.boundEntry_some he).1 _
  · split
    · exact h.serviceMiss _
    · exact h.decideClearPoison _

theorem State.Tied.setLost {s : State} {x : Option EntryIdx} (h : s.Tied x) (k : SetIdx) (b : Bool) :
    (s.updSet k fun d => { d with lost := b }).Tied x :=
  h.updSet ((h.sets k).same (h.sets k).nodup (fun _ => Iff.rfl) (fun _ => rfl) fun _ => rfl)

theorem State.Tied.clearSetOutcome {a : Access} (h : a.s.Tied none) : (clearSetOutcome a).Tied none := by
  unfold Machine.clearSetOutcome
  dsimp only
  split
  · exact h.beside rfl rfl
  · split
    · exact (h.setLost _ false).beside rfl rfl
    · exact h.beside rfl rfl

theorem State.Tied.lookupOutcome {a : Access} (h : a.s.Tied none) : (lookupOutcome a).Tied none := by
  unfold Machine.lookupOutcome
  split
  · exact h.beside rfl rfl
  · exact h

end Sys2Proof.Machine
end

section
/-! PROOF. The checks and the end of an access keep directory and table in agreement, and so does every step (O56). -/

namespace Sys2Proof.Machine

/-! ### The checks of an access -/

section
variable {s : State} {x : Option EntryIdx} {k : SetIdx}

theorem Slot.content_strike (y : Slot) (c : CellFault) : (y.strike c).content = y.content := by
  unfold Slot.strike
  split <;> rfl

theorem Slot.bound_strike (y : Slot) (c : CellFault) : (y.strike c).bound = y.bound := by
  unfold Slot.strike
  split <;> rfl

theorem State.Tied.strike (h : s.Tied x) (f : List CellFault) : (s.strike k f).Tied x := by
  refine State.Tied.foldl _ (fun u c hu => ?_) f h
  exact hu.setSlot c.way _ (congrArg (Option.map Record.tag) (Slot.content_strike _ c)) (Slot.bound_strike _ c)

theorem State.Tied.markDamage (h : s.Tied x) (w : Way) : (s.markDamage k w).Tied x := by
  unfold State.markDamage
  exact (h.setSlot (k := k) w { s.slot k w with damageMark := true } rfl rfl).beside rfl rfl

/-- The record of an occupied slot written DAMAGED under its own tag. -/
theorem State.Tied.writeDamaged (h : s.Tied x) {w : Way} {r : Record} (hr : (s.slot k w).content = some r) (p : Bool)
    (sel : WordSel) (n : Option Txn) : (s.writeDamaged k w r.tag p sel n).Tied x := by
  have h1 := h.setSlot (k := k) w ((s.slot k w).write (some ⟨r.tag, .damaged, 0, p⟩))
    (by rw [show s.recordAt k w = some r from hr]; rfl) rfl
  exact (h1.markDamage w).beside rfl rfl

theorem State.Tied.rewriteHolder (h : s.Tied x) (w : Way) : (s.rewriteHolder k w).Tied x := by
  unfold State.rewriteHolder
  exact (h.setSlot (k := k) w { s.slot k w with holderEcc := .good } rfl rfl).beside rfl rfl

theorem State.Tied.checkHolder (h : s.Tied x) (w : Way) (c : WordCond) : (s.checkHolder k w c).Tied x := by
  unfold State.checkHolder
  split
  · exact h
  · exact h.rewriteHolder w
  · split
    · exact h.rewriteHolder w
    · next r hr =>
      split
      · exact h.rewriteHolder w
      · exact h.writeDamaged hr _ _ _

/-- A bound slot holds the record of its entry's line (R6, R135). -/
theorem State.Tied.of_boundLine (h : s.Tied x) {w : Way} {e : EntryIdx} {l : Line}
    (hb : s.boundLine k w = some (e, l)) : ∃ r, (s.slot k w).content = some r ∧ tagOf l = r.tag := by
  unfold State.boundLine at hb
  split at hb
  · next i hi =>
    obtain ⟨m, hm, he⟩ := Option.map_eq_some_iff.1 hb
    cases he
    rcases hr : (s.dirSet k).record w with _ | r
    · rw [State.slot, (h.sets k).free w hr] at hi
      cases hi
    · refine ⟨r, hr, ?_⟩
      have hl := (h.sets k).bound w r e hr hi
      rw [show l = lineOf k r.tag from Option.some.inj (hm.symm.trans hl.2), tagOf_lineOf]
  · cases hb

theorem State.Tied.withdraw {c : Checked} (h : c.s.Tied x) (w : Way) : (c.withdraw k w).s.Tied x := by
  have h1 := (h.endDamage k w).withdrawSlot (k := k) w (if (c.s.dirSet k).mapHasRoom then .retired else .quarantined)
  have h2 : State.Tied { (c.s.endDamage k w).withdrawSlot k w
        (if (c.s.dirSet k).mapHasRoom then .retired else .quarantined) with
      integ := { ((c.s.endDamage k w).withdrawSlot k w
        (if (c.s.dirSet k).mapHasRoom then .retired else .quarantined)).integ with
      retireList := ((c.s.endDamage k w).withdrawSlot k w
        (if (c.s.dirSet k).mapHasRoom then .retired else .quarantined)).integ.retireList.filter
          fun i => !(decide (i.set = k) && decide (i.way = w)) } } x := h1.beside rfl rfl
  unfold Checked.withdraw
  dsimp only
  generalize (c.s.endDamage k w).withdrawSlot k w (if (c.s.dirSet k).mapHasRoom then .retired else .quarantined) = u
    at h1 h2 ⊢
  split <;> split
  · exact h2.beside rfl rfl
  · exact (h2.setLost k true).beside rfl rfl
  · exact h2.beside rfl rfl
  · exact (h2.setLost k true).beside rfl rfl

theorem State.Tied.checkSlot {c : Checked} (h : c.s.Tied x) (w : Way) : (Checked.slot k c w).s.Tied x := by
  have h1 : (c.s.setSlot k w (c.s.slot k w).worn).Tied x := h.setSlot w _ rfl rfl
  unfold Checked.slot
  dsimp only
  split
  · exact h
  · split
    · exact h1.checkHolder w _
    · have h2 := h1.setSlot (k := k) w { (c.s.setSlot k w (c.s.slot k w).worn).slot k w with tagEcc := .good } rfl rfl
      refine State.Tied.checkHolder ?_ w _
      exact h2.beside rfl rfl
    · split
      · next e l hb =>
        obtain ⟨r, hr, ht⟩ := h.of_boundLine hb
        have hr1 : ((c.s.setSlot k w (c.s.slot k w).worn).slot k w).content = some r := by
          unfold State.setSlot
          rw [State.slot_updSet_same _ _ _ _ h.wf, DirSet.slot_setSlot_same]
          exact hr
        have h2 := h1.writeDamaged hr1 true .tag (some ((c.s.setSlot k w (c.s.slot k w).worn).txn e))
        rw [ht]
        split
        · exact h2
        · exact h2.beside rfl rfl
      · exact State.Tied.withdraw (c := { c with s := c.s.setSlot k w (c.s.slot k w).worn }) h1 w

theorem State.Tied.check (h : s.Tied x) : (s.check k).s.Tied x := by
  have fold (l : List Way) (c : Checked) (hc : c.s.Tied x) : (l.foldl (Checked.slot k) c).s.Tied x := by
    induction l generalizing c with
    | nil => exact hc
    | cons w l ih => exact ih _ (hc.checkSlot w)
  exact fold allWays ⟨s, [], [], false⟩ h

theorem State.Tied.consider {a : Access} (h : a.s.Tied x) (w : Way) : (a.consider k w).s.Tied x := by
  unfold Access.consider
  split
  · split
    · exact h.retireFree w
    · exact h
  · exact h

theorem State.Tied.beginAccess (h : s.Tied x) (f : List CellFault) : (s.beginAccess k f).s.Tied x := by
  have fold (l : List Way) (a : Access) (ha : a.s.Tied x) : (l.foldl (Access.consider k) a).s.Tied x := by
    induction l generalizing a with
    | nil => exact ha
    | cons w l ih => exact ih _ (ha.consider w)
  have hc := (h.strike (k := k) f).check (k := k)
  unfold State.beginAccess
  dsimp only
  generalize (s.strike k f).check k = c at hc ⊢
  split
  · exact fold c.errs ⟨c.s, [], [], c.rebuilt, c.marked⟩ hc
  · exact hc

/-! ### The end of an access -/

theorem State.Tied.judgeSlot {a : State × List Way} (h : a.1.Tied x) (w : Way) : (State.judgeSlot k a w).1.Tied x := by
  unfold State.judgeSlot
  dsimp only
  split
  · exact h
  · split
    · exact h.beside rfl rfl
    · split
      · exact (h.retireFree w).beside rfl rfl
      · next r hr =>
        split
        · exact h.steady (.joinRetireList _ k w _)
        · split
          · exact h
          · split
            · next v hv => exact h.moveRecord hr (DirSet.moveWay_some (DirSet.moveTarget_some hv).2).1
            · exact h.steady (.joinRetireList _ k w _)

theorem State.Tied.examineSlot {a : State × List Way} (h : a.1.Tied x) (w : Way) :
    (State.examineSlot k a w).1.Tied x := by
  unfold State.examineSlot
  dsimp only
  split
  · exact h
  · split
    · exact h.beside rfl rfl
    · split
      · have h1 := h.retireFree (k := k) w
        generalize a.1.retireFree k w = y at h1 ⊢
        exact h1.beside rfl rfl
      · next r hr =>
        split
        · exact h.beside rfl rfl
        · split
          · exact h
          · split
            · next v hv =>
              have h1 := h.moveRecord (k := k) (w := w) (v := v) hr (DirSet.moveWay_some (DirSet.moveTarget_some hv).2).1
              generalize a.1.moveRecord k w v = u at h1 ⊢
              exact h1.beside rfl rfl
            · split <;> exact h.beside rfl rfl

theorem State.Tied.endOfAccess (h : s.Tied x) (judge : List Way) : (s.endOfAccess k judge).Tied x := by
  have fold (g : State × List Way → Way → State × List Way)
      (hg : ∀ a w, a.1.Tied x → (g a w).1.Tied x) (l : List Way) (a : State × List Way) (ha : a.1.Tied x) :
      (l.foldl g a).1.Tied x := by
    induction l generalizing a with
    | nil => exact ha
    | cons w l ih => exact ih _ (hg a w ha)
  have h1 := fold (State.judgeSlot k) (fun _ w ha => ha.judgeSlot w) judge (s, []) h
  have h2 := fold (State.examineSlot k) (fun _ w ha => ha.examineSlot w) allWays _ h1
  unfold State.endOfAccess
  dsimp only
  generalize allWays.foldl (State.examineSlot k) (judge.foldl (State.judgeSlot k) (s, [])) = b at h2 ⊢
  refine State.Tied.foldl _ (fun u w hu => ?_) b.2 ?_
  · unfold State.dropQueued
    split
    · exact hu.beside rfl rfl
    · exact hu
  · exact h2.beside rfl rfl

theorem State.Tied.access (h : s.Tied none) (f : List CellFault) (outcome : Access → State)
    (ho : (s.beginAccess k f).s.Tied none → (outcome (s.beginAccess k f)).Tied none) :
    (s.access k f outcome).Tied none := by
  have h1 := ho (h.beginAccess f)
  unfold State.access
  dsimp only
  split
  · refine State.Tied.endOfAccess ?_ _
    exact h1.beside rfl rfl
  · exact h1

end

/-! ### The entry that an access works for -/

/-- The entry whose transaction or RELEASING the access is about, where there is one. -/
def Due.worksOn : Due → Option EntryIdx
  | .resolution e | .parked e | .close e | .handedOn e | .releasing e | .serviceResolution e | .retractResolution e
  | .repairResolution e | .recallResolution e | .retireResolution e => some e
  | .intake _ | .recallStart _ | .retireStart _ _ | .repairStart _ _ | .service _ | .purge | .leave _ | .scrub => none

/-- The access of a settled round works on its entry, and a FREE entry has none. -/
theorem Entry.resolutionDue_some {y : Entry} {e : EntryIdx} {d : Due} (hb : y.inUse = false → y.Blank)
    (h : y.resolutionDue e = some d) : d.worksOn = some e ∧ y.inUse = true := by
  have used (hk : y.repairRound = true ∨ y.kind ≠ none) : y.inUse = true := by
    rcases hu : y.inUse with _ | _
    · rcases hk with hk | hk
      · rw [(hb hu).repairRound] at hk
        cases hk
      · exact absurd (hb hu).kind hk
    · rfl
  unfold Entry.resolutionDue at h
  split at h
  · next hr =>
    cases h
    exact ⟨rfl, used (.inl hr)⟩
  · split at h <;> cases h
    all_goals
      next hk => exact ⟨rfl, used (.inr (by rw [hk]; exact Option.some_ne_none _))⟩

theorem Entry.inUse_of_phase {y : Entry} (h : y.phase ≠ .free) : y.inUse = true := by
  unfold Entry.inUse
  exact decide_eq_true h

/-- The access of an entry's claim works on that entry, which is in use. -/
theorem Entry.due_some {y : Entry} {e : EntryIdx} {d : Due} (hb : y.inUse = false → y.Blank)
    (h : y.due e = some d) : d.worksOn = some e ∧ y.inUse = true := by
  unfold Entry.due at h
  split at h
  · cases h
  · next hp => cases h; exact ⟨rfl, Entry.inUse_of_phase (by rw [hp]; decide)⟩
  · exact Entry.resolutionDue_some hb h
  all_goals
    next hp => cases h; exact ⟨rfl, Entry.inUse_of_phase (by rw [hp]; decide)⟩

theorem State.Tied.inUse_of_due {s : State} {x : Option EntryIdx} (h : s.Tied x) {d : Due} {e : EntryIdx}
    (hd : s.due = some d) (he : d.worksOn = some e) : (s.entry e).inUse = true := by
  have of_entry {i : EntryIdx} (hi : d.worksOn = some i ∧ (s.entry i).inUse = true) : (s.entry e).inUse = true := by
    rw [show e = i from Option.some.inj (he.symm.trans hi.1)]
    exact hi.2
  have no {d' : Due} (hd' : some d' = some d) (hn : d'.worksOn = none) : (s.entry e).inUse = true := by
    cases hd'
    rw [hn] at he
    cases he
  unfold State.due at hd
  split at hd
  · cases hd
  · next i _ => exact of_entry (Entry.due_some (h.blank i) hd)
  · unfold State.recallDue at hd
    split at hd
    · next i rest _ => exact of_entry (Entry.resolutionDue_some (h.blank i) hd)
    · obtain ⟨item, -, rfl⟩ := Option.map_eq_some_iff.1 hd
      cases item <;> exact no rfl rfl
  · exact no hd rfl
  · exact no hd rfl
  · obtain ⟨p, -, rfl⟩ := Option.map_eq_some_iff.1 hd
    exact no rfl rfl
  · obtain ⟨r, -, rfl⟩ := Option.map_eq_some_iff.1 hd
    exact no rfl rfl
  · exact no hd rfl

/-! ### A whole access -/

/-- The claimant's outcome keeps the agreement that the checks leave. -/
theorem State.Tied.dueOutcome {s : State} (h : s.Tied none) {d : Due} (hd : s.due = some d) {a : Access}
    (ha : a.s.Tied none) (he : ∀ e, a.s.entry e = s.entry e) : (s.dueOutcome d a).Tied none := by
  have used {e : EntryIdx} (hw : d.worksOn = some e) : (a.s.entry e).inUse = true := by
    rw [he]
    exact h.inUse_of_due hd hw
  cases d with
  | intake r => exact ha.intakeOutcome r
  | resolution e => exact ha.resolutionOutcome e
  | parked e => exact ha.parkedOutcome e
  | close e => exact ha.closeOutcome e
  | handedOn e => exact ha.handedOnOutcome e (used rfl)
  | releasing e => exact ha.releasingOutcome e (used rfl)
  | serviceResolution e => exact ha.serviceOutcome e (used rfl)
  | retractResolution e => exact ha.retractOutcome e (used rfl)
  | repairResolution e => exact ha.repairOutcome e (used rfl)
  | recallResolution e => exact ha.recallOutcome e (used rfl)
  | retireResolution e => exact ha.retireOutcome e (used rfl)
  | recallStart e => exact ha.recallStartOutcome e
  | retireStart k w => exact ha.retireStartOutcome k w
  | repairStart k t => exact ha.repairStartOutcome k t
  | purge => exact ha.purgeOutcome _
  | leave p => exact ha.leaveOutcome _ p
  | scrub => exact ha
  | service code =>
    unfold State.dueOutcome
    dsimp only
    split
    · exact ha.lookupOutcome
    · split
      · exact ha.recallLineOutcome
      · split
        · exact ha.clearPoisonOutcome
        · split
          · exact ha.clearSetOutcome
          · exact ha

theorem State.Tied.passDone {s : State} {x : Option EntryIdx} (h : s.Tied x) : s.passDone.Tied x := by
  refine ⟨Directory.wf_mapSets _ _ h.wf, h.blank, h.line, h.unique, fun k => ?_⟩
  have hk : s.passDone.dirSet k = (s.dirSet k).decay := Directory.find_mapSets _ DirSet.decay_empty _ h.wf _
  rw [hk]
  exact (h.sets k).mapSlots _ (fun _ => rfl) fun _ => rfl

theorem State.Tied.dueAfter {s u : State} (h : u.Tied none) (d : Due) : (s.dueAfter d u).Tied none := by
  unfold State.dueAfter
  split
  · split
    · exact h.beside rfl rfl
    · split
      · exact h.beside rfl rfl
      · exact h
  · unfold State.scrubOn
    dsimp only
    split
    · refine State.Tied.passDone ?_
      exact h.beside rfl rfl
    · exact h.beside rfl rfl
  · exact h

theorem State.Tied.finish {s : State} (h : s.Tied none) : s.finish.Tied none := h.steady (.of_ambient (.finish s))

theorem State.Tied.accessed {s : State} (h : s.Tied none) {d : Due} (hd : s.due = some d) (f : List CellFault) :
    (s.accessed d f).Tied none := by
  obtain ⟨c, hc⟩ := s.takeClaim_cases
  have ht : s.takeClaim.Tied none := by
    rw [hc]
    exact h.beside rfl rfl
  unfold State.accessed
  exact ((ht.access f _ fun ha => h.dueOutcome hd ha fun e => State.checked_entry s _ f e).dueAfter d).finish

/-! ### Events in INIT and RUN -/

/-- An access comes outside INIT alone (R20). -/
theorem State.part_of_due {s : State} {d : Due} (h : s.due = some d) : s.part ≠ .init := by
  intro hp
  have hg : s.granted = none := by
    unfold State.granted
    rw [hp]
  unfold State.due at h
  rw [hg] at h
  cases h

/-- A part state kept, or RUN left for HALTED, is INIT as before. -/
theorem PartState.init_iff {p q : PartState} (h : q = p ∨ p = .run ∧ q = .halted) : q = .init ↔ p = .init := by
  rcases h with h | ⟨hp, hq⟩
  · rw [h]
  · rw [hp, hq]
    decide

/-- An access does not lead back to INIT. -/
theorem State.part_accessed {s : State} (hp : s.part ≠ .init) (d : Due) (f : List CellFault) :
    (s.accessed d f).part ≠ .init := by
  have hu := (Frames.access s d f).part
  unfold State.accessed
  generalize s.takeClaim.access (s.dueSet d) f (s.dueOutcome d) = u at hu
  have hv : (s.dueAfter d u).part = u.part := by
    unfold State.dueAfter State.scrubOn
    split
    · split
      · rfl
      · split <;> rfl
    · dsimp only
      split <;> rfl
    · rfl
  intro h
  exact hp (hu ▸ hv ▸ (PartState.init_iff (State.part_finish _)).1 h)

/-- A set that holds nothing. -/
structure DirSet.Bare (d : DirSet) : Prop where
  recency : d.recency = []
  record : ∀ w, d.record w = none
  bound : ∀ w, (d.slot w).bound = none

theorem DirSet.Bare.tied {d : DirSet} (h : d.Bare) {H : EntryIdx → Line → Prop} {x : Option EntryIdx} {k : SetIdx} :
    d.Tied H x k := DirSet.tied_of_none h.recency h.record h.bound

theorem DirSet.bare_clear (d : DirSet) : d.clear.Bare := by
  refine ⟨rfl, fun w => ?_, fun w => ?_⟩
  · unfold DirSet.record
    rw [DirSet.slot_clear]
    rfl
  · rw [DirSet.slot_clear]

/-- What the law of links asks in INIT: no entry in use, and the sets that the walk has passed hold nothing. -/
structure State.Walked (s : State) : Prop where
  wf : s.dir.wf = true
  blank : ∀ e, (s.entry e).inUse = false → (s.entry e).Blank
  free : ∀ e, (s.entry e).inUse = false
  passed : ∀ k j, s.walk = some k → j.toNat < k.toNat → (s.dirSet j).Bare

theorem State.linked_iff_walked {s : State} (hp : s.part = .init) : s.linked ↔ s.Walked := by
  constructor
  · rintro ⟨hwf, hblank, hinit, -⟩
    obtain ⟨hfree, hpassed⟩ := hinit hp
    refine ⟨hwf, fun e he => ?_, hfree, fun k j hk hj => ?_⟩
    · obtain ⟨h1, h2, h3, h4⟩ := hblank e he
      exact ⟨h1, h2, h3, h4⟩
    · obtain ⟨hr, hw⟩ := hpassed k j hk hj
      exact ⟨hr, fun w => (hw w).1, fun w => (hw w).2⟩
  · intro h
    refine ⟨h.wf, fun e he => ?_, fun _ => ⟨h.free, fun k j hk hj => ?_⟩, fun hn => absurd hp hn⟩
    · have hb := h.blank e he
      exact ⟨hb.line, hb.kind, hb.waiters, hb.repairRound⟩
    · have hb := h.passed k j hk hj
      exact ⟨hb.recency, fun w => ⟨hb.record w, hb.bound w⟩⟩

/-- No entry holds a line where none is in use. -/
theorem State.Walked.tied {s : State} (h : s.Walked) (hb : ∀ k, (s.dirSet k).Bare) : s.Tied none := by
  have no (e : EntryIdx) {P : Prop} (hu : (s.entry e).inUse = true) : P := by
    rw [h.free e] at hu
    cases hu
  exact ⟨h.wf, h.blank, fun e hu => no e hu, fun e _ _ he _ => no e he.1, fun k => (hb k).tied⟩

/-- The law of links where array, table, walk and part state stand. -/
theorem State.linked_congr {s t : State} (hp : t.part = .init ↔ s.part = .init) (hw : t.walk = s.walk)
    (g : Steady s t) (h : s.linked) : t.linked := by
  by_cases hi : s.part = .init
  · have hs := (State.linked_iff_walked hi).1 h
    refine (State.linked_iff_walked (hp.2 hi)).2 ⟨g.dir ▸ hs.wf, fun e he => ?_, fun e => ?_, fun k j hk hj => ?_⟩
    · exact (g.lines e).blank (hs.free e) (hs.blank e (hs.free e))
    · rw [(g.lines e).inUse]
      exact hs.free e
    · rw [State.dirSet_congr g.dir]
      exact hs.passed k j (hw ▸ hk) hj
  · exact (State.linked_iff_tied fun hn => hi (hp.1 hn)).2 (((State.linked_iff_tied hi).1 h).steady g)

/-! ### The clearing walk -/

theorem State.Tied.clearSet {s : State} (h : s.Tied none) (k : SetIdx) : (s.clearSet k).Tied none := by
  have g : (s.updSet k DirSet.clear).Tied none := h.updSet (DirSet.bare_clear _).tied
  exact g.beside rfl rfl

theorem State.Walked.dirSet_clearSet {s : State} (hwf : s.dir.wf = true) (k j : SetIdx) :
    (s.clearSet k).dirSet j = if j = k then (s.dirSet k).clear else s.dirSet j := by
  show (s.updSet k DirSet.clear).dirSet j = _
  split
  · next hj => rw [hj, State.dirSet_updSet_same _ _ _ hwf]
  · next hj => rw [State.dirSet_updSet_ne _ _ hj]

/-- After the walk's access on set `k` the sets up to `k` hold nothing. -/
theorem State.Walked.bare_clearSet {s : State} (h : s.Walked) {k j : SetIdx} (hk : s.walk = some k)
    (hj : j.toNat ≤ k.toNat) : ((s.clearSet k).dirSet j).Bare := by
  rw [State.Walked.dirSet_clearSet h.wf]
  split
  · exact DirSet.bare_clear _
  · next hne =>
    have : j.toNat ≠ k.toNat := fun he => hne (BitVec.eq_of_toNat_eq he)
    exact h.passed k j hk (by omega)

theorem State.wf_clearSet {s : State} (h : s.dir.wf = true) (k : SetIdx) : (s.clearSet k).dir.wf = true :=
  State.wf_updSet _ _ _ h

/-- The last access of the walk ends INIT (R20, R172). -/
theorem State.linked_enterRun {s : State} (h : s.Tied none) : s.enterRun.linked := by
  have g := Ambient.foldl _ (fun u p => Ambient.trainUp u p) allAgents { s with part := .run, walk := none }
  have h1 : State.Tied { s with part := .run, walk := none } none := h.beside rfl rfl
  exact State.linked_congr (PartState.init_iff g.part) g.walk (.of_ambient g)
    ((State.linked_iff_tied (s := { s with part := .run, walk := none }) (fun hn => by cases hn)).2 h1)

theorem State.linked_walkOn {s : State} {k : SetIdx} (h : s.linked) (hk : s.walk = some k) :
    ((s.clearSet k).walkOn k).linked := by
  have hlt : k.toNat < 2048 := k.isLt
  by_cases hi : s.part = .init
  · have hs := (State.linked_iff_walked hi).1 h
    have bare {j : SetIdx} := State.Walked.bare_clearSet hs (j := j) hk
    unfold State.walkOn
    split
    · next hlast =>
      refine State.linked_enterRun (State.Walked.tied ⟨State.wf_clearSet hs.wf k, hs.blank, hs.free, fun i j hi hj => ?_⟩ ?_)
      · exact bare (by have := i.isLt; omega)
      · exact fun j => bare (by have := j.isLt; omega)
    · next hlast =>
      refine (State.linked_iff_walked (s := { s.clearSet k with walk := some (k + 1) }) hi).2
        ⟨State.wf_clearSet hs.wf k, hs.blank, hs.free, fun i j hi hj => ?_⟩
      cases hi
      refine bare (j := j) ?_
      have : (k + 1).toNat = k.toNat + 1 := by
        rw [BitVec.toNat_add, Nat.mod_eq_of_lt]
        · rfl
        · show k.toNat + 1 < 2 ^ 11
          omega
      omega
  · have hs := ((State.linked_iff_tied hi).1 h).clearSet k
    unfold State.walkOn
    split
    · exact State.linked_enterRun hs
    · refine (State.linked_iff_tied (s := { s.clearSet k with walk := some (k + 1) }) hi).2 ?_
      exact hs.beside rfl rfl

theorem State.linked_finish {s : State} (h : s.linked) : s.finish.linked :=
  have g := Ambient.finish s
  State.linked_congr (PartState.init_iff g.part) g.walk (.of_ambient g) h

/-! ### Every event -/

/-- The part in INIT with every entry FREE and no set passed. -/
theorem State.linked_of_start {s : State} (hp : s.part = .init) (hwf : s.dir.wf = true)
    (hw : ∀ k j : SetIdx, s.walk = some k → ¬ j.toNat < k.toNat) (he : ∀ e, s.entry e = Entry.freeOf 0) : s.linked := by
  refine (State.linked_iff_walked hp).2 ⟨hwf, fun e _ => ?_, fun e => ?_, fun k j hk hj => absurd hj (hw k j hk)⟩
  · rw [he]
    exact Entry.blank_freeOf 0
  · rw [he]
    rfl

theorem Event.linked {s t : State} (h : Event s t) (hs : s.linked) : t.linked := by
  cases h with
  | configures h =>
    exact State.linked_congr (PartState.init_iff h.part) h.walk ⟨h.dir, fun e => .of_sameHold (h.entry e)⟩ hs
  | powerOn =>
    refine State.linked_of_start rfl rfl (fun k j hk => ?_) State.entry_reset
    have hk' : (if s.resetN then some 0 else none : Option SetIdx) = some k := hk
    split at hk'
    · cases hk'
      exact Nat.not_lt_zero _
    · cases hk'
  | powerOff => exact State.linked_of_start rfl rfl (fun k j hk => by cases hk) State.entry_reset
  | resetFall => exact State.linked_of_start rfl hs.1 (fun k j hk => by cases hk) State.entry_reset
  | resetRise h =>
    refine State.linked_congr (s := { s with walk := some 0 }) (PartState.init_iff h.part) h.walk (.of_ambient h) ?_
    by_cases hi : s.part = .init
    · have hw := (State.linked_iff_walked hi).1 hs
      refine (State.linked_iff_walked (s := { s with walk := some 0 }) hi).2 ⟨hw.wf, hw.blank, hw.free, fun k j hk hj => ?_⟩
      cases hk
      exact absurd hj (Nat.not_lt_zero _)
    · have ht := (State.linked_iff_tied hi).1 hs
      exact (State.linked_iff_tied (s := { s with walk := some 0 }) hi).2 (ht.beside rfl rfl)
  | walk h => exact State.linked_finish (State.linked_walkOn (s := s.clearOutputs) hs h)
  | access hc hd =>
    have hp := State.part_of_due hd
    exact (State.linked_iff_tied (State.part_accessed hp _ _)).2 (((State.linked_iff_tied hp).1 hs).accessed hd _)

/-- Settles O56: outside INIT every operation keeps directory and table in agreement; in INIT the walk alone writes. -/
theorem stepKeepsLinks : Obligations.StepKeepsLinks := by
  intro s t hs ht
  obtain ⟨s', he, h⟩ := Event.of_step ht
  have ha := Ambient.of_eq he
  exact h.linked (State.linked_congr (PartState.init_iff ha.part) ha.walk (.of_ambient ha) hs)

end Sys2Proof.Machine
end

section
/-! PROOF. The checks of an access as a function of the set, the reports and the integrity unit (R131 to R136), and what they
leave (O43). -/

namespace Sys2Proof.Machine

/-! ### The directory is its sets -/

/-- In canonical form the sets under all keys make the directory. -/
theorem Directory.ext_find {d e : Directory} {lo : Nat} (hd : Directory.wfFrom lo d = true)
    (he : Directory.wfFrom lo e = true) (h : ∀ k, d.find k = e.find k) : d = e := by
  induction d generalizing lo e with
  | nil =>
    rcases e with _ | ⟨⟨j, y⟩, e⟩
    · rfl
    · simp only [Directory.wfFrom, Bool.and_eq_true, decide_eq_true_eq] at he
      have := h j
      simp only [Directory.find, if_true] at this
      exact absurd this.symm he.1.2
  | cons a d ih =>
    obtain ⟨i, x⟩ := a
    have hd' := hd
    simp only [Directory.wfFrom, Bool.and_eq_true, decide_eq_true_eq] at hd'
    have hi := h i
    simp only [Directory.find, if_true] at hi
    rcases e with _ | ⟨⟨j, y⟩, e⟩
    · exact absurd hi hd'.1.2
    · have he' := he
      simp only [Directory.wfFrom, Bool.and_eq_true, decide_eq_true_eq] at he'
      have hj := h j
      simp only [Directory.find, if_true] at hj
      have hij : i = j := by
        rcases Nat.lt_trichotomy i j with hlt | heq | hgt
        · have hne : j ≠ i := by omega
          simp only [Directory.find, if_neg hne, Directory.find_above e he'.2 (Nat.lt_succ_of_lt hlt)] at hi
          exact absurd hi hd'.1.2
        · exact heq
        · have hne : i ≠ j := by omega
          simp only [if_neg hne, Directory.find_above d hd'.2 (Nat.lt_succ_of_lt hgt)] at hj
          exact absurd hj.symm he'.1.2
      subst hij
      simp only [Directory.find, if_true] at hi
      rw [hi, ih hd'.2 he'.2 fun k => ?_]
      have hk := h k
      by_cases hki : i = k
      · rw [← hki, Directory.find_above d hd'.2 (Nat.lt_succ_self i), Directory.find_above e he'.2 (Nat.lt_succ_self i)]
      · simpa only [Directory.find, if_neg hki] using hk

theorem Directory.store_find (d : Directory) {k : Nat} (h : d.wf = true) (hk : k < Config.sets) :
    d.store k (d.find k) = d := by
  refine Directory.ext_find (Directory.wf_store d _ h hk) h fun j => ?_
  by_cases hj : j = k
  · rw [hj, Directory.find_store_same d k _ h]
  · rw [Directory.find_store_ne d _ hj]

theorem Directory.store_store (d : Directory) {k : Nat} (x y : DirSet) (h : d.wf = true) (hk : k < Config.sets) :
    (d.store k x).store k y = d.store k y := by
  have hx := Directory.wf_store d x h hk
  refine Directory.ext_find (Directory.wf_store _ y hx hk) (Directory.wf_store d y h hk) fun j => ?_
  by_cases hj : j = k
  · rw [hj, Directory.find_store_same _ k _ hx, Directory.find_store_same d k _ h]
  · rw [Directory.find_store_ne _ _ hj, Directory.find_store_ne d _ hj, Directory.find_store_ne d _ hj]

/-! ### The part of the state that the checks work on -/

/-- What the checks of an access work on: the set, the reports and the integrity unit. -/
structure Bench where
  d : DirSet
  reports : List Report
  integ : IntegrityUnit

/-- The state with set `k`, reports and integrity unit as on the bench. -/
def State.bench (s : State) (k : SetIdx) (b : Bench) : State :=
  { s with dir := s.dir.store k.toNat b.d, reports := b.reports, integ := b.integ }

section
variable {s : State} {k : SetIdx}

theorem State.bench_self (h : s.dir.wf = true) : s.bench k ⟨s.dirSet k, s.reports, s.integ⟩ = s := by
  unfold State.bench State.dirSet
  rw [Directory.store_find s.dir h k.isLt]

theorem State.wf_bench (h : s.dir.wf = true) (b : Bench) : (s.bench k b).dir.wf = true :=
  Directory.wf_store s.dir b.d h k.isLt

theorem State.dirSet_bench (h : s.dir.wf = true) (b : Bench) : (s.bench k b).dirSet k = b.d :=
  Directory.find_store_same s.dir k.toNat b.d h

theorem State.dirSet_bench_ne (b : Bench) {j : SetIdx} (hj : j ≠ k) : (s.bench k b).dirSet j = s.dirSet j :=
  Directory.find_store_ne s.dir b.d fun hh => hj (BitVec.eq_of_toNat_eq hh)

theorem State.slot_bench (h : s.dir.wf = true) (b : Bench) (w : Way) : (s.bench k b).slot k w = b.d.slot w :=
  congrArg (fun d : DirSet => d.slot w) (State.dirSet_bench h b)

theorem State.updSet_bench (h : s.dir.wf = true) (b : Bench) (f : DirSet → DirSet) :
    (s.bench k b).updSet k f = s.bench k { b with d := f b.d } := by
  unfold State.updSet
  rw [State.dirSet_bench h]
  unfold State.putSet State.bench
  rw [Directory.store_store s.dir b.d _ h k.isLt]

theorem State.setSlot_bench (h : s.dir.wf = true) (b : Bench) (w : Way) (y : Slot) :
    (s.bench k b).setSlot k w y = s.bench k { b with d := b.d.setSlot w y } := State.updSet_bench h b _

theorem State.report_bench (b : Bench) (r : Report) :
    (s.bench k b).report r = s.bench k { b with reports := b.reports ++ [r] } := rfl

/-- The integrity unit with a count of DAMAGED records and a fence mark. -/
def IntegrityUnit.withDamage (u : IntegrityUnit) (x : Nat × Bool) : IntegrityUnit :=
  { u with damaged := x.1, fenceMark := x.2 }

/-- The integrity unit with the items of way `w` of set `k` off the retire list. -/
def IntegrityUnit.unlist (u : IntegrityUnit) (k : SetIdx) (w : Way) : IntegrityUnit :=
  { u with retireList := u.retireList.filter fun i => !(decide (i.set = k) && decide (i.way = w)) }

theorem State.markDamage_bench (h : s.dir.wf = true) (b : Bench) (w : Way) :
    (s.bench k b).markDamage k w = s.bench k { b with
      d := b.d.setSlot w { b.d.slot w with damageMark := true }
      integ := b.integ.withDamage (if (b.d.slot w).damageMark then b.integ.damaged else b.integ.damaged + 1,
        b.integ.fenceMark || s.anyFenced) } := by
  unfold State.markDamage
  dsimp only
  rw [State.slot_bench h, State.setSlot_bench h]
  rfl

theorem State.endDamage_bench (h : s.dir.wf = true) (b : Bench) (w : Way) :
    (s.bench k b).endDamage k w = s.bench k (if (b.d.slot w).damageMark then { b with
      d := b.d.setSlot w { b.d.slot w with damageMark := false }
      integ := b.integ.withDamage (b.integ.damaged - 1, b.integ.fenceMark && decide (b.integ.damaged - 1 ≠ 0)) }
      else b) := by
  unfold State.endDamage
  dsimp only
  rw [State.slot_bench h]
  split
  · rw [State.setSlot_bench h]
    rfl
  · rfl

theorem DirSet.setSlot_setSlot (d : DirSet) (w : Way) (x y : Slot) : (d.setSlot w x).setSlot w y = d.setSlot w y := by
  unfold DirSet.setSlot
  simp only [Vector.set_set]

theorem DirSet.setSlot_self (d : DirSet) (w : Way) : d.setSlot w (d.slot w) = d := by
  unfold DirSet.setSlot DirSet.slot
  rw [Vector.get_eq_getElem, Vector.set_getElem_self]

theorem State.writeDamaged_bench (h : s.dir.wf = true) (b : Bench) (w : Way) (t : Tag) (p : Bool) (sel : WordSel)
    (n : Option Txn) : (s.bench k b).writeDamaged k w t p sel n = s.bench k
      ⟨b.d.setSlot w { b.d.slot w with
          content := some ⟨t, .damaged, 0, p⟩, tagEcc := .good, holderEcc := .good, damageMark := true },
        b.reports ++ [{ kind := .holderUncorrectable, line := some (lineOf k t), set := some k, way := some w
                        word := some sel, txn := n }],
        b.integ.withDamage (if (b.d.slot w).damageMark then b.integ.damaged else b.integ.damaged + 1,
          b.integ.fenceMark || s.anyFenced)⟩ := by
  unfold State.writeDamaged
  dsimp only
  rw [State.slot_bench h, State.setSlot_bench h, State.markDamage_bench h]
  simp only [DirSet.slot_setSlot_same, DirSet.setSlot_setSlot]
  rfl

theorem State.rewriteHolder_bench (h : s.dir.wf = true) (b : Bench) (w : Way) :
    (s.bench k b).rewriteHolder k w = s.bench k { b with
      d := b.d.setSlot w { b.d.slot w with holderEcc := .good }
      reports := b.reports ++ [correctedReport k w .holder ((b.d.slot w).content.map fun r => lineOf k r.tag)] } := by
  unfold State.rewriteHolder State.reportCorrected
  rw [State.slot_bench h, State.setSlot_bench h, State.slot_bench h, DirSet.slot_setSlot_same]
  rfl

/-- An error in the holder word of slot `x` makes its record DAMAGED (R133). -/
def Slot.losesHolders (x : Slot) : Bool :=
  decide (x.holderEcc = .uncorrectable) && x.content.any fun r => decide (r.state ≠ .damaged)

theorem State.checkHolder_bench_corrected (h : s.dir.wf = true) (b : Bench) (w : Way)
    (hx : (b.d.slot w).losesHolders = false) : (s.bench k b).checkHolder k w (b.d.slot w).holderEcc = s.bench k { b with
      d := b.d.setSlot w { b.d.slot w with holderEcc := .good }
      reports := b.reports ++ if (b.d.slot w).holderEcc = .good then []
        else [correctedReport k w .holder ((b.d.slot w).content.map fun r => lineOf k r.tag)] } := by
  unfold State.checkHolder
  split
  · next hg =>
    have hs : ({ b.d.slot w with holderEcc := .good } : Slot) = b.d.slot w := by rw [← hg]
    rw [hs, DirSet.setSlot_self, if_pos hg, List.append_nil]
  · next hg =>
    rw [State.rewriteHolder_bench h, hg, if_neg (by decide)]
  · next hg =>
    rw [State.slot_bench h]
    unfold Slot.losesHolders at hx
    rw [hg, decide_eq_true rfl, Bool.true_and] at hx
    split
    · rw [State.rewriteHolder_bench h, hg, if_neg (by decide)]
    · next r hr =>
      rw [hr, Option.any_some, decide_eq_false_iff_not, not_not] at hx
      rw [if_pos hx, State.rewriteHolder_bench h, hg, if_neg (by decide)]

theorem State.checkHolder_bench_damaged (h : s.dir.wf = true) (b : Bench) (w : Way) {r : Record}
    (hg : (b.d.slot w).holderEcc = .uncorrectable) (hr : (b.d.slot w).content = some r) (hst : r.state ≠ .damaged) :
    (s.bench k b).checkHolder k w (b.d.slot w).holderEcc
      = (s.bench k b).writeDamaged k w r.tag r.poison .holder ((b.d.slot w).bound.map s.txn) := by
  unfold State.checkHolder
  rw [hg, State.slot_bench h]
  simp only [hr, if_neg hst]
  rfl

end

end Sys2Proof.Machine
end

section
/-! PROOF. The checks of an access way by way (R131 to R136), and what the whole pass leaves of its set (O43). -/

namespace Sys2Proof.Machine

section
variable {s : State} {k : SetIdx} {b : Bench} {w : Way}

/-! ### The verdict on a slot -/

theorem State.verdict_losesHolders {r : Record} (ht : (s.slot k w).tagEcc ≠ .uncorrectable)
    (hg : (s.slot k w).holderEcc = .uncorrectable) (hr : (s.slot k w).content = some r) (hst : r.state ≠ .damaged) :
    s.verdict k w = .damaged r.tag r.poison .holder ((s.slot k w).bound.map s.txn) := by
  unfold State.verdict
  simp only [if_neg ht, hr, if_pos (And.intro hg hst)]

theorem State.verdict_corrected (ht : (s.slot k w).tagEcc ≠ .uncorrectable)
    (hx : (s.slot k w).losesHolders = false) : s.verdict k w = .corrected := by
  unfold State.verdict
  simp only [if_neg ht]
  split
  · rfl
  · next r hr =>
    rw [if_neg]
    rintro ⟨hg, hst⟩
    unfold Slot.losesHolders at hx
    rw [hr, hg, Option.any_some, decide_eq_true hst] at hx
    cases hx

theorem Slot.losesHolders_iff (x : Slot) : x.losesHolders = true ↔
    x.holderEcc = .uncorrectable ∧ ∃ r, x.content = some r ∧ r.state ≠ .damaged := by
  unfold Slot.losesHolders
  rw [Bool.and_eq_true, decide_eq_true_iff, Option.any_eq_true]
  simp only [decide_eq_true_iff]

/-! ### What the checks of one slot make of the bench -/

/-- The bench after the checks of a slot in error, by the verdict on it. -/
def State.benchAfter (s : State) (k : SetIdx) (w : Way) (b : Bench) : Bench :=
  let x := (s.slot k w).worn
  let u := b.integ.withDamage (s.damageAfter k (b.integ.damaged, b.integ.fenceMark) w)
  match s.verdict k w with
  | .corrected =>
    ⟨b.d.setSlot w { x with tagEcc := .good, holderEcc := .good }, b.reports ++ s.checkReports k w, u⟩
  | .damaged t p _ _ =>
    ⟨b.d.setSlot w { x with
        content := some ⟨t, .damaged, 0, p⟩, tagEcc := .good, holderEcc := .good, damageMark := true },
      b.reports ++ s.checkReports k w, u⟩
  | .withdrawn =>
    ⟨{ b.d.setSlot w { x.outOfService (if b.d.mapHasRoom then .retired else .quarantined) with damageMark := false } with
        recency := b.d.recency.erase w, lost := b.d.lost || (s.slot k w).reservation.isNone },
      b.reports ++ ({ kind := .tagUncorrectable, set := some k, way := some w, word := some .tag }
        :: if b.d.mapHasRoom then [{ kind := .slotRetired, set := some k, way := some w, count := some x.health }]
          else []), u.unlist k w⟩

theorem IntegrityUnit.withDamage_self (u : IntegrityUnit) : u.withDamage (u.damaged, u.fenceMark) = u := rfl

/-- The bench after the tag word of a slot was corrected, or found good (R131). -/
def State.benchTagged (s : State) (k : SetIdx) (w : Way) (b : Bench) : Bench :=
  ⟨b.d.setSlot w { (s.slot k w).worn with tagEcc := .good },
    b.reports ++ (if (s.slot k w).tagEcc = .good then []
      else [correctedReport k w .tag ((s.slot k w).content.map fun r => lineOf k r.tag)]), b.integ⟩

/-- The holder word checked beside a tag word that can be read (R131 to R133). -/
theorem State.checkHolder_tagged (h : s.dir.wf = true) (b : Bench) (ht : (s.slot k w).tagEcc ≠ .uncorrectable) :
    (s.bench k (s.benchTagged k w b)).checkHolder k w (s.slot k w).holderEcc = s.bench k (s.benchAfter k w b) := by
  have hx : (s.benchTagged k w b).d.slot w = { (s.slot k w).worn with tagEcc := .good } := DirSet.slot_setSlot_same _ _ _
  have hh : ((s.benchTagged k w b).d.slot w).holderEcc = (s.slot k w).holderEcc := by rw [hx]; rfl
  have hc : ((s.benchTagged k w b).d.slot w).content = (s.slot k w).content := by rw [hx]; rfl
  have hl : ((s.benchTagged k w b).d.slot w).losesHolders = (s.slot k w).losesHolders := by
    unfold Slot.losesHolders
    rw [hh, hc]
  by_cases hx' : (s.slot k w).losesHolders = true
  · obtain ⟨hg, r, hr, hst⟩ := (Slot.losesHolders_iff _).1 hx'
    have hv := State.verdict_losesHolders ht hg hr hst
    rw [← hh, State.checkHolder_bench_damaged h _ w (hh.trans hg) (hc.trans hr) hst, State.writeDamaged_bench h, hx]
    unfold State.benchAfter State.benchTagged State.checkReports State.damageAfter
    simp only [hv, DirSet.setSlot_setSlot, hr, hg, List.append_assoc]
    by_cases htg : (s.slot k w).tagEcc = .good <;> simp [htg] <;> rfl
  · have hx' := Bool.eq_false_iff.2 hx'
    have hv := State.verdict_corrected ht hx'
    rw [← hh, State.checkHolder_bench_corrected h _ w (hl.trans hx'), hx]
    unfold State.benchAfter State.benchTagged State.checkReports State.damageAfter
    simp only [hv, DirSet.setSlot_setSlot, List.append_assoc]
    rfl

/-- Reading the bench as the state reads the slot. -/
theorem State.boundLine_bench (h : s.dir.wf = true) (hx : b.d.slot w = s.slot k w) :
    (s.bench k b).boundLine k w = s.boundLine k w := by
  unfold State.boundLine
  rw [State.slot_bench h, hx]
  rfl

theorem DirSet.retiredCount_congr {d e : DirSet} (h : ∀ v, (d.slot v).mark = (e.slot v).mark) :
    d.retiredCount = e.retiredCount := by
  unfold DirSet.retiredCount
  simp only [h]

theorem DirSet.mapHasRoom_congr {d e : DirSet} (h : ∀ v, (d.slot v).mark = (e.slot v).mark) :
    d.mapHasRoom = e.mapHasRoom := by
  unfold DirSet.mapHasRoom
  rw [DirSet.retiredCount_congr h]

/-- A slot whose mark stays written. -/
theorem DirSet.mark_setSlot {d : DirSet} {w : Way} {y : Slot} (h : y.mark = (d.slot w).mark) (v : Way) :
    ((d.setSlot w y).slot v).mark = (d.slot v).mark := by
  rw [DirSet.slot_setSlot]
  split
  · next hv => rw [hv, h]
  · rfl

/-- A worn slot on the bench withdrawn, its damage ended (R134, R136). -/
theorem State.withdrawSlot_bench (h : s.dir.wf = true) (hv : s.verdict k w = .withdrawn) (m : ServiceMark) :
    ((s.bench k { b with d := b.d.setSlot w (s.slot k w).worn }).endDamage k w).withdrawSlot k w m = s.bench k
      ⟨{ b.d.setSlot w { (s.slot k w).worn.outOfService m with damageMark := false } with
          recency := b.d.recency.erase w }, b.reports,
        b.integ.withDamage (s.damageAfter k (b.integ.damaged, b.integ.fenceMark) w)⟩ := by
  rw [State.endDamage_bench h]
  unfold State.withdrawSlot State.damageAfter
  rw [State.updSet_bench h, DirSet.slot_setSlot_same, hv]
  dsimp only
  have hw : (s.slot k w).worn.damageMark = (s.slot k w).damageMark := rfl
  unfold DirSet.withdraw
  rcases hm : (s.slot k w).damageMark with _ | _
  · have hs : ({ (s.slot k w).worn.outOfService m with damageMark := false } : Slot) = (s.slot k w).worn.outOfService m := by
      unfold Slot.outOfService
      rw [← hm, ← hw]
    rw [hs, hw, hm]
    simp only [Bool.false_eq_true, if_false, DirSet.slot_setSlot_same, DirSet.setSlot_setSlot]
    rfl
  · rw [hw, hm]
    simp only [if_true, DirSet.slot_setSlot_same, DirSet.setSlot_setSlot]
    rfl

theorem State.withdraw_bench (h : s.dir.wf = true) {c : Checked}
    (hb : c.s = s.bench k { b with d := b.d.setSlot w (s.slot k w).worn }) (hx : b.d.slot w = s.slot k w)
    (hv : s.verdict k w = .withdrawn) : c.withdraw k w = { c with
      s := s.bench k (s.benchAfter k w b), errs := c.errs ++ [w]
      marked := c.marked || (s.slot k w).reservation.isNone } := by
  have hroom : (c.s.dirSet k).mapHasRoom = b.d.mapHasRoom := by
    rw [hb, State.dirSet_bench h]
    exact DirSet.mapHasRoom_congr (DirSet.mark_setSlot (by rw [hx]; rfl))
  have hres : ((c.s.dirSet k).slot w).reservation = (s.slot k w).reservation := by
    rw [hb, State.dirSet_bench h, DirSet.slot_setSlot_same]
    rfl
  unfold Checked.withdraw
  dsimp only
  rw [hroom, hres, hb, State.withdrawSlot_bench h hv]
  have hnot : (!(s.slot k w).reservation.isSome) = (s.slot k w).reservation.isNone := by
    cases (s.slot k w).reservation <;> rfl
  rw [hnot]
  unfold State.benchAfter
  simp only [hv]
  congr 1
  generalize b.integ.withDamage (s.damageAfter k (b.integ.damaged, b.integ.fenceMark) w) = u
  generalize hy : (s.slot k w).worn.outOfService (if b.d.mapHasRoom then .retired else .quarantined) = y
  have listed (B : Bench) : ({ s.bench k B with integ := { (s.bench k B).integ with
      retireList := (s.bench k B).integ.retireList.filter fun i => !(decide (i.set = k) && decide (i.way = w)) } } : State)
      = s.bench k { B with integ := B.integ.unlist k w } := rfl
  rw [listed]
  have lost : (if (s.slot k w).reservation.isSome = true then s.bench k
        ⟨{ b.d.setSlot w { y with damageMark := false } with recency := b.d.recency.erase w }, b.reports, u.unlist k w⟩
      else (s.bench k ⟨{ b.d.setSlot w { y with damageMark := false } with recency := b.d.recency.erase w }, b.reports,
        u.unlist k w⟩).updSet k fun d => { d with lost := true })
      = s.bench k ⟨{ b.d.setSlot w { y with damageMark := false } with
          recency := b.d.recency.erase w, lost := b.d.lost || (s.slot k w).reservation.isNone }, b.reports, u.unlist k w⟩ := by
    cases (s.slot k w).reservation with
    | some e => simp [DirSet.setSlot]
    | none => simp [State.updSet_bench h]
  rw [lost, State.report_bench]
  split
  · unfold State.slotReport
    rw [State.slot_bench h, State.report_bench]
    have hs : (DirSet.slot { b.d.setSlot w { y with damageMark := false } with
        recency := b.d.recency.erase w, lost := b.d.lost || (s.slot k w).reservation.isNone } w).health
        = (s.slot k w).worn.health := by
      show ((b.d.setSlot w { y with damageMark := false }).slot w).health = _
      rw [DirSet.slot_setSlot_same, ← hy]
      rfl
    rw [hs, List.append_assoc]
    rfl
  · rfl

/-- What the checks of a slot in error make of the pass so far, `b` being its bench. -/
def Checked.after (s : State) (k : SetIdx) (w : Way) (b : Bench) (c : Checked) : Checked where
  s := s.bench k (s.benchAfter k w b)
  errs := c.errs ++ [w]
  rebuilt := c.rebuilt ++ if (s.slot k w).tagEcc = .uncorrectable ∧ s.verdict k w ≠ .withdrawn then [w] else []
  marked := c.marked || decide (s.verdict k w = .withdrawn) && (s.slot k w).reservation.isNone

/-- The checks of one slot: nothing for a slot in order, else the bench after its verdict. -/
theorem Checked.slot_bench (h : s.dir.wf = true) {c : Checked} (hc : c.s = s.bench k b) (hx : b.d.slot w = s.slot k w) :
    Checked.slot k c w = if s.inError k w then Checked.after s k w b c else c := by
  unfold Checked.after
  have hslot : c.s.slot k w = s.slot k w := by rw [hc, State.slot_bench h, hx]
  have hs1 : c.s.setSlot k w (s.slot k w).worn = s.bench k { b with d := b.d.setSlot w (s.slot k w).worn } := by
    rw [hc, State.setSlot_bench h]
  unfold Checked.slot
  dsimp only
  rw [hslot]
  by_cases herr : s.inError k w = true
  swap
  · rw [if_neg herr, if_pos]
    unfold State.inError at herr
    rw [Bool.and_eq_true, decide_eq_true_iff, decide_eq_true_iff] at herr
    by_cases hm : (s.slot k w).mark = .inService
    · exact .inr (not_not.1 fun he => herr ⟨hm, he⟩)
    · exact .inl hm
  · rw [if_pos herr, if_neg]
    swap
    · unfold State.inError at herr
      rw [Bool.and_eq_true, decide_eq_true_iff, decide_eq_true_iff] at herr
      rintro (hm | he)
      · exact hm herr.1
      · exact herr.2 he
    rw [hs1]
    have tagged : s.bench k { b with d := b.d.setSlot w (s.slot k w).worn } = s.bench k (s.benchTagged k w b)
        ∨ (s.slot k w).tagEcc ≠ .good := by
      by_cases ht : (s.slot k w).tagEcc = .good
      · refine .inl ?_
        have hw : ({ (s.slot k w).worn with tagEcc := .good } : Slot) = (s.slot k w).worn := by
          rw [← ht]
          rfl
        unfold State.benchTagged
        rw [if_pos ht, List.append_nil, hw]
      · exact .inr ht
    have readable (ht : (s.slot k w).tagEcc ≠ .uncorrectable) : s.verdict k w ≠ .withdrawn := by
      by_cases hx' : (s.slot k w).losesHolders = true
      · obtain ⟨hg, r, hr, hst⟩ := (Slot.losesHolders_iff _).1 hx'
        rw [State.verdict_losesHolders ht hg hr hst]
        exact fun hn => by cases hn
      · rw [State.verdict_corrected ht (Bool.eq_false_iff.2 hx')]
        exact fun hn => by cases hn
    split
    · next ht =>
      have hne : (s.slot k w).tagEcc ≠ .uncorrectable := by rw [ht]; decide
      rw [tagged.resolve_right (not_not.2 ht), State.checkHolder_tagged h b hne, if_neg fun hh => hne hh.1,
        decide_eq_false (readable hne)]
      simp
    · next ht =>
      have hne : (s.slot k w).tagEcc ≠ .uncorrectable := by rw [ht]; decide
      have hs2 : ((s.bench k { b with d := b.d.setSlot w (s.slot k w).worn }).setSlot k w
          { (s.bench k { b with d := b.d.setSlot w (s.slot k w).worn }).slot k w with tagEcc := .good }).reportCorrected
            k w .tag = s.bench k (s.benchTagged k w b) := by
        unfold State.reportCorrected State.benchTagged
        rw [State.slot_bench h, State.setSlot_bench h, State.slot_bench h, ht, if_neg (by decide)]
        simp only [DirSet.slot_setSlot_same, DirSet.setSlot_setSlot]
        rfl
      rw [hs2, State.checkHolder_tagged h b hne, if_neg fun hh => hne hh.1, decide_eq_false (readable hne)]
      simp
    · next ht =>
      rw [hc, State.boundLine_bench h hx]
      split
      · next e l hl =>
        have hv : s.verdict k w = .damaged (tagOf l) true .tag (some (s.txn e)) := by
          unfold State.verdict
          simp only [if_pos ht, hl]
        have hst : s.bench k (s.benchAfter k w b) = if (s.slot k w).holderEcc = .good then
            (s.bench k { b with d := b.d.setSlot w (s.slot k w).worn }).writeDamaged k w (tagOf l) true .tag (some (s.txn e))
          else ((s.bench k { b with d := b.d.setSlot w (s.slot k w).worn }).writeDamaged k w (tagOf l) true .tag
            (some (s.txn e))).reportCorrected k w .holder := by
          rw [State.writeDamaged_bench h]
          unfold State.benchAfter State.checkReports State.damageAfter State.reportCorrected
          rw [State.slot_bench h]
          simp only [hv, DirSet.slot_setSlot_same, DirSet.setSlot_setSlot]
          by_cases hg : (s.slot k w).holderEcc = .good
          · simp [hg]
            rfl
          · simp only [if_neg hg, State.report_bench, List.append_assoc]
            simp [hg]
            rfl
        have hun : (s.slot k w).tagEcc = .uncorrectable ∧ s.verdict k w ≠ .withdrawn :=
          ⟨ht, by rw [hv]; exact fun hn => by cases hn⟩
        rw [if_pos hun, hst, hv]
        simp
        rfl
      · next hl =>
        have hv : s.verdict k w = .withdrawn := by
          unfold State.verdict
          simp only [if_pos ht, hl]
        rw [State.withdraw_bench (c := { c with s := s.bench k { b with d := b.d.setSlot w (s.slot k w).worn } }) h rfl hx hv,
          if_neg fun hh => hh.2 hv, hv]
        simp

end

end Sys2Proof.Machine
end

section
/-! PROOF. The pass of the checks over the ways of a set (R131 to R136), and the free failing slots taken out of service
(R142), for O43. -/

namespace Sys2Proof.Machine

/-! ### Counting where one member changes -/

/-- A member that joins the selection raises its length by one. -/
theorem List.length_filter_joined {α : Type} {f g : α → Bool} {a : α} {l : List α} (hn : l.Nodup) (ha : a ∈ l)
    (hf : f a = false) (hg : g a = true) (h : ∀ x, x ≠ a → g x = f x) :
    (l.filter g).length = (l.filter f).length + 1 := by
  induction l with
  | nil => cases ha
  | cons x l ih =>
    obtain ⟨hx, hn⟩ := List.nodup_cons.1 hn
    by_cases hxa : x = a
    · subst hxa
      have hl : l.filter g = l.filter f := List.filter_congr fun y hy => h y fun he => hx (he ▸ hy)
      rw [List.filter_cons_of_pos hg, List.filter_cons_of_neg (by rw [hf]; decide), hl]
      rfl
    · have hm := (List.mem_cons.1 ha).resolve_left (Ne.symm hxa)
      have hih := ih hn hm
      rw [List.filter_cons, List.filter_cons, h x hxa]
      split
      · simp only [List.length_cons, hih]
      · exact hih

theorem nodup_allWays : allWays.Nodup := List.nodup_finRange 16

theorem mem_allWays (w : Way) : w ∈ allWays := List.mem_finRange w

theorem DirSet.retiredCount_setSlot {d : DirSet} {w : Way} {y : Slot} (h : (d.slot w).mark ≠ .retired) :
    (d.setSlot w y).retiredCount = d.retiredCount + if y.mark = .retired then 1 else 0 := by
  split
  · next hy =>
    refine List.length_filter_joined nodup_allWays (mem_allWays w) (decide_eq_false h) ?_ fun v hv => ?_
    · rw [DirSet.slot_setSlot_same]
      exact decide_eq_true hy
    · rw [DirSet.slot_setSlot_ne d y hv]
  · next hy =>
    unfold DirSet.retiredCount
    refine congrArg List.length (List.filter_congr fun v _ => ?_)
    by_cases hv : v = w
    · rw [hv, DirSet.slot_setSlot_same, decide_eq_false hy, decide_eq_false h]
    · rw [DirSet.slot_setSlot_ne d y hv]

/-- Where the ways before `w` in a list number `n`, a first part of the list reaches `w` just when it is longer than `n`. -/
theorem List.mem_take_split {α : Type} {l r : List α} {a : α} {n : Nat} (hn : (l ++ a :: r).Nodup) :
    a ∈ (l ++ a :: r).take n ↔ l.length < n := by
  have ha : a ∉ l := fun hm => by
    have := (List.nodup_append.1 hn).2.2 a hm a List.mem_cons_self
    exact this rfl
  rw [List.take_append, List.mem_append]
  constructor
  · rintro (h | h)
    · exact absurd (List.mem_of_mem_take h) ha
    · by_contra hlt
      rw [Nat.sub_eq_zero_of_le (by omega), List.take_zero] at h
      cases h
  · intro h
    refine .inr ?_
    obtain ⟨m, hm⟩ : ∃ m, n - l.length = m + 1 := ⟨n - l.length - 1, by omega⟩
    rw [hm, List.take_succ_cons]
    exact List.mem_cons_self

/-! ### The ways found in error, up to a point -/

section
variable {s : State} {k : SetIdx}

/-- The ways of `l` in error. -/
def State.badAmong (s : State) (k : SetIdx) (l : List Way) : List Way := l.filter (s.inError k)

/-- The ways of `l` that the checks withdraw. -/
def State.goneAmong (s : State) (k : SetIdx) (l : List Way) : List Way :=
  (s.badAmong k l).filter fun w => decide (s.verdict k w = .withdrawn)

theorem State.goneAmong_all (s : State) (k : SetIdx) : s.goneAmong k allWays = s.withdrawnWays k := rfl

theorem State.badAmong_concat (l : List Way) (w : Way) :
    s.badAmong k (l ++ [w]) = s.badAmong k l ++ if s.inError k w then [w] else [] := by
  unfold State.badAmong
  rw [List.filter_append, List.filter_singleton]
  cases s.inError k w <;> rfl

theorem State.goneAmong_concat (l : List Way) (w : Way) :
    s.goneAmong k (l ++ [w]) = s.goneAmong k l ++ if s.inError k w = true ∧ s.verdict k w = .withdrawn then [w] else [] := by
  unfold State.goneAmong
  rw [State.badAmong_concat, List.filter_append]
  congr 1
  by_cases hb : s.inError k w = true
  · rw [if_pos hb, List.filter_singleton]
    by_cases hv : s.verdict k w = .withdrawn
    · simp [hb, hv]
    · simp [hb, hv]
  · simp [hb]

theorem State.mem_goneAmong {l : List Way} {w : Way} :
    w ∈ s.goneAmong k l ↔ w ∈ l ∧ s.inError k w = true ∧ s.verdict k w = .withdrawn := by
  unfold State.goneAmong State.badAmong
  rw [List.mem_filter, List.mem_filter, decide_eq_true_iff, and_assoc]

/-- The bench as the checks of the ways of `l` leave it, `l` being those checked so far. -/
structure ChecksDone (s : State) (k : SetIdx) (l : List Way) (b : Bench) (c : Checked) : Prop where
  state : c.s = s.bench k b
  slot : ∀ v, b.d.slot v = if v ∈ l then s.slotAfterCheck k v else s.slot k v
  recency : b.d.recency = (s.goneAmong k l).foldl List.erase (s.dirSet k).recency
  lost : b.d.lost = ((s.dirSet k).lost || (s.goneAmong k l).any fun w => (s.slot k w).reservation.isNone)
  retired : b.d.retiredCount = (s.dirSet k).retiredCount + min (s.goneAmong k l).length (8 - (s.dirSet k).retiredCount)
  reports : b.reports = s.reports ++ (s.badAmong k l).flatMap (s.checkReports k)
  integ : b.integ = { s.integ with
    damaged := ((s.badAmong k l).foldl (s.damageAfter k) (s.integ.damaged, s.integ.fenceMark)).1
    fenceMark := ((s.badAmong k l).foldl (s.damageAfter k) (s.integ.damaged, s.integ.fenceMark)).2
    retireList := s.integ.retireList.filter fun i => !(decide (i.set = k) && (s.goneAmong k l).contains i.way) }
  errs : c.errs = s.badAmong k l
  marked : c.marked = (s.goneAmong k l).any fun w => (s.slot k w).reservation.isNone
  rebuilt : c.rebuilt = (s.badAmong k l).filter fun w =>
    decide ((s.slot k w).tagEcc = .uncorrectable) && decide (s.verdict k w ≠ .withdrawn)

theorem ChecksDone.start (h : s.dir.wf = true) :
    ChecksDone s k [] ⟨s.dirSet k, s.reports, s.integ⟩ ⟨s, [], [], false⟩ := by
  refine ⟨(State.bench_self h).symm, fun v => ?_, rfl, ?_, ?_, ?_, ?_, rfl, rfl, rfl⟩
  · rw [if_neg List.not_mem_nil]
    rfl
  · exact (Bool.or_false _).symm
  · show _ = _ + min 0 _
    rw [Nat.zero_min, Nat.add_zero]
  · exact (List.append_nil _).symm
  · have hl : s.integ.retireList.filter (fun i => !(decide (i.set = k) && (s.goneAmong k []).contains i.way))
        = s.integ.retireList := by
      rw [List.filter_eq_self]
      intro i _
      show (!(decide (i.set = k) && false)) = true
      rw [Bool.and_false]
      rfl
    rw [hl]
    rfl

/-- A way in error is in service. -/
theorem State.mark_of_inError {w : Way} (h : s.inError k w = true) : (s.slot k w).mark = .inService := by
  unfold State.inError at h
  rw [Bool.and_eq_true, decide_eq_true_iff] at h
  exact h.1

/-- A way among those that the retired map has room for. -/
theorem State.retires_iff {l r : List Way} {w : Way} (hl : l ++ w :: r = allWays) (hg : s.inError k w = true)
    (hv : s.verdict k w = .withdrawn) : w ∈ (s.dirSet k).retiring (s.withdrawnWays k)
      ↔ (s.goneAmong k l).length < 8 - (s.dirSet k).retiredCount := by
  have hsplit : s.withdrawnWays k = s.goneAmong k l ++ w :: s.goneAmong k r := by
    rw [← State.goneAmong_all, ← hl]
    unfold State.goneAmong State.badAmong
    rw [List.filter_append, List.filter_cons_of_pos hg, List.filter_append,
      List.filter_cons_of_pos (by rw [hv]; decide)]
  have hn : (s.withdrawnWays k).Nodup := (nodup_allWays.filter _).filter _
  unfold DirSet.retiring
  rw [hsplit] at hn ⊢
  exact List.mem_take_split hn

/-- The slot written by the checks of `w`, beside those of the ways checked before. -/
theorem ChecksDone.slot_next {l : List Way} {w : Way} {b : Bench} {c : Checked} (g : ChecksDone s k l b c) (v : Way) :
    (b.d.setSlot w (s.slotAfterCheck k w)).slot v = if v ∈ l ++ [w] then s.slotAfterCheck k v else s.slot k v := by
  rw [DirSet.slot_setSlot, g.slot]
  by_cases hv : v = w
  · rw [if_pos hv, if_pos (hv ▸ List.mem_append_right l List.mem_cons_self), hv]
  · have hm : v ∈ l ++ [w] ↔ v ∈ l := by simp [hv]
    simp only [if_neg hv, hm]

/-- A way in order is passed over. -/
theorem ChecksDone.next_good {l : List Way} {w : Way} {b : Bench} {c : Checked} (g : ChecksDone s k l b c)
    (he : ¬ s.inError k w = true) (hx : b.d.slot w = s.slot k w) : ChecksDone s k (l ++ [w]) b c := by
  have hbad : s.badAmong k (l ++ [w]) = s.badAmong k l := by rw [State.badAmong_concat, if_neg he, List.append_nil]
  have hgone : s.goneAmong k (l ++ [w]) = s.goneAmong k l := by
    rw [State.goneAmong_concat, if_neg fun hh => he hh.1, List.append_nil]
  have hs : s.slotAfterCheck k w = b.d.slot w := by
    unfold State.slotAfterCheck
    rw [if_neg he, hx]
  refine ⟨g.state, fun v => ?_, by rw [hgone]; exact g.recency, by rw [hgone]; exact g.lost, by rw [hgone]; exact g.retired,
    by rw [hbad]; exact g.reports, by rw [hbad, hgone]; exact g.integ, by rw [hbad]; exact g.errs,
    by rw [hgone]; exact g.marked, by rw [hbad]; exact g.rebuilt⟩
  rw [← g.slot_next, hs, DirSet.setSlot_self]

theorem State.benchAfter_kept {w : Way} (b : Bench) (he : s.inError k w = true) (hv : s.verdict k w ≠ .withdrawn) :
    s.benchAfter k w b = ⟨b.d.setSlot w (s.slotAfterCheck k w), b.reports ++ s.checkReports k w,
      b.integ.withDamage (s.damageAfter k (b.integ.damaged, b.integ.fenceMark) w)⟩ := by
  unfold State.benchAfter State.slotAfterCheck
  rw [if_pos he]
  rcases hw : s.verdict k w with _ | ⟨t, p, sel, n⟩ | _
  · rfl
  · rfl
  · exact absurd hw hv

theorem State.benchAfter_withdrawn {w : Way} (b : Bench) (he : s.inError k w = true) (hv : s.verdict k w = .withdrawn)
    (hroom : b.d.mapHasRoom = true ↔ w ∈ (s.dirSet k).retiring (s.withdrawnWays k)) :
    s.benchAfter k w b = ⟨{ b.d.setSlot w (s.slotAfterCheck k w) with
        recency := b.d.recency.erase w, lost := b.d.lost || (s.slot k w).reservation.isNone },
      b.reports ++ s.checkReports k w,
      (b.integ.withDamage (s.damageAfter k (b.integ.damaged, b.integ.fenceMark) w)).unlist k w⟩ := by
  unfold State.benchAfter State.slotAfterCheck State.checkReports
  rw [if_pos he, hv]
  simp only [hroom]

/-- A way whose words are corrected or whose record is DAMAGED. -/
theorem ChecksDone.next_kept {l : List Way} {w : Way} {b : Bench} {c : Checked} (g : ChecksDone s k l b c)
    (he : s.inError k w = true) (hv : s.verdict k w ≠ .withdrawn) (hx : b.d.slot w = s.slot k w) :
    ChecksDone s k (l ++ [w]) (s.benchAfter k w b) (Checked.after s k w b c) := by
  have hbad : s.badAmong k (l ++ [w]) = s.badAmong k l ++ [w] := by rw [State.badAmong_concat, if_pos he]
  have hgone : s.goneAmong k (l ++ [w]) = s.goneAmong k l := by
    rw [State.goneAmong_concat, if_neg fun hh => hv hh.2, List.append_nil]
  have hmark : (s.slotAfterCheck k w).mark = (b.d.slot w).mark := by
    unfold State.slotAfterCheck
    rw [if_pos he, hx]
    rcases hw : s.verdict k w with _ | ⟨t, p, sel, n⟩ | _
    · rfl
    · rfl
    · exact absurd hw hv
  have hb := State.benchAfter_kept b he hv
  have hin : (b.d.slot w).mark = .inService := hx ▸ State.mark_of_inError he
  unfold Checked.after
  rw [hb]
  refine ⟨rfl, g.slot_next, by rw [hgone]; exact g.recency, by rw [hgone]; exact g.lost, ?_, ?_, ?_, ?_, ?_, ?_⟩
  · rw [hgone, ← g.retired, DirSet.retiredCount_setSlot (by rw [hin]; decide), hmark, hin, if_neg (by decide), Nat.add_zero]
  · show b.reports ++ _ = _
    rw [hbad, List.flatMap_append, g.reports, List.append_assoc, List.flatMap_singleton]
  · rw [hbad, hgone, g.integ, List.foldl_append]
    rfl
  · rw [hbad, g.errs]
  · rw [hgone, decide_eq_false hv, Bool.false_and, Bool.or_false]
    exact g.marked
  · rw [hbad, List.filter_append, ← g.rebuilt]
    by_cases ht : (s.slot k w).tagEcc = .uncorrectable <;> simp [ht, hv]

/-- A way that the checks withdraw. -/
theorem ChecksDone.next_withdrawn {l r : List Way} {w : Way} (hl : l ++ w :: r = allWays) {b : Bench} {c : Checked}
    (g : ChecksDone s k l b c) (he : s.inError k w = true) (hv : s.verdict k w = .withdrawn)
    (hx : b.d.slot w = s.slot k w) :
    ChecksDone s k (l ++ [w]) (s.benchAfter k w b) (Checked.after s k w b c) := by
  have hbad : s.badAmong k (l ++ [w]) = s.badAmong k l ++ [w] := by rw [State.badAmong_concat, if_pos he]
  have hgone : s.goneAmong k (l ++ [w]) = s.goneAmong k l ++ [w] := by rw [State.goneAmong_concat, if_pos ⟨he, hv⟩]
  have hin : (b.d.slot w).mark = .inService := hx ▸ State.mark_of_inError he
  have hret := State.retires_iff hl he hv
  have hroom : b.d.mapHasRoom = true ↔ w ∈ (s.dirSet k).retiring (s.withdrawnWays k) := by
    rw [hret]
    unfold DirSet.mapHasRoom
    rw [decide_eq_true_iff, g.retired]
    show _ < 8 ↔ _
    omega
  have hmark : (s.slotAfterCheck k w).mark = .retired ↔ w ∈ (s.dirSet k).retiring (s.withdrawnWays k) := by
    unfold State.slotAfterCheck
    rw [if_pos he, hv]
    show (if w ∈ (s.dirSet k).retiring (s.withdrawnWays k) then ServiceMark.retired else .quarantined) = _ ↔ _
    split
    · next hm => simp [hm]
    · next hm => simp [hm]
  have hb := State.benchAfter_withdrawn b he hv hroom
  unfold Checked.after
  rw [hb]
  refine ⟨rfl, g.slot_next, ?_, ?_, ?_, ?_, ?_, ?_, ?_, ?_⟩
  · show b.d.recency.erase w = _
    rw [hgone, List.foldl_append, g.recency]
    rfl
  · show (b.d.lost || _) = _
    rw [hgone, List.any_append, g.lost, Bool.or_assoc, List.any_cons, List.any_nil, Bool.or_false]
  · show (b.d.setSlot w (s.slotAfterCheck k w)).retiredCount = _
    rw [hgone, DirSet.retiredCount_setSlot (by rw [hin]; decide), g.retired, List.length_append]
    simp only [hmark, hret, List.length_singleton]
    split <;> omega
  · show b.reports ++ _ = _
    rw [hbad, List.flatMap_append, g.reports, List.append_assoc, List.flatMap_singleton]
  · rw [hbad, hgone, g.integ, List.foldl_append]
    unfold IntegrityUnit.unlist IntegrityUnit.withDamage
    simp only [List.filter_filter]
    congr 1
    refine List.filter_congr fun i _ => ?_
    by_cases hi : i.set = k <;> by_cases hw : i.way = w <;> simp [hi, hw]
  · rw [hbad, g.errs]
  · rw [hgone, List.any_append, ← g.marked, hv]
    simp
  · rw [hbad, List.filter_append, ← g.rebuilt, hv]
    simp [hv]

/-- The checks of the next way. -/
theorem ChecksDone.next (h : s.dir.wf = true) {l r : List Way} {w : Way} (hl : l ++ w :: r = allWays) {b : Bench}
    {c : Checked} (g : ChecksDone s k l b c) : ∃ b', ChecksDone s k (l ++ [w]) b' (Checked.slot k c w) := by
  have hw : w ∉ l := fun hm => by
    have hn : (l ++ w :: r).Nodup := hl ▸ nodup_allWays
    exact (List.nodup_append.1 hn).2.2 w hm w List.mem_cons_self rfl
  have hx : b.d.slot w = s.slot k w := by rw [g.slot, if_neg hw]
  have hstep := Checked.slot_bench h g.state hx
  by_cases he : s.inError k w = true
  · rw [if_pos he] at hstep
    rw [hstep]
    by_cases hv : s.verdict k w = .withdrawn
    · exact ⟨_, g.next_withdrawn hl he hv hx⟩
    · exact ⟨_, g.next_kept he hv hx⟩
  · rw [if_neg he] at hstep
    rw [hstep]
    exact ⟨b, g.next_good he hx⟩

/-- The checks of the whole set. -/
theorem ChecksDone.all (h : s.dir.wf = true) : ∃ b, ChecksDone s k allWays b (s.check k) := by
  have fold (r l : List Way) (hl : l ++ r = allWays) (b : Bench) (c : Checked) (g : ChecksDone s k l b c) :
      ∃ b', ChecksDone s k allWays b' (r.foldl (Checked.slot k) c) := by
    induction r generalizing l b c with
    | nil =>
      rw [List.append_nil] at hl
      exact ⟨b, hl ▸ g⟩
    | cons w r ih =>
      obtain ⟨b', g'⟩ := g.next h hl
      exact ih (l ++ [w]) (by rw [List.append_assoc]; exact hl) b' _ g'
  exact fold allWays [] rfl _ _ (.start h)

end

end Sys2Proof.Machine
end

section
/-! PROOF. What an access does before its claimant's outcome (R11, R131 to R136, R142), and O43. -/

namespace Sys2Proof.Machine

/-! ### The whole pass of the checks -/

section
variable {s : State} {k : SetIdx}

theorem State.bench_eq (b : Bench) (hr : b.reports = s.reports) (hi : b.integ = s.integ) :
    { s.bench k b with dir := s.dir } = s := by
  unfold State.bench
  rw [hr, hi]

theorem State.not_withdrawn_iff {w : Way} (hw : w ∈ s.badWays k) : w ∉ s.withdrawnWays k ↔ s.verdict k w ≠ .withdrawn := by
  unfold State.withdrawnWays
  rw [List.mem_filter, decide_eq_true_iff]
  exact ⟨fun h hv => h ⟨hw, hv⟩, fun h hm => h hm.2⟩

/-- What the checks of a set leave (R131 to R136). -/
theorem State.check_spec (h : s.dir.wf = true) :
    (∀ w, (s.check k).s.slot k w = s.slotAfterCheck k w)
      ∧ ((s.check k).s.dirSet k).recency = (s.withdrawnWays k).foldl List.erase (s.dirSet k).recency
      ∧ ((s.check k).s.dirSet k).lost
          = ((s.dirSet k).lost || (s.withdrawnWays k).any fun w => (s.slot k w).reservation.isNone)
      ∧ (∀ j, j ≠ k → (s.check k).s.dirSet j = s.dirSet j)
      ∧ (s.check k).s.reports = s.reports ++ (s.badWays k).flatMap (s.checkReports k)
      ∧ ((s.check k).s.integ.damaged, (s.check k).s.integ.fenceMark) =
          (s.badWays k).foldl (s.damageAfter k) (s.integ.damaged, s.integ.fenceMark)
      ∧ (s.check k).s.integ.retireList
          = s.integ.retireList.filter (fun i => !(decide (i.set = k) && (s.withdrawnWays k).contains i.way))
      ∧ { (s.check k).s with dir := s.dir, reports := s.reports, integ := { (s.check k).s.integ with
          damaged := s.integ.damaged, fenceMark := s.integ.fenceMark, retireList := s.integ.retireList } } = s
      ∧ (s.check k).errs = s.badWays k
      ∧ (s.check k).marked = (s.withdrawnWays k).any (fun w => (s.slot k w).reservation.isNone)
      ∧ (s.check k).rebuilt = (s.badWays k).filter fun w =>
          decide ((s.slot k w).tagEcc = .uncorrectable) && decide (w ∉ s.withdrawnWays k) := by
  obtain ⟨b, g⟩ := ChecksDone.all (k := k) h
  have hd := State.dirSet_bench (k := k) h b
  refine ⟨fun w => ?_, ?_, ?_, fun j hj => ?_, ?_, ?_, ?_, ?_, g.errs, g.marked, ?_⟩
  · rw [g.state, State.slot_bench h, g.slot, if_pos (mem_allWays w)]
  · rw [g.state, hd]
    exact g.recency
  · rw [g.state, hd]
    exact g.lost
  · rw [g.state]
    exact State.dirSet_bench_ne b hj
  · rw [g.state]
    exact g.reports
  · rw [g.state]
    show (b.integ.damaged, b.integ.fenceMark) = _
    rw [g.integ]
    rfl
  · rw [g.state]
    show b.integ.retireList = _
    rw [g.integ]
    rfl
  · rw [g.state]
    unfold State.bench
    rw [g.integ]
  · rw [g.rebuilt]
    refine List.filter_congr fun w hw => ?_
    congr 1
    exact decide_eq_decide.2 (State.not_withdrawn_iff hw).symm

theorem State.wf_check (h : s.dir.wf = true) : (s.check k).s.dir.wf = true := by
  obtain ⟨b, g⟩ := ChecksDone.all (k := k) h
  rw [g.state]
  exact State.wf_bench h b

/-! ### Free failing slots out of service (R142) -/

/-- The ways of `l` that are considered for retirement and free. -/
def State.freeAmong (s : State) (k : SetIdx) (l : List Way) : List Way :=
  (l.filter (s.considered k)).filter fun w => decide (s.recordAt k w = none)

/-- The ways of `l` that are considered for retirement and hold a record. -/
def State.heldAmong (s : State) (k : SetIdx) (l : List Way) : List Way :=
  (l.filter (s.considered k)).filter fun w => decide (s.recordAt k w ≠ none)

/-- The reports of the free slots `l` retired, or denied for want of room. -/
def State.retireReports (s : State) (k : SetIdx) (l : List Way) : List Report :=
  ((s.dirSet k).retiring l).map (s.slotReport .slotRetired k)
    ++ (l.drop ((s.dirSet k).retiring l).length).map (s.slotReport .retireDenied k)

/-- The access begun, the ways of `l` considered so far, from the state `s` that the checks left. -/
structure Considered (s : State) (k : SetIdx) (l : List Way) (a0 : Access) (b : Bench) (a : Access) : Prop where
  state : a.s = s.bench k b
  reports : b.reports = s.reports
  integ : b.integ = s.integ
  slot : ∀ v, b.d.slot v = if v ∈ (s.dirSet k).retiring (s.freeAmong k l) then (s.slot k v).outOfService .retired
    else s.slot k v
  recency : b.d.recency = ((s.dirSet k).retiring (s.freeAmong k l)).foldl List.erase (s.dirSet k).recency
  lost : b.d.lost = (s.dirSet k).lost
  retired : b.d.retiredCount = (s.dirSet k).retiredCount + min (s.freeAmong k l).length (8 - (s.dirSet k).retiredCount)
  judge : a.judge = a0.judge ++ s.heldAmong k l
  late : a.late = a0.late ++ s.retireReports k (s.freeAmong k l)
  rebuilt : a.rebuilt = a0.rebuilt
  marked : a.marked = a0.marked

theorem DirSet.retiring_concat (d : DirSet) (l : List Way) (w : Way) :
    d.retiring (l ++ [w]) = d.retiring l ++ if l.length < 8 - d.retiredCount then [w] else [] := by
  unfold DirSet.retiring
  rw [List.take_append]
  congr 1
  split
  · next hlt =>
    rw [List.take_of_length_le]
    rw [List.length_singleton]
    omega
  · next hge => rw [Nat.sub_eq_zero_of_le (by omega), List.take_zero]

theorem State.retireReports_room {l : List Way} (h : l.length < 8 - (s.dirSet k).retiredCount) (w : Way) :
    s.retireReports k (l ++ [w]) = s.retireReports k l ++ [s.slotReport .slotRetired k w] := by
  have hl : (s.dirSet k).retiring l = l := List.take_of_length_le (by omega)
  unfold State.retireReports
  rw [DirSet.retiring_concat, if_pos h, hl, List.drop_length, List.drop_length]
  simp

theorem State.retireReports_full {l : List Way} (h : ¬ l.length < 8 - (s.dirSet k).retiredCount) (w : Way) :
    s.retireReports k (l ++ [w]) = s.retireReports k l ++ [s.slotReport .retireDenied k w] := by
  have hlen : ((s.dirSet k).retiring l).length ≤ l.length := List.length_take_le' _ _
  unfold State.retireReports
  rw [DirSet.retiring_concat, if_neg h, List.append_nil, List.drop_append, Nat.sub_eq_zero_of_le hlen]
  simp

/-- Being considered for retirement depends on the slot and on what the checks leave alone. -/
theorem State.considered_bench (h : s.dir.wf = true) {b : Bench} (hi : b.integ = s.integ) {w : Way}
    (hx : b.d.slot w = s.slot k w) : (s.bench k b).considered k w = s.considered k w := by
  unfold State.considered State.onRetireList
  rw [State.slot_bench h, hx]
  show (_ && _ && _ && !(b.integ.retireList.any _) && _ && _) = _
  rw [hi]
  rfl

theorem Considered.start (h : s.dir.wf = true) (a : Access) (ha : a.s = s) :
    Considered s k [] a ⟨s.dirSet k, s.reports, s.integ⟩ a := by
  refine ⟨ha.trans (State.bench_self h).symm, rfl, rfl, fun v => ?_, ?_, rfl, ?_, ?_, ?_, rfl, rfl⟩
  · have : v ∉ (s.dirSet k).retiring (s.freeAmong k []) := fun hm => by cases List.mem_of_mem_take hm
    rw [if_neg this]
    rfl
  · exact congrArg (fun l => List.foldl List.erase (s.dirSet k).recency l) (List.take_nil).symm
  · show _ = _ + min 0 _
    rw [Nat.zero_min, Nat.add_zero]
  · exact (List.append_nil _).symm
  · unfold State.retireReports DirSet.retiring
    simp [State.freeAmong]

theorem State.freeAmong_concat (l : List Way) (w : Way) : s.freeAmong k (l ++ [w]) =
    s.freeAmong k l ++ if s.considered k w = true ∧ s.recordAt k w = none then [w] else [] := by
  unfold State.freeAmong
  rw [List.filter_append, List.filter_append]
  congr 1
  by_cases hc : s.considered k w = true
  · by_cases hr : s.recordAt k w = none <;> simp [hc, hr]
  · simp [hc]

theorem State.heldAmong_concat (l : List Way) (w : Way) : s.heldAmong k (l ++ [w]) =
    s.heldAmong k l ++ if s.considered k w = true ∧ s.recordAt k w ≠ none then [w] else [] := by
  unfold State.heldAmong
  rw [List.filter_append, List.filter_append]
  congr 1
  by_cases hc : s.considered k w = true
  · by_cases hr : s.recordAt k w = none <;> simp [hc, hr]
  · simp [hc]

theorem State.not_mem_retiring {l : List Way} {w : Way} (hw : w ∉ l) :
    w ∉ (s.dirSet k).retiring (s.freeAmong k l) := fun hm =>
  hw (List.mem_filter.1 (List.mem_filter.1 (List.mem_of_mem_take hm)).1).1

/-- A slot in service taken out of service on the bench. -/
theorem Considered.withdraw_room {l : List Way} {w : Way} {a0 a : Access} {b : Bench} (h : s.dir.wf = true)
    (g : Considered s k l a0 b a) (hw : w ∉ l) (hc : s.considered k w = true) (hr : s.recordAt k w = none)
    (hroom : (s.freeAmong k l).length < 8 - (s.dirSet k).retiredCount) :
    Considered s k (l ++ [w]) a0 { b with d := b.d.withdraw w .retired }
      { a with s := (s.bench k b).withdrawSlot k w .retired, late := a.late ++ [s.slotReport .slotRetired k w] } := by
  have hfree : s.freeAmong k (l ++ [w]) = s.freeAmong k l ++ [w] := by rw [State.freeAmong_concat, if_pos ⟨hc, hr⟩]
  have hheld : s.heldAmong k (l ++ [w]) = s.heldAmong k l := by
    rw [State.heldAmong_concat, if_neg fun hh => hh.2 hr, List.append_nil]
  have hret : (s.dirSet k).retiring (s.freeAmong k (l ++ [w])) = (s.dirSet k).retiring (s.freeAmong k l) ++ [w] := by
    rw [hfree, DirSet.retiring_concat, if_pos hroom]
  have hx : b.d.slot w = s.slot k w := by rw [g.slot, if_neg (State.not_mem_retiring hw)]
  have hin : (b.d.slot w).mark = .inService := by
    unfold State.considered at hc
    simp only [Bool.and_eq_true, decide_eq_true_iff] at hc
    rw [hx]
    exact hc.1.1.1.1.2
  refine ⟨State.updSet_bench h b fun d => d.withdraw w .retired, g.reports, g.integ, fun v => ?_, ?_, g.lost, ?_, ?_, ?_, g.rebuilt, g.marked⟩
  · show (b.d.withdraw w .retired).slot v = _
    rw [DirSet.slot_withdraw, hret, hx, g.slot]
    by_cases hv : v = w
    · simp [hv]
    · simp [hv]
  · show b.d.recency.erase w = _
    rw [hret, List.foldl_append, g.recency]
    rfl
  · show (b.d.setSlot w ((b.d.slot w).outOfService .retired)).retiredCount = _
    rw [DirSet.retiredCount_setSlot (by rw [hin]; decide), g.retired, hfree, List.length_append, if_pos (by rfl)]
    simp only [List.length_singleton]
    omega
  · rw [hheld]
    exact g.judge
  · rw [hfree, State.retireReports_room hroom, ← List.append_assoc, ← g.late]

/-- A free slot for which the retired map has no room. -/
theorem Considered.deny_full {l : List Way} {w : Way} {a0 a : Access} {b : Bench}
    (g : Considered s k l a0 b a) (hc : s.considered k w = true) (hr : s.recordAt k w = none)
    (hroom : ¬ (s.freeAmong k l).length < 8 - (s.dirSet k).retiredCount) :
    Considered s k (l ++ [w]) a0 b { a with s := s.bench k b, late := a.late ++ [s.slotReport .retireDenied k w] } := by
  have hfree : s.freeAmong k (l ++ [w]) = s.freeAmong k l ++ [w] := by rw [State.freeAmong_concat, if_pos ⟨hc, hr⟩]
  have hheld : s.heldAmong k (l ++ [w]) = s.heldAmong k l := by
    rw [State.heldAmong_concat, if_neg fun hh => hh.2 hr, List.append_nil]
  have hret : (s.dirSet k).retiring (s.freeAmong k (l ++ [w])) = (s.dirSet k).retiring (s.freeAmong k l) := by
    rw [hfree, DirSet.retiring_concat, if_neg hroom, List.append_nil]
  refine ⟨rfl, g.reports, g.integ, fun v => by rw [hret]; exact g.slot v, by rw [hret]; exact g.recency, g.lost, ?_,
    by rw [hheld]; exact g.judge, ?_, g.rebuilt, g.marked⟩
  · rw [g.retired, hfree, List.length_append]
    simp only [List.length_singleton]
    omega
  · rw [hfree, State.retireReports_full hroom, ← List.append_assoc, ← g.late]

/-- A way that is not considered, or that holds a record. -/
theorem Considered.keep {l : List Way} {w : Way} {a0 a : Access} {b : Bench} (g : Considered s k l a0 b a)
    (hn : ¬ (s.considered k w = true ∧ s.recordAt k w = none)) : Considered s k (l ++ [w]) a0 b
      { a with judge := a.judge ++ if s.considered k w = true ∧ s.recordAt k w ≠ none then [w] else [] } := by
  have hfree : s.freeAmong k (l ++ [w]) = s.freeAmong k l := by rw [State.freeAmong_concat, if_neg hn, List.append_nil]
  refine ⟨g.state, g.reports, g.integ, fun v => by rw [hfree]; exact g.slot v, by rw [hfree]; exact g.recency, g.lost,
    by rw [hfree]; exact g.retired, ?_, by rw [hfree]; exact g.late, g.rebuilt, g.marked⟩
  rw [State.heldAmong_concat, ← List.append_assoc, ← g.judge]

theorem Considered.next {l : List Way} {w : Way} {a0 a : Access} {b : Bench} (h : s.dir.wf = true)
    (g : Considered s k l a0 b a) (hw : w ∉ l) : ∃ b', Considered s k (l ++ [w]) a0 b' (a.consider k w) := by
  have hx : b.d.slot w = s.slot k w := by rw [g.slot, if_neg (State.not_mem_retiring hw)]
  have hslot : a.s.slot k w = s.slot k w := by rw [g.state, State.slot_bench h, hx]
  have hcons : a.s.considered k w = s.considered k w := by rw [g.state, State.considered_bench h g.integ hx]
  have hroom : (a.s.dirSet k).mapHasRoom = true ↔ (s.freeAmong k l).length < 8 - (s.dirSet k).retiredCount := by
    rw [g.state, State.dirSet_bench h]
    unfold DirSet.mapHasRoom
    rw [decide_eq_true_iff, g.retired]
    show _ < 8 ↔ _
    omega
  unfold Access.consider
  rw [hcons, hslot]
  split
  · next hc =>
    split
    · next hr =>
      unfold State.retireFree
      by_cases hm : (a.s.dirSet k).mapHasRoom = true
      · have hrep : a.s.slotReport .slotRetired k w = s.slotReport .slotRetired k w := by
          unfold State.slotReport
          rw [hslot]
        rw [if_pos hm]
        dsimp only
        rw [hrep, g.state]
        exact ⟨_, g.withdraw_room h hw hc hr (hroom.1 hm)⟩
      · have hrep : a.s.slotReport .retireDenied k w = s.slotReport .retireDenied k w := by
          unfold State.slotReport
          rw [hslot]
        rw [if_neg hm]
        dsimp only
        rw [hrep, g.state]
        exact ⟨_, g.deny_full hc hr fun hlt => hm (hroom.2 hlt)⟩
    · next r hr =>
      have hne : s.recordAt k w ≠ none := fun hn => by
        have : (s.slot k w).content = none := hn
        rw [hr] at this
        cases this
      have := g.keep (w := w) fun hh => hne hh.2
      rw [if_pos ⟨hc, hne⟩] at this
      exact ⟨b, this⟩
  · next hc =>
    have := g.keep (w := w) fun hh => hc hh.1
    rw [if_neg fun hh => hc hh.1, List.append_nil] at this
    exact ⟨b, this⟩

theorem Considered.all (h : s.dir.wf = true) {errs : List Way} (hn : errs.Nodup) (a : Access) (ha : a.s = s) :
    ∃ b, Considered s k errs a b (errs.foldl (Access.consider k) a) := by
  have fold (r l : List Way) (hl : (l ++ r).Nodup) (b : Bench) (a' : Access) (g : Considered s k l a b a') :
      ∃ b', Considered s k (l ++ r) a b' (r.foldl (Access.consider k) a') := by
    induction r generalizing l b a' with
    | nil => exact ⟨b, by rw [List.append_nil]; exact g⟩
    | cons w r ih =>
      have hw : w ∉ l := fun hm => (List.nodup_append.1 hl).2.2 w hm w List.mem_cons_self rfl
      obtain ⟨b', g'⟩ := g.next h hw
      have := ih (l ++ [w]) (by rw [List.append_assoc]; exact hl) b' _ g'
      rwa [List.append_assoc] at this
  exact fold errs [] hn _ a (.start h a ha)

/-! ### Storage errors met (R131, log 3) -/

/-- The condition of a word of a slot. -/
def Slot.ecc (x : Slot) : WordSel → WordCond
  | .tag => x.tagEcc
  | .holder => x.holderEcc

/-- The set with the words of `f` as the storage leaves them. -/
def DirSet.struck (d : DirSet) (f : List CellFault) : DirSet :=
  f.foldl (fun d c => d.setSlot c.way ((d.slot c.way).strike c)) d

theorem Slot.ecc_strike (x : Slot) (c : CellFault) (sel : WordSel) :
    (x.strike c).ecc sel = if c.word = sel then c.cond else x.ecc sel := by
  unfold Slot.strike
  split
  · next hw => cases sel <;> rw [hw] <;> rfl
  · next hw => cases sel <;> rw [hw] <;> rfl

/-- A strike changes the conditions of words alone. -/
theorem Slot.strike_words (x : Slot) (c : CellFault) (t h : WordCond) :
    ({ x.strike c with tagEcc := t, holderEcc := h } : Slot) = { x with tagEcc := t, holderEcc := h } := by
  unfold Slot.strike
  split <;> rfl

theorem DirSet.slot_strike (d : DirSet) (c : CellFault) (w : Way) :
    (d.setSlot c.way ((d.slot c.way).strike c)).slot w = if c.way = w then (d.slot w).strike c else d.slot w := by
  rw [DirSet.slot_setSlot]
  by_cases h : w = c.way
  · rw [if_pos h, if_pos h.symm, h]
  · rw [if_neg h, if_neg (Ne.symm h)]

theorem DirSet.struck_words (d : DirSet) (f : List CellFault) (w : Way) (t h : WordCond) :
    ({ (d.struck f).slot w with tagEcc := t, holderEcc := h } : Slot) = { d.slot w with tagEcc := t, holderEcc := h } := by
  induction f generalizing d with
  | nil => rfl
  | cons c f ih =>
    refine (ih _).trans ?_
    rw [DirSet.slot_strike]
    split
    · exact Slot.strike_words _ _ _ _
    · rfl

/-- A word that `f` does not name is left as it is. -/
theorem DirSet.ecc_struck_other (d : DirSet) (f : List CellFault) (w : Way) (sel : WordSel)
    (h : ∀ c ∈ f, c.way = w → c.word ≠ sel) : ((d.struck f).slot w).ecc sel = (d.slot w).ecc sel := by
  induction f generalizing d with
  | nil => rfl
  | cons c f ih =>
    refine (ih _ fun c' hc' => h c' (List.mem_cons_of_mem c hc')).trans ?_
    rw [DirSet.slot_strike]
    split
    · next hw => rw [Slot.ecc_strike, if_neg (h c List.mem_cons_self hw)]
    · rfl

/-- A word that `f` names takes the condition that `f` gives it. -/
theorem DirSet.ecc_struck_named (d : DirSet) (f : List CellFault) (hn : (f.map fun c => (c.way, c.word)).Nodup)
    {c : CellFault} (hc : c ∈ f) : ((d.struck f).slot c.way).ecc c.word = c.cond := by
  induction f generalizing d with
  | nil => cases hc
  | cons a f ih =>
    rw [List.map_cons, List.nodup_cons] at hn
    rcases List.mem_cons.1 hc with rfl | hc
    · refine (DirSet.ecc_struck_other _ f c.way c.word fun c' hc' hw hs => hn.1 ?_).trans ?_
      · exact List.mem_map.2 ⟨c', hc', by rw [hw, hs]⟩
      · rw [DirSet.slot_strike, if_pos rfl, Slot.ecc_strike, if_pos rfl]
    · exact ih _ hn.2 hc

theorem DirSet.struck_order (d : DirSet) (f : List CellFault) :
    (d.struck f).recency = d.recency ∧ (d.struck f).lost = d.lost := by
  induction f generalizing d with
  | nil => exact ⟨rfl, rfl⟩
  | cons c f ih => exact ih _

theorem State.strike_bench (h : s.dir.wf = true) (f : List CellFault) :
    s.strike k f = s.bench k ⟨(s.dirSet k).struck f, s.reports, s.integ⟩ := by
  have fold (f : List CellFault) (b : Bench) : (s.bench k b).strike k f = s.bench k { b with d := b.d.struck f } := by
    induction f generalizing b with
    | nil => rfl
    | cons c f ih =>
      refine Eq.trans (congrArg (fun u : State => u.strike k f) (State.updSet_bench h b _)) ?_
      exact ih _
  refine Eq.trans (congrArg (fun u : State => u.strike k f) (State.bench_self (k := k) h).symm) ?_
  exact fold f _

theorem State.wf_strike (h : s.dir.wf = true) (f : List CellFault) : (s.strike k f).dir.wf = true := by
  rw [State.strike_bench h]
  exact State.wf_bench h _

/-- What the storage errors of an access leave. -/
theorem State.strike_spec (h : s.dir.wf = true) {f : List CellFault} (hf : faultsOk f = true) :
    { s.strike k f with dir := s.dir } = s ∧ (∀ j, j ≠ k → (s.strike k f).dirSet j = s.dirSet j)
      ∧ ((s.strike k f).dirSet k).recency = (s.dirSet k).recency ∧ ((s.strike k f).dirSet k).lost = (s.dirSet k).lost
      ∧ ∀ w, { (s.strike k f).slot k w with tagEcc := (s.slot k w).tagEcc, holderEcc := (s.slot k w).holderEcc } = s.slot k w
        ∧ (∀ c ∈ f, c.way = w → (c.word = .tag → ((s.strike k f).slot k w).tagEcc = c.cond)
            ∧ (c.word = .holder → ((s.strike k f).slot k w).holderEcc = c.cond))
        ∧ ((∀ c ∈ f, c.way = w → c.word ≠ .tag) → ((s.strike k f).slot k w).tagEcc = (s.slot k w).tagEcc)
        ∧ ((∀ c ∈ f, c.way = w → c.word ≠ .holder) → ((s.strike k f).slot k w).holderEcc = (s.slot k w).holderEcc) := by
  have hn : (f.map fun c => (c.way, c.word)).Nodup := by
    unfold faultsOk at hf
    rw [Bool.and_eq_true, decide_eq_true_iff] at hf
    exact hf.1
  rw [State.strike_bench h]
  refine ⟨State.bench_eq _ rfl rfl, fun j hj => State.dirSet_bench_ne _ hj, ?_, ?_, fun w => ?_⟩
  · rw [State.dirSet_bench h]
    exact (DirSet.struck_order _ f).1
  · rw [State.dirSet_bench h]
    exact (DirSet.struck_order _ f).2
  · rw [State.slot_bench h]
    refine ⟨DirSet.struck_words _ f w _ _, fun c hc hw => ?_, DirSet.ecc_struck_other _ f w .tag,
      DirSet.ecc_struck_other _ f w .holder⟩
    have := DirSet.ecc_struck_named (s.dirSet k) f hn hc
    rw [hw] at this
    refine ⟨fun hs => ?_, fun hs => ?_⟩
    · rw [hs] at this
      exact this
    · rw [hs] at this
      exact this

/-! ### The beginning of an access -/

/-- What an access has done before its claimant's outcome (R11, R131, R142, R149). -/
theorem State.beginAccess_spec (h : s.dir.wf = true) (f : List CellFault) :
    let c := (s.strike k f).check k
    let a := s.beginAccess k f
    let failing := c.errs.filter (c.s.considered k)
    let free := failing.filter fun w => decide (c.s.recordAt k w = none)
    let out := (c.s.dirSet k).retiring free
    a.rebuilt = c.rebuilt ∧ a.marked = c.marked
      ∧ (s.part ≠ .run → a.s = c.s ∧ a.judge = [] ∧ a.late = [])
      ∧ (s.part = .run → a.judge = failing.filter (fun w => decide (c.s.recordAt k w ≠ none))
          ∧ a.late = out.map (c.s.slotReport .slotRetired k)
              ++ (free.drop out.length).map (c.s.slotReport .retireDenied k)
          ∧ (∀ w, a.s.slot k w = if w ∈ out then (c.s.slot k w).outOfService .retired else c.s.slot k w)
          ∧ (a.s.dirSet k).recency = out.foldl List.erase (c.s.dirSet k).recency
          ∧ (a.s.dirSet k).lost = (c.s.dirSet k).lost
          ∧ (∀ j, j ≠ k → a.s.dirSet j = s.dirSet j) ∧ { a.s with dir := s.dir } = { c.s with dir := s.dir }) := by
  have hs := State.wf_strike (k := k) h f
  have hc := State.wf_check (k := k) hs
  obtain ⟨-, -, -, hother, -, -, -, -, herrs, -⟩ := State.check_spec (k := k) hs
  have hstrike (j : SetIdx) (hj : j ≠ k) : (s.strike k f).dirSet j = s.dirSet j := by
    rw [State.strike_bench h]
    exact State.dirSet_bench_ne _ hj
  have hn : ((s.strike k f).check k).errs.Nodup := by
    rw [herrs]
    exact nodup_allWays.filter _
  dsimp only
  unfold State.beginAccess
  dsimp only
  generalize (s.strike k f).check k = c at hc hother herrs hn ⊢
  obtain ⟨b, g⟩ := Considered.all (k := k) hc hn ⟨c.s, [], [], c.rebuilt, c.marked⟩ rfl
  by_cases hp : s.part = .run
  · rw [if_pos hp]
    refine ⟨g.rebuilt, g.marked, fun hn => absurd hp hn, fun _ => ⟨g.judge, g.late, fun w => ?_, ?_, ?_, fun j hj => ?_, ?_⟩⟩
    · rw [g.state, State.slot_bench hc]
      exact g.slot w
    · rw [g.state, State.dirSet_bench hc]
      exact g.recency
    · rw [g.state, State.dirSet_bench hc]
      exact g.lost
    · rw [g.state, State.dirSet_bench_ne b hj, hother j hj, hstrike j hj]
    · rw [g.state]
      unfold State.bench
      rw [g.reports, g.integ]
  · rw [if_neg hp]
    exact ⟨rfl, rfl, fun _ => ⟨rfl, rfl, rfl⟩, fun hr => absurd hr hp⟩

end

/-- Settles O43: the frame of a whole access, and the passes before its claimant's outcome way by way. -/
theorem accessTouchesOneSet : Obligations.AccessTouchesOneSet := by
  refine ⟨fun s f d c hc hl => ?_, fun s k f h hf => State.strike_spec h hf, fun s k h => State.check_spec h,
    fun s k f h => State.beginAccess_spec h f⟩
  rcases exec_access hc s with ⟨d', hc', hd', he⟩ | ⟨hn, he⟩
  · refine ⟨_, he, fun hn => absurd hd' (hn d' hc'), fun hd => ?_⟩
    obtain rfl : d' = d := Option.some.inj (hd'.symm.trans hd)
    have g := AccessFrame.accessed s d' f
    refine ⟨g.other, g.cfg, congrArg Prod.fst g.args, congrArg Prod.snd g.args, fun p => ?_, g.masks, g.routings⟩
    have hp := g.ports p
    exact ⟨hp.enable, hp.link, hp.req, hp.discards⟩
  · exact ⟨_, he, fun _ => rfl, fun hd => absurd hd (hn d hc)⟩

end Sys2Proof.Machine
end

section
/-! PROOF. The clearing walk (O5): what one access writes, and the entry to RUN. -/

namespace Sys2Proof.Machine

/-! ### The ports as the part enters RUN (R106, R172) -/

/-- A TRAINING port that has entered ACTIVE. -/
def Port.activated (q : Port) : Port :=
  if q.state = .training then { q with state := .active, credits := q.reqCredits, tags := 0, probeQueue := [], sends := [] }
  else q

/-- The state but for its ports and the messages sent. -/
def State.besidePorts (s : State) : State := { s with ports := State.reset.ports, outbox := [] }

/-- A field that `State.besidePorts` keeps. -/
theorem State.of_besidePorts {α : Type} (g : State → α) (hg : ∀ z : State, g z.besidePorts = g z) {s t : State}
    (h : t.besidePorts = s.besidePorts) : g t = g s := by rw [← hg t, h, hg s]

theorem State.besidePorts_trainUp (s : State) (p : Agent) : (s.trainUp p).besidePorts = s.besidePorts := by
  unfold State.trainUp
  split <;> rfl

theorem State.port_trainUp {s : State} (h : s.part = .run) (p q : Agent) :
    (s.trainUp p).port q = if q = p then (s.port p).activated else s.port q := by
  unfold State.trainUp Port.activated
  by_cases ht : (s.port p).state = .training
  · rw [if_pos ⟨h, ht⟩, if_pos ht]
    exact State.port_updPort s p q fun x => { x with
      state := .active, credits := x.reqCredits, tags := 0, probeQueue := [], sends := [] }
  · rw [if_neg fun hh => ht hh.2, if_neg ht]
    split
    · next hq => rw [hq]
    · rfl

theorem State.trainUp_all {s : State} (h : s.part = .run) (l : List Agent) (hn : l.Nodup) :
    (l.foldl State.trainUp s).besidePorts = s.besidePorts
      ∧ ∀ q, (l.foldl State.trainUp s).port q = if q ∈ l then (s.port q).activated else s.port q := by
  induction l generalizing s with
  | nil => exact ⟨rfl, fun q => by rw [if_neg List.not_mem_nil]; rfl⟩
  | cons p l ih =>
    obtain ⟨hp, hn⟩ := List.nodup_cons.1 hn
    have hs := State.besidePorts_trainUp s p
    have hrun : (s.trainUp p).part = .run := (State.of_besidePorts State.part (fun _ => rfl) hs).trans h
    obtain ⟨hrest, hport⟩ := ih hrun hn
    refine ⟨hrest.trans hs, fun q => (hport q).trans ?_⟩
    rw [State.port_trainUp h]
    by_cases hq : q = p
    · subst hq
      rw [if_neg hp, if_pos rfl, if_pos List.mem_cons_self]
    · have hm : q ∈ p :: l ↔ q ∈ l := by simp [hq]
      simp only [if_neg hq, hm]

/-- The part as it enters RUN: the ports in TRAINING are ACTIVE, the rest is as it was. -/
structure EntersRun (s t : State) : Prop where
  part : t.part = .run
  walk : t.walk = none
  dir : t.dir = s.dir
  integ : t.integ = s.integ
  cfg : t.cfg = s.cfg
  reports : t.reports = s.reports
  intake : t.intake = s.intake
  leave : t.leave = s.leave
  port : ∀ q, t.port q = (s.port q).activated

theorem EntersRun.enterRun (s : State) : EntersRun s s.enterRun := by
  obtain ⟨h, hport⟩ := State.trainUp_all (s := { s with part := .run, walk := none }) rfl allAgents
    (List.nodup_finRange 8)
  have of {α : Type} (g : State → α) (hg : ∀ z : State, g z.besidePorts = g z) :
      g s.enterRun = g { s with part := .run, walk := none } := State.of_besidePorts g hg h
  exact ⟨of State.part fun _ => rfl, of State.walk fun _ => rfl, of State.dir fun _ => rfl, of State.integ fun _ => rfl,
    of State.cfg fun _ => rfl, of State.reports fun _ => rfl, of State.intake fun _ => rfl, of State.leave fun _ => rfl,
    fun q => (hport q).trans (if_pos (List.mem_finRange q))⟩

/-! ### The end of an event with idle queues -/

/-- With no request queued and no port leaving, an event settles by sending probes, listing accesses and raising claims. -/
theorem Pumps.settle_idle {s : State} (hi : s.intake = []) (hl : s.leave = LeaveWalker.idle) : Pumps s s.settle := by
  have h1 : State.takeLeaves s.intake.length s = s :=
    State.takeLeaves_calm s (fun r hr => by rw [hi] at hr; cases hr) _
  have h2 : s.sendLeaveDone = s := State.sendLeaveDone_calm s fun p hp => by rw [hl] at hp; cases hp
  have h3 : s.enterWalk = s := State.enterWalk_calm s fun p hp => by rw [hl] at hp; cases hp
  unfold State.settle
  split
  · unfold State.settleRun
    rw [h1, h2, h3]
    exact ((Pumps.pump s).trans (Pumps.listAccesses _)).trans (Pumps.refreshClaims _)
  · exact .refreshService s
  · exact ⟨.of_eq rfl, rfl, rfl, rfl, fun _ => rfl, fun _ => rfl, fun _ _ => rfl⟩

theorem State.port_takeReports (s : State) (p : Agent) : s.takeReports.port p = s.port p := by
  have u := State.unreported_takeReports s
  simp only [State.unreported, Prod.mk.injEq] at u
  unfold State.port
  rw [u.1.2.2.2.2.2.2.2.2]

theorem State.finish_silent {s : State} (h : s.reports = []) : s.finish.part = s.part ∧ s.finish.svc = s.svc :=
  (Finishes.finish s).calm (State.haltingKind_none s fun r hr => by rw [h] at hr; cases hr)

/-- Settles O5: the access clears its set, and only the last one enters RUN, where each TRAINING port becomes ACTIVE. -/
theorem clearingWalkClearsSet : Obligations.ClearingWalkClearsSet := by
  intro s k hp hw hwf hi hl
  have hexec : exec .clearingWalkStep s = .next ((s.clearOutputs.clearSet k).walkOn k).finish := by
    show Host.Outcome.next _ = _
    rw [hw]
  have hset : (s.clearOutputs.clearSet k).dirSet k = (s.dirSet k).clear := by
    rw [State.Walked.dirSet_clearSet (s := s.clearOutputs) hwf, if_pos rfl]
    rfl
  have hother (j : SetIdx) (hj : j ≠ k) : (s.clearOutputs.clearSet k).dirSet j = s.dirSet j := by
    rw [State.Walked.dirSet_clearSet (s := s.clearOutputs) hwf, if_neg hj]
    rfl
  refine ⟨_, hexec, ?_⟩
  generalize hu : s.clearOutputs.clearSet k = u at hset hother
  have hups : u.ports = s.ports := by rw [← hu]; rfl
  have hupart : u.part = .init := by rw [← hu]; exact hp
  have huinteg : u.integ = { s.integ with damaged := 0, fenceMark := false } := by rw [← hu]; rfl
  have hucfg : u.cfg = s.cfg := by rw [← hu]; rfl
  have hureports : u.reports = [] := by rw [← hu]; rfl
  have huintake : u.intake = [] := by rw [← hu]; exact hi
  have huleave : u.leave = LeaveWalker.idle := by rw [← hu]; exact hl
  have hrun := EntersRun.enterRun u
  have hv : (u.walkOn k).dir = u.dir ∧ (u.walkOn k).integ = u.integ ∧ (u.walkOn k).cfg = u.cfg
      ∧ (u.walkOn k).reports = [] := by
    unfold State.walkOn
    split
    · exact ⟨hrun.dir, hrun.integ, hrun.cfg, hrun.reports.trans hureports⟩
    · exact ⟨rfl, rfl, rfl, hureports⟩
  obtain ⟨hdir, hinteg, hcfg, hreports⟩ := hv
  have hf := Finishes.finish (u.walkOn k)
  have hpart := (State.finish_silent hreports).1
  have hsets (j : SetIdx) : (u.walkOn k).finish.dirSet j = u.dirSet j := State.dirSet_congr (hf.dir.trans hdir) j
  refine ⟨fun w => ?_, ?_, ?_, fun j hj => ?_, ?_, ?_, fun hk => ?_, fun hk => ?_⟩
  · rw [hsets, hset, DirSet.slot_clear]
    rfl
  · rw [hsets, hset]
    rfl
  · rw [hsets, hset]
    rfl
  · rw [hsets, hother j hj]
  · rw [hf.integ, hinteg, huinteg]
  · rw [hf.cfg, hcfg, hucfg]
  · have hv : u.walkOn k = { u with walk := some (k + 1) } := if_neg hk
    have hcalm : (u.walkOn k).calm := fun hr => by
      rw [hv] at hr
      exact absurd (hupart.symm.trans hr) (by decide)
    refine ⟨hpart.trans ?_, hf.walk.trans ?_, (CalmEnd.finish hcalm).ports.trans ?_⟩
    · rw [hv]
      exact hupart
    · rw [hv]
    · rw [hv]
      exact hups
  · have hv : u.walkOn k = u.enterRun := if_pos hk
    rw [hv] at hf hpart ⊢
    refine ⟨hpart.trans hrun.part, hf.walk.trans hrun.walk, fun p hst => ?_⟩
    have hpump := Pumps.settle_idle (s := u.enterRun) (hrun.intake.trans huintake)
      (hrun.leave.trans huleave)
    have hstill : (u.enterRun.finish.port p).still = (u.enterRun.port p).still := by
      unfold State.finish
      rw [State.port_takeReports]
      exact hpump.port p
    have hact : u.enterRun.port p = { s.port p with
        state := .active, credits := (s.port p).reqCredits, tags := 0, probeQueue := [], sends := [] } := by
      have hsp : u.port p = s.port p := by
        unfold State.port
        rw [hups]
      rw [hrun.port, hsp]
      exact if_pos hst
    rw [hact] at hstill
    exact ⟨Port.still_state hstill, Port.of_still Port.credits (fun _ => rfl) hstill,
      Port.of_still Port.tags (fun _ => rfl) hstill⟩

end Sys2Proof.Machine
end

section
/-! PROOF. The array arbiter (O16): the grant, the claims, what the blocks want, and the pause flag. -/

namespace Sys2Proof.Machine

/-! ### The grant (R16, R19) -/

theorem bestClaim_none {l : List Claim} (h : bestClaim l = none) : l = [] := by
  cases l with
  | nil => rfl
  | cons c rest =>
    unfold bestClaim at h
    split at h
    · cases h
    · split at h <;> cases h

/-- The claim chosen comes before those of its class behind it, and before every less preferred one. -/
theorem bestClaim_some {l : List Claim} {c : Claim} (h : bestClaim l = some c) : ∃ before after,
    l = before ++ c :: after ∧ (∀ d ∈ before, c.rank < d.rank) ∧ ∀ d ∈ after, c.rank ≤ d.rank := by
  induction l generalizing c with
  | nil => cases h
  | cons x rest ih =>
    unfold bestClaim at h
    split at h
    · next hn =>
      cases h
      rw [bestClaim_none hn]
      exact ⟨[], [], rfl, fun d hd => (List.not_mem_nil hd).elim, fun d hd => (List.not_mem_nil hd).elim⟩
    · next d hd =>
      obtain ⟨before, after, hl, hb, ha⟩ := ih hd
      have least (y : Claim) (hy : y ∈ rest) : d.rank ≤ y.rank := by
        rw [hl, List.mem_append, List.mem_cons] at hy
        rcases hy with hy | rfl | hy
        · exact Nat.le_of_lt (hb y hy)
        · exact Nat.le_refl _
        · exact ha y hy
      split at h
      · next hle =>
        cases h
        exact ⟨[], rest, rfl, fun y hy => (List.not_mem_nil hy).elim, fun y hy => Nat.le_trans hle (least y hy)⟩
      · next hlt =>
        cases h
        refine ⟨x :: before, after, by rw [hl]; rfl, fun y hy => ?_, ha⟩
        rcases List.mem_cons.1 hy with rfl | hy
        · omega
        · exact hb y hy

theorem State.granted_run {s : State} (h : s.part = .run) (ho : s.scrubOverdue = false) :
    s.granted = bestClaim s.claims := by
  unfold State.granted
  rw [h, ho]
  rfl

theorem State.granted_halted {s : State} (h : s.part = .halted) {c : Claim} (hc : s.granted = some c) :
    c = .service ∧ (s.svc.lastCode = 1 ∨ s.svc.lastCode = 2) := by
  unfold State.granted at hc
  rw [h] at hc
  dsimp only at hc
  split at hc
  · next hr =>
    cases hc
    refine ⟨rfl, ?_⟩
    have := hr.2
    unfold ServicePort.isReader at this
    simpa using this
  · cases hc

/-! ### The claims (R17) -/

theorem mem_allClaims (c : Claim) : c ∈ allClaims := by
  unfold allClaims
  cases c with
  | entry e => exact List.mem_append_left _ (List.mem_map_of_mem (List.mem_finRange e))
  | _ => exact List.mem_append_right _ (by simp)

theorem State.mem_newClaims (s : State) (c : Claim) :
    c ∈ allClaims.filter (fun c => s.wants c && !s.claims.contains c) ↔ s.wants c = true ∧ c ∉ s.claims := by
  rw [List.mem_filter, Bool.and_eq_true, Bool.not_eq_true', List.contains_eq_mem, decide_eq_false_iff_not]
  exact ⟨fun h => h.2, fun h => ⟨mem_allClaims c, h⟩⟩

theorem State.mem_refreshClaims (s : State) (c : Claim) : c ∈ s.refreshClaims.claims ↔ s.wants c = true := by
  show c ∈ s.claims.filter s.wants ++ _ ↔ _
  rw [List.mem_append, State.mem_newClaims, List.mem_filter]
  constructor
  · rintro (h | h)
    · exact h.2
    · exact h.1
  · intro h
    by_cases hc : c ∈ s.claims
    · exact .inl ⟨hc, h⟩
    · exact .inr ⟨h, hc⟩

/-- What a block wants does not depend on the claims that stand. -/
theorem State.wants_refreshClaims (s : State) (c : Claim) : s.refreshClaims.wants c = s.wants c := by
  cases c <;> rfl

/-! ### What settling leaves of the recall unit -/

theorem State.recallUnit_foldl {α : Type} (g : State → α → State) (h : ∀ s a, (g s a).recallUnit = s.recallUnit)
    (l : List α) (s : State) : (l.foldl g s).recallUnit = s.recallUnit := by
  induction l generalizing s with
  | nil => rfl
  | cons a l ih => exact (ih _).trans (h s a)

theorem State.recallUnit_takeLeave (s : State) (p : Agent) : (s.takeLeave p).recallUnit = s.recallUnit := by
  unfold State.takeLeave
  dsimp only
  split
  · refine (State.recallUnit_foldl _ (fun _ _ => State.recallUnit_reply _ _ _ _) _ _).trans ?_
    refine (State.recallUnit_foldl _ (fun u r => ?_) _ _).trans (State.recallUnit_returnCredit s p)
    rw [State.recallUnit_returnCredit]
    exact State.recallUnit_reply _ _ _ _
  · exact State.recallUnit_returnCredit s p

theorem State.recallUnit_takeLeaves (n : Nat) (s : State) : (State.takeLeaves n s).recallUnit = s.recallUnit := by
  induction n generalizing s with
  | zero => rfl
  | succ n ih =>
    unfold State.takeLeaves
    split
    · split
      · exact (ih _).trans (State.recallUnit_takeLeave _ _)
      · rfl
    · rfl

theorem State.recallUnit_sendLeaveDone (s : State) : s.sendLeaveDone.recallUnit = s.recallUnit := by
  unfold State.sendLeaveDone
  split
  · split
    · exact State.recallUnit_send _ _ _
    · rfl
  · rfl

theorem State.recallUnit_enterWalk (s : State) : s.enterWalk.recallUnit = s.recallUnit := by
  unfold State.enterWalk
  split
  · split <;> rfl
  · rfl

theorem State.recallUnit_pumpQueue (p : Agent) (l : List EntryIdx) (s : State) :
    (State.pumpQueue p l s).recallUnit = s.recallUnit := by
  induction l generalizing s with
  | nil => rfl
  | cons e l ih =>
    unfold State.pumpQueue
    split
    · refine (ih _).trans ?_
      unfold State.sendProbe
      exact State.recallUnit_send _ _ _
    · rfl

theorem State.recallUnit_pump (s : State) : s.pump.recallUnit = s.recallUnit := by
  refine State.recallUnit_foldl _ (fun u p => ?_) _ _
  unfold State.pumpPort
  split
  · exact State.recallUnit_pumpQueue _ _ _
  · rfl

/-- The state that settling in RUN lists the pending accesses of. -/
def State.beforeListing (s : State) : State :=
  (((State.takeLeaves s.intake.length s).sendLeaveDone).enterWalk).pump

theorem State.settle_run {s : State} (h : s.part = .run) : s.settle = s.beforeListing.listAccesses.refreshClaims := by
  unfold State.settle
  rw [h]
  rfl

theorem State.recallUnit_beforeListing (s : State) : s.beforeListing.recallUnit = s.recallUnit :=
  (State.recallUnit_pump _).trans ((State.recallUnit_enterWalk _).trans
    ((State.recallUnit_sendLeaveDone _).trans (State.recallUnit_takeLeaves _ _)))

theorem State.entry_beforeListing {s : State} (h : s.part = .run) (e : EntryIdx) : (s.beforeListing.entry e).core = (s.entry e).core := by
  have hs := (Settles.settle s).entry e
  rw [State.settle_run h] at hs
  generalize s.beforeListing = u at hs ⊢
  exact hs

theorem State.unlisted_beforeListing {s : State} (h : s.part = .run) (e : EntryIdx) : s.beforeListing.unlisted e = s.unlisted e := by
  have hc := State.entry_beforeListing h e
  have hp := Entry.of_core Entry.phase (fun _ => rfl) hc
  have hs := Entry.of_core Entry.pendingSet (fun _ => rfl) hc
  have hk := Entry.of_core Entry.kind (fun _ => rfl) hc
  unfold State.unlisted Entry.settled Entry.classOne
  rw [hp, hs, hk, State.recallUnit_beforeListing]

theorem State.accesses_settle {s : State} (h : s.part = .run) :
    s.settle.recallUnit.accesses = s.recallUnit.accesses ++ allEntries.filter s.unlisted := by
  rw [State.settle_run h]
  show s.beforeListing.recallUnit.accesses ++ allEntries.filter s.beforeListing.unlisted = _
  rw [State.recallUnit_beforeListing, funext (State.unlisted_beforeListing h)]

/-! ### What the blocks want -/

/-- The kinds whose accesses are class 1 (R46). -/
theorem Entry.classOne_iff (x : Entry) :
    x.classOne = true ↔ x.kind = some .request ∨ x.kind = some .service ∨ x.kind = some .retract := by
  unfold Entry.classOne
  rcases x.kind with _ | k
  · simp
  · cases k <;> simp [EntryKind.classOne]

theorem Entry.settled_iff (x : Entry) : x.settled = true ↔ x.phase = .probing ∧ x.pendingSet = 0 := by
  unfold Entry.settled
  rw [Bool.and_eq_true, decide_eq_true_iff, decide_eq_true_iff]

theorem Entry.wantsAccess_iff (x : Entry) : x.wantsAccess = true ↔ x.phase = .lookup ∨ x.phase = .releasing
    ∨ x.phase = .probing ∧ x.pendingSet = 0 ∧ (x.kind = some .request ∨ x.kind = some .service ∨ x.kind = some .retract)
    ∨ x.phase = .awaitSlot ∧ x.slotClaim = true ∨ x.phase = .awaitDone ∧ x.closePending = true := by
  unfold Entry.wantsAccess
  split
  all_goals
    next hp =>
    rw [hp]
    simp [Entry.settled_iff, Entry.classOne_iff, hp]

theorem State.freeEntry_isSome (s : State) : s.freeEntry.isSome = true ↔ ∃ e, (s.entry e).phase = .free := by
  unfold State.freeEntry
  rw [List.find?_isSome]
  constructor
  · rintro ⟨e, -, he⟩
    unfold Entry.inUse at he
    simpa using ⟨e, by simpa using he⟩
  · rintro ⟨e, he⟩
    refine ⟨e, List.mem_finRange e, ?_⟩
    unfold Entry.inUse
    rw [he]
    rfl

theorem State.mayStart_iff (s : State) (x : StartItem) :
    s.mayStart x = true ↔ ((∃ e, x = .parked e) → s.recallUnit.inFlight < s.cfg.recallBudget) := by
  cases x with
  | parked e =>
    unfold State.mayStart
    rw [decide_eq_true_iff]
    exact ⟨fun h _ => h, fun h => h ⟨e, rfl⟩⟩
  | retire k w => exact iff_of_true rfl fun ⟨e, he⟩ => StartItem.noConfusion he
  | repair k t => exact iff_of_true rfl fun ⟨e, he⟩ => StartItem.noConfusion he

theorem State.wantsRecall_iff (s : State) : s.wantsRecall = true ↔ s.recallUnit.accesses ≠ []
    ∨ (∃ x ∈ s.recallUnit.queue, (∃ e, x = .parked e) → s.recallUnit.inFlight < s.cfg.recallBudget)
      ∧ ∃ e, (s.entry e).phase = .free := by
  unfold State.wantsRecall State.firstStart
  rw [Bool.or_eq_true, Bool.and_eq_true, State.freeEntry_isSome, List.find?_isSome, Bool.not_eq_true', ← Bool.not_eq_true,
    List.isEmpty_iff]
  simp only [State.mayStart_iff]

theorem State.unlisted_iff (s : State) (e : EntryIdx) : s.unlisted e = true ↔
    (s.entry e).phase = .probing ∧ (s.entry e).pendingSet = 0
      ∧ ¬ ((s.entry e).kind = some .request ∨ (s.entry e).kind = some .service ∨ (s.entry e).kind = some .retract)
      ∧ e ∉ s.recallUnit.accesses := by
  unfold State.unlisted
  rw [Bool.and_eq_true, Bool.and_eq_true, Entry.settled_iff, Bool.not_eq_true', Bool.not_eq_true', ← Bool.not_eq_true,
    Entry.classOne_iff, List.contains_eq_mem, decide_eq_false_iff_not, and_assoc, and_assoc]

theorem State.due_recallUnit {s : State} (h : s.granted = some .recallUnit) : s.due = s.recallDue := by
  unfold State.due
  rw [h]

/-- The first item that may start. -/
theorem State.firstStart_split {s : State} {before after : List StartItem} {x : StartItem}
    (hq : s.recallUnit.queue = before ++ x :: after) (hx : s.mayStart x = true) (hb : ∀ y ∈ before, ¬ s.mayStart y = true) :
    s.firstStart = some x := by
  unfold State.firstStart
  rw [hq, List.find?_append, List.find?_eq_none.2 hb, List.find?_cons_of_pos hx]
  rfl

theorem State.wantsIntake_iff (s : State) : s.wants .intake = true ↔ s.pause = false ∧ s.intake ≠ [] := by
  show (!s.pause && !s.intake.isEmpty) = true ↔ _
  rw [Bool.and_eq_true, Bool.not_eq_true', Bool.not_eq_true', ← Bool.not_eq_true (List.isEmpty _), List.isEmpty_iff]

theorem State.wantsPurge_iff (s : State) : s.wants .purge = true ↔ ∃ a, s.purge.starts.get a ≠ none := by
  show s.wantsPurge = true ↔ _
  unfold State.wantsPurge
  rw [List.any_eq_true]
  exact ⟨fun ⟨a, _, h⟩ => ⟨a, Option.isSome_iff_ne_none.1 h⟩,
    fun ⟨a, h⟩ => ⟨a, List.mem_finRange a, Option.isSome_iff_ne_none.2 h⟩⟩

theorem State.wantsLeave_iff (s : State) :
    s.wants .leave = true ↔ s.leave.port ≠ none ∧ s.leave.complete = false ∧ s.leave.wait = .ready := by
  show s.wantsLeave = true ↔ _
  unfold State.wantsLeave
  rw [Bool.and_eq_true, Bool.and_eq_true, Option.isSome_iff_ne_none, Bool.not_eq_true', decide_eq_true_iff, and_assoc]

/-! ### The recall unit's access (R91) -/

theorem State.due_access {s : State} {e : EntryIdx} {rest : List EntryIdx} (hg : s.granted = some .recallUnit)
    (ha : s.recallUnit.accesses = e :: rest) :
    ((s.entry e).repairRound = true ∨ (s.entry e).kind = some .repair → s.due = some (.repairResolution e))
    ∧ ((s.entry e).repairRound = false →
      ((s.entry e).kind = some .recallVictim → s.due = some (.recallResolution e))
      ∧ ((s.entry e).kind = some .retire → s.due = some (.retireResolution e))) := by
  have hd : s.due = (s.entry e).resolutionDue e := by
    rw [State.due_recallUnit hg]
    unfold State.recallDue
    rw [ha]
  rw [hd]
  unfold Entry.resolutionDue
  refine ⟨fun h => ?_, fun hr => ⟨fun hk => by rw [hr, hk]; rfl, fun hk => by rw [hr, hk]; rfl⟩⟩
  split
  · rfl
  · next hr => rw [h.resolve_left hr]

theorem State.due_noAccess {s : State} (hg : s.granted = some .recallUnit) (ha : s.recallUnit.accesses = []) :
    s.due = s.firstStart.map StartItem.due := by
  rw [State.due_recallUnit hg]
  unfold State.recallDue
  rw [ha]

theorem State.due_start {s : State} {before after : List StartItem} {x : StartItem} (hg : s.granted = some .recallUnit)
    (ha : s.recallUnit.accesses = []) (hq : s.recallUnit.queue = before ++ x :: after) (hx : s.mayStart x = true)
    (hb : ∀ y ∈ before, ¬ s.mayStart y = true) :
    s.due = some x.due := by
  rw [State.due_noAccess hg ha, State.firstStart_split hq hx hb]
  rfl

theorem State.due_start_none {s : State} (hg : s.granted = some .recallUnit) (ha : s.recallUnit.accesses = [])
    (h : ∀ x ∈ s.recallUnit.queue, ¬ s.mayStart x = true) : s.due = none := by
  rw [State.due_noAccess hg ha]
  unfold State.firstStart
  rw [List.find?_eq_none.2 h]
  rfl

/-! ### The pause flag (R63) -/

theorem mem_allEntries (e : EntryIdx) : e ∈ allEntries := List.mem_finRange e

theorem nodup_allEntries : allEntries.Nodup := List.nodup_finRange 32

/-- An entry taken into use raises the count by one. -/
theorem State.inUseCount_joined {s t : State} {e : EntryIdx} (hs : (s.entry e).inUse = false)
    (ht : (t.entry e).inUse = true) (h : ∀ i, i ≠ e → (t.entry i).inUse = (s.entry i).inUse) :
    t.inUseCount = s.inUseCount + 1 :=
  List.length_filter_joined nodup_allEntries (mem_allEntries e) hs ht h

theorem Entry.inUse_iff (x : Entry) : x.inUse = true ↔ x.phase ≠ .free := by
  unfold Entry.inUse
  rw [decide_eq_true_iff]

theorem Entry.inUse_false_iff (x : Entry) : x.inUse = false ↔ x.phase = .free := by
  rw [← Bool.not_eq_true, Entry.inUse_iff, not_not]

theorem State.entry_takeEntry (s : State) (e i : EntryIdx) (l : Line) (kind : EntryKind) (who : Party)
    (req : Option EntryRequest) : (s.takeEntry e l kind who req).entry i =
      if i = e then Entry.begin (s.entry e).gen l none kind who req [] else s.entry i :=
  State.entry_updEntry s e i fun _ => Entry.begin (s.entry e).gen l none kind who req []

theorem State.inUseCount_takeEntry {s : State} {e : EntryIdx} (l : Line) (kind : EntryKind) (who : Party)
    (req : Option EntryRequest) (h : (s.entry e).phase = .free) :
    (s.takeEntry e l kind who req).inUseCount = s.inUseCount + 1 := by
  refine State.inUseCount_joined ((Entry.inUse_false_iff _).2 h) ?_ fun i hi => ?_
  · rw [State.entry_takeEntry, if_pos rfl]
    rfl
  · rw [State.entry_takeEntry, if_neg hi]

theorem State.pause_takeEntry (s : State) (e : EntryIdx) (l : Line) (kind : EntryKind) (who : Party)
    (req : Option EntryRequest) : (s.takeEntry e l kind who req).pause
      = (s.pause || decide (s.cfg.admitHigh ≤ (s.takeEntry e l kind who req).inUseCount)) := rfl

theorem State.pauseTable_leaveSnapshots (s : State) (e : EntryIdx) :
    ((s.leaveSnapshots e).tt, (s.leaveSnapshots e).pause) = (s.tt, s.pause) := by
  have fold (l : List Agent) (u : State) :
      ((l.foldl (State.leaveSnapshot e) u).tt, (l.foldl (State.leaveSnapshot e) u).pause) = (u.tt, u.pause) := by
    induction l generalizing u with
    | nil => rfl
    | cons p l ih =>
      refine (ih _).trans ?_
      unfold State.leaveSnapshot
      dsimp only
      split
      · split <;> rfl
      · rfl
  exact fold allAgents s

theorem State.tt_announceFree (s : State) (e : EntryIdx) : (s.announceFree e).tt = s.tt :=
  congrArg Prod.fst (State.pauseTable_leaveSnapshots s e)

theorem State.pause_announceFree (s : State) (e : EntryIdx) : (s.announceFree e).pause = s.pause :=
  congrArg Prod.snd (State.pauseTable_leaveSnapshots s e)

theorem State.entry_releaseEntry (s : State) (k : SetIdx) (e i : EntryIdx) :
    (s.releaseEntry k e).entry i = if i = e then Entry.freeOf (s.entry e).gen else s.entry i := by
  unfold State.releaseEntry State.entry
  rw [State.tt_announceFree]
  exact State.entry_updEntry (s.updSet k fun d => d.dropBound e) e i fun _ => Entry.freeOf (s.entry e).gen

theorem State.inUseCount_congr {s t : State} (h : t.tt = s.tt) : t.inUseCount = s.inUseCount := by
  unfold State.inUseCount State.entry
  rw [h]

theorem State.inUseCount_releaseEntry {s : State} {e : EntryIdx} (k : SetIdx) (h : (s.entry e).phase ≠ .free) :
    (s.releaseEntry k e).inUseCount + 1 = s.inUseCount := by
  refine (State.inUseCount_joined (e := e) ?_ ((Entry.inUse_iff _).2 h) fun i hi => ?_).symm
  · rw [State.entry_releaseEntry, if_pos rfl]
    rfl
  · rw [State.entry_releaseEntry, if_neg hi]

theorem State.pause_releaseEntry (s : State) (k : SetIdx) (e : EntryIdx) :
    (s.releaseEntry k e).pause = (s.pause && !decide ((s.releaseEntry k e).inUseCount ≤ s.cfg.admitLow)) := by
  have hc : (s.releaseEntry k e).inUseCount = ((s.updSet k fun d => d.dropBound e).setEntry e
      (Entry.freeOf ((s.updSet k fun d => d.dropBound e).entry e).gen)).inUseCount :=
    State.inUseCount_congr (State.tt_announceFree _ e)
  rw [hc]
  exact State.pause_announceFree _ e

theorem State.inUseCount_handTo {s : State} {e : EntryIdx} (i : PoolIdx) (rest : List PoolIdx) (who : Party)
    (kind : EntryKind) (req : EntryRequest) (h : (s.entry e).phase ≠ .free) :
    (s.handTo e i rest who kind req).inUseCount = s.inUseCount := by
  have g := (Steady.handTo s e i rest who kind req ((Entry.inUse_iff _).2 h)).lines
  unfold State.inUseCount
  exact congrArg List.length (List.filter_congr fun j _ => (g j).inUse)

/-- Settles O16: the grant by `bestClaim`, the claims by `refreshClaims`, and each block's want by its own rule. -/
theorem arbiterGrantsInClassOrder : Obligations.ArbiterGrantsInClassOrder := by
  refine ⟨fun s => ⟨fun h => ?_, fun h ho => ?_, fun h ho c hc => ?_, fun h ho hne hn => ?_, fun h c hc => ?_⟩,
    ⟨fun _ => rfl, rfl, rfl, rfl, rfl, rfl, rfl⟩, fun s => ?_, fun s h c => ?_, fun s => ?_, fun s e => ⟨?_, ?_, ?_⟩⟩
  · unfold State.granted
    rw [h]
  · unfold State.granted
    rw [h, ho]
    rfl
  · exact bestClaim_some ((State.granted_run h ho).symm.trans hc)
  · exact hne (bestClaim_none ((State.granted_run h ho).symm.trans hn))
  · exact State.granted_halted h hc
  · exact ⟨s.claims.filter s.wants, allClaims.filter fun c => s.wants c && !s.claims.contains c, rfl, List.filter_sublist,
      fun c hc hw => List.mem_filter.2 ⟨hc, hw⟩, fun c hc => (List.mem_filter.1 hc).2, s.mem_newClaims,
      List.filter_sublist, rfl⟩
  · rw [State.settle_run h, State.mem_refreshClaims, State.wants_refreshClaims]
  · refine ⟨s.wantsRecall_iff, ?_, fun e => Entry.wantsAccess_iff _, ?_, ?_, ?_, ?_, fun hg => ⟨fun e rest ha => ?_, fun ha => ?_⟩, ?_⟩
    · exact s.wantsIntake_iff
    · exact decide_eq_true_iff
    · exact s.wantsPurge_iff
    · exact s.wantsLeave_iff
    · exact Option.isSome_iff_ne_none
    · exact State.due_access hg ha
    · exact ⟨fun before x after hq hx hb => (State.due_start hg ha hq ((s.mayStart_iff x).2 hx)
        fun y hy h => hb y hy ((s.mayStart_iff y).1 h)).trans (by cases x <;> rfl),
        fun h => State.due_start_none hg ha fun x hx hm => h x hx ((s.mayStart_iff x).1 hm)⟩
    · refine ⟨allEntries.filter s.unlisted, rfl, List.filter_sublist, rfl, State.accesses_settle, fun e _ => ?_⟩
      rw [List.mem_filter, State.unlisted_iff]
      exact and_iff_right (mem_allEntries e)
  · intro l kind who req h
    have hc := State.inUseCount_takeEntry l kind who req h
    exact ⟨hc, by rw [State.pause_takeEntry, hc]⟩
  · intro k h
    have hc := State.inUseCount_releaseEntry k h
    refine ⟨hc, ?_⟩
    rw [State.pause_releaseEntry, ← hc]
    rfl
  · exact fun i rest who kind req h => ⟨State.inUseCount_handTo i rest who kind req h, rfl⟩

end Sys2Proof.Machine
end

section
/-! PROOF. The end of an access that disturbs nothing: what its claimant wrote is what it leaves (R11, R142, R143). -/

namespace Sys2Proof.Machine

/-! ### The checks leave the retire list of other sets alone -/

theorem State.retireList_endDamage (s : State) (k : SetIdx) (w : Way) :
    (s.endDamage k w).integ.retireList = s.integ.retireList := by
  unfold State.endDamage
  split <;> rfl

theorem State.retireList_checkHolder (s : State) (k : SetIdx) (w : Way) (h : WordCond) :
    (s.checkHolder k w h).integ.retireList = s.integ.retireList := by
  unfold State.checkHolder
  split
  · rfl
  · rfl
  · split
    · rfl
    · split <;> rfl

/-- A slot withdrawn leaves the retire list; the items of other sets stay (R136). -/
theorem Checked.retireList_withdraw {c : Checked} {k : SetIdx} (h : c.s.unlistedSet k) (w : Way) :
    (c.withdraw k w).s.integ.retireList = c.s.integ.retireList := by
  have hd := State.retireList_endDamage c.s k w
  have hf : (c.s.endDamage k w).integ.retireList.filter (fun i => !(decide (i.set = k) && decide (i.way = w)))
      = c.s.integ.retireList := by
    rw [hd]
    refine List.filter_eq_self.2 fun i hi => ?_
    rw [decide_eq_false (h i hi)]
    rfl
  unfold Checked.withdraw
  dsimp only
  split <;> split <;> exact hf

theorem Checked.retireList_slot {c : Checked} {k : SetIdx} (h : c.s.unlistedSet k) (w : Way) :
    (Checked.slot k c w).s.integ.retireList = c.s.integ.retireList := by
  unfold Checked.slot
  dsimp only
  split
  · rfl
  · split
    · exact State.retireList_checkHolder _ _ _ _
    · exact State.retireList_checkHolder _ _ _ _
    · split
      · dsimp only
        split <;> rfl
      · exact Checked.retireList_withdraw (c := { c with s := c.s.setSlot k w (c.s.slot k w).worn }) h w

theorem State.retireList_check {s : State} {k : SetIdx} (h : s.unlistedSet k) :
    (s.check k).s.integ.retireList = s.integ.retireList := by
  have fold (l : List Way) (c : Checked) (hc : c.s.unlistedSet k) :
      (l.foldl (Checked.slot k) c).s.integ.retireList = c.s.integ.retireList := by
    induction l generalizing c with
    | nil => rfl
    | cons w l ih =>
      have hw := Checked.retireList_slot hc w
      exact (ih _ fun i hi => hc i (hw ▸ hi)).trans hw
  unfold State.check
  exact fold allWays _ h

theorem State.integ_strike (s : State) (k : SetIdx) (f : List CellFault) : (s.strike k f).integ = s.integ := by
  unfold State.strike
  induction f generalizing s with
  | nil => rfl
  | cons c f ih => exact ih _

theorem State.integ_retireFree (s : State) (k : SetIdx) (w : Way) : (s.retireFree k w).1.integ = s.integ := by
  unfold State.retireFree
  split <;> rfl

theorem Access.integ_considered (k : SetIdx) (l : List Way) (a : Access) :
    (l.foldl (Access.consider k) a).s.integ = a.s.integ := by
  induction l generalizing a with
  | nil => rfl
  | cons w l ih =>
    refine (ih _).trans ?_
    unfold Access.consider
    split
    · split
      · exact State.integ_retireFree _ _ _
      · rfl
    · rfl

/-- An access on a set without items on the retire list leaves the list alone before its claimant's outcome. -/
theorem State.retireList_checked {s : State} {k : SetIdx} {f : List CellFault} (h : s.undisturbed k f) :
    (s.checked k f).integ.retireList = s.integ.retireList := by
  have hs : (s.takeClaim.strike k f).integ = s.integ := (State.integ_strike _ _ _).trans s.integ_takeClaim
  have hc : ((s.takeClaim.strike k f).check k).s.integ.retireList = s.integ.retireList := by
    rw [← hs]
    refine State.retireList_check fun i hi => ?_
    rw [hs] at hi
    exact h.2 i hi
  unfold State.checked State.beginAccess
  generalize (s.takeClaim.strike k f).check k = c at hc
  dsimp only
  split
  · rw [Access.integ_considered]
    exact hc
  · exact hc

/-- What an outcome that leaves the retire list alone leaves of it. -/
theorem State.unlistedSet_checked {s u : State} {k : SetIdx} {f : List CellFault} (h : s.undisturbed k f)
    (hu : u.integ.retireList = (s.checked k f).integ.retireList) : u.unlistedSet k := fun i hi =>
  h.2 i (by rw [hu, State.retireList_checked h] at hi; exact hi)

/-! ### The end of the access -/

/-- The state that the end of an access leaves, beside the state `u` that its claimant left, when nothing is judged or
examined: the reports made before the outcome follow, and the starts wanted join the queue. -/
def State.ended (u : State) (late : List Report) (starts : List StartItem) : State :=
  { u with
    reports := u.reports ++ late
    recallUnit := { u.recallUnit with queue := starts ++ u.recallUnit.queue } }

/-- Examining the retire list on set `k` changes nothing. -/
def State.Unexamined (u : State) (k : SetIdx) : Prop :=
  ∀ l : List Report, allWays.foldl (State.examineSlot k) ({ u with reports := l }, []) = ({ u with reports := l }, [])

theorem State.Unexamined.of_unlisted {u : State} {k : SetIdx} (h : u.unlistedSet k) : u.Unexamined k := fun l =>
  State.examine_unlisted { u with reports := l } k h allWays []

theorem State.access_ended {s : State} {k : SetIdx} {f : List CellFault} {outcome : Access → State} {u : State}
    (hu : s.undisturbed k f) (hout : outcome (s.takeClaim.beginAccess k f) = u) (hi : u.Unexamined k) :
    ∃ late starts, s.takeClaim.access k f outcome = u.ended late starts := by
  unfold State.access
  dsimp only
  rw [hout]
  split
  · refine ⟨(s.takeClaim.beginAccess k f).late, joiningItems u.recallUnit.queue (allWays.flatMap (State.startsOf
      { u with reports := u.reports ++ (s.takeClaim.beginAccess k f).late } k [])) [], ?_⟩
    rw [hu.1]
    unfold State.endOfAccess
    dsimp only
    rw [List.foldl_nil, hi]
    rfl
  · refine ⟨[], [], ?_⟩
    unfold State.ended
    rw [List.append_nil]
    rfl

/-! ### The end of the event -/

/-- A command that has completed is not ended by a halt (R164). -/
theorem State.svc_finish {s : State} (h : s.svc.status ≠ .busy) : s.finish.svc = s.svc := by
  have hs := (Settles.settle s).svc
  unfold State.finish State.takeReports
  dsimp only
  split
  · have hb : ¬ (s.settle.svc.status = .busy ∧ (!s.settle.svc.isReader) = true) := fun hb => h (hs ▸ hb.1)
    unfold State.enterHalted State.haltCommand
    rw [if_neg hb]
    exact hs
  · exact hs

/-- Without a LEAVE in the intake queue settling moves no request. -/
theorem State.settle_noLeave {s : State} (h : s.noLeave) :
    s.settle.intake = s.intake ∧ s.settle.pool = s.pool ∧ ∀ e, (s.settle.entry e).waiters = (s.entry e).waiters := by
  have hleave : State.takeLeaves s.intake.length s = s :=
    State.takeLeaves_calm s (fun r hr hk => absurd hk (h r (List.mem_of_mem_head? hr))) _
  have hdone : s.sendLeaveDone.intake = s.intake ∧ s.sendLeaveDone.pool = s.pool := by
    unfold State.sendLeaveDone
    split
    · split
      · exact ⟨State.intake_send s _ _, State.pool_send s _ _⟩
      · exact ⟨rfl, rfl⟩
    · exact ⟨rfl, rfl⟩
  have hwalk (u : State) : u.enterWalk.intake = u.intake ∧ u.enterWalk.pool = u.pool := by
    unfold State.enterWalk
    split
    · split <;> exact ⟨rfl, rfl⟩
    · exact ⟨rfl, rfl⟩
  unfold State.settle
  split
  · unfold State.settleRun
    rw [hleave]
    have hp := ((Pumps.pump s.sendLeaveDone.enterWalk).trans (Pumps.listAccesses _)).trans (Pumps.refreshClaims _)
    obtain ⟨hi, hq⟩ := hwalk s.sendLeaveDone
    refine ⟨hp.intake.trans (hi.trans hdone.1), hp.pool.trans (hq.trans hdone.2), fun e => ?_⟩
    refine (Entry.of_still Entry.waiters (fun _ => rfl) (hp.entry e)).trans ?_
    unfold State.entry
    rw [State.tt_enterWalk, State.tt_sendLeaveDone]
  · have hp := Pumps.refreshService s
    exact ⟨hp.intake, hp.pool, fun e => Entry.of_still Entry.waiters (fun _ => rfl) (hp.entry e)⟩
  · exact ⟨rfl, rfl, fun _ => rfl⟩

/-- The state `t` at the end of an event, beside the state `u` that the claimant of its access left. -/
structure Concludes (u t : State) : Prop where
  dir : t.dir = u.dir
  integ : t.integ = u.integ
  reports : ∀ r ∈ u.reports, r ∈ t.reports
  queue : ∃ starts, t.recallUnit.queue = starts ++ u.recallUnit.queue
  entry : ∀ e, (t.entry e).core = (u.entry e).core
  outbox : ∃ more, t.outbox = u.outbox ++ more
  svc : u.svc.status ≠ .busy → t.svc = u.svc
  still : u.noLeave → t.intake = u.intake ∧ t.pool = u.pool ∧ ∀ e, (t.entry e).waiters = (u.entry e).waiters
  calm : u.calm → t.tt = u.tt

theorem Concludes.finish (u : State) (late : List Report) (starts : List StartItem) :
    Concludes u (u.ended late starts).finish := by
  have g := Finishes.finish (u.ended late starts)
  have r := State.unreported_takeReports (u.ended late starts).settle
  simp only [State.unreported, Prod.mk.injEq] at r
  obtain ⟨⟨-, -, -, -, -, htt, hpool, -, -⟩, hintake, -⟩ := r
  refine ⟨g.dir, g.integ, fun x hx => ?_, ⟨_, g.queue⟩, g.entry, g.outbox, fun h => State.svc_finish h, fun h => ?_,
    fun h => (CalmEnd.finish (s := u.ended late starts) (State.calm_congr rfl rfl rfl rfl rfl rfl rfl
      (fun _ => ⟨rfl, rfl, rfl⟩) h)).table⟩
  · rw [g.reports]
    exact List.mem_append_left _ hx
  · obtain ⟨hi, hp, hw⟩ := State.settle_noLeave (s := u.ended late starts) h
    refine ⟨hintake.trans hi, hpool.trans hp, fun e => ?_⟩
    refine Eq.trans ?_ (hw e)
    show ((State.takeReports _).tt.get e).waiters = _
    rw [htt]
    rfl

/-- A command whose access is due ends in a state beside the one that its claimant leaves. -/
theorem State.exec_concludes {s : State} {d : Due} {k : SetIdx} {f : List CellFault} {c : Instr} {u : State}
    (hc : d.command f = some c) (hd : s.due = some d) (ha : s.dueAfter d = id) (hk : s.dueSet d = k)
    (hu : s.undisturbed k f) (hout : s.dueOutcome d (s.takeClaim.beginAccess k f) = u) (hi : u.Unexamined k) :
    ∃ t, exec c s = .next t ∧ Concludes u t := by
  obtain ⟨late, starts, h⟩ := State.access_ended hu hout hi
  refine ⟨_, exec_due hc hd, ?_⟩
  unfold State.accessed
  rw [hk, h, ha]
  exact .finish u late starts

/-- The same where the claimant leaves the integrity unit as it found it. -/
theorem State.exec_undisturbed {s : State} {d : Due} {k : SetIdx} {f : List CellFault} {c : Instr} {u : State}
    (hc : d.command f = some c) (hd : s.due = some d) (ha : s.dueAfter d = id) (hk : s.dueSet d = k)
    (hu : s.undisturbed k f) (hout : s.dueOutcome d (s.takeClaim.beginAccess k f) = u)
    (hi : u.integ = (s.checked k f).integ) : ∃ t, exec c s = .next t ∧ Concludes u t :=
  State.exec_concludes hc hd ha hk hu hout
    (.of_unlisted (State.unlistedSet_checked hu (congrArg IntegrityUnit.retireList hi)))

/-! ### What the claimant finds as it was before the access -/

theorem State.checked_member (s : State) (k : SetIdx) (f : List CellFault) (p : Agent) :
    (s.checked k f).member p = s.member p := by
  unfold State.member
  rw [State.checked_port]

theorem State.checked_fenced (s : State) (k : SetIdx) (f : List CellFault) (p : Agent) :
    (s.checked k f).fenced p = s.fenced p := by
  unfold State.fenced
  rw [State.checked_port]

theorem State.checked_requestOf (s : State) (k : SetIdx) (f : List CellFault) (e : EntryIdx) :
    (s.checked k f).requestOf e = s.requestOf e := by
  unfold State.requestOf
  rw [State.checked_entry]

theorem State.checked_txn (s : State) (k : SetIdx) (f : List CellFault) (e : EntryIdx) :
    (s.checked k f).txn e = s.txn e := by
  unfold State.txn
  rw [State.checked_entry]

theorem State.checked_boundEntry (s : State) (k : SetIdx) (f : List CellFault) (l : Line) :
    (s.checked k f).boundEntry l = s.boundEntry l := by
  unfold State.boundEntry State.entry
  rw [(SameOutside.checked s k f).tt]

theorem State.checked_freeEntry (s : State) (k : SetIdx) (f : List CellFault) :
    (s.checked k f).freeEntry = s.freeEntry := by
  unfold State.freeEntry State.entry
  rw [(SameOutside.checked s k f).tt]

theorem State.checked_requesterFenced (s : State) (k : SetIdx) (f : List CellFault) (e : EntryIdx) :
    (s.checked k f).requesterFenced e = s.requesterFenced e := by
  unfold State.requesterFenced
  rw [State.checked_entry]
  split
  · exact State.checked_fenced s k f _
  · rfl

theorem State.checked_outbox (s : State) (k : SetIdx) (f : List CellFault) : (s.checked k f).outbox = [] :=
  (SameOutside.checked s k f).outbox

theorem State.checked_lawful {s : State} (h : s.lawful) (k : SetIdx) (f : List CellFault) : (s.checked k f).lawful :=
  (Keeps.checked s k f).law h

/-- The requester of a request is FENCED when its port is. -/
theorem State.requesterFenced_of_requestOf {s : State} {e : EntryIdx} {r : Request} (h : s.requestOf e = some r) :
    s.requesterFenced e = s.fenced r.port := by
  unfold State.requestOf at h
  unfold State.requesterFenced Entry.agent?
  split at h
  · next hw _ _ =>
    cases h
    rw [hw]
  · cases h

theorem State.lineOfEntry_of_requestOf {s : State} {e : EntryIdx} {r : Request} (h : s.requestOf e = some r) :
    s.lineOfEntry e = r.line := by
  unfold State.lineOfEntry
  rw [State.line_of_requestOf h]
  rfl

end Sys2Proof.Machine
end

section
/-! PROOF. What the shared operations of an access leave: agent sets, probe rounds, the end of a transaction, grants and
parking. -/

namespace Sys2Proof.Machine

/-! ### Agent sets -/

theorem has_zero (a : Agent) : has (0 : AgentSet) a = false := BitVec.getLsbD_zero

theorem has_addTo (x : AgentSet) (i j : Agent) : has (addTo x i) j = (has x j || decide (j = i)) := by
  unfold has addTo
  rw [BitVec.getLsbD_or, BitVec.getLsbD_twoPow]
  have hi : (decide (i.val < 8) && decide (j.val = i.val)) = decide (j = i) := by
    rw [decide_eq_true i.isLt, Bool.true_and]
    exact decide_eq_decide.2 (by rw [Fin.ext_iff])
  rw [← hi]
  congr 2
  exact decide_eq_decide.2 eq_comm

theorem has_without (x : AgentSet) (i j : Agent) : has (without x i) j = (has x j && decide (j ≠ i)) := by
  unfold has without
  rw [BitVec.getLsbD_and, BitVec.getLsbD_not, BitVec.getLsbD_twoPow, decide_eq_true j.isLt, decide_eq_true i.isLt,
    Bool.true_and, Bool.true_and, ← decide_not]
  congr 1
  exact decide_eq_decide.2 (by rw [Ne, Fin.ext_iff, eq_comm])

theorem mem_allAgents (a : Agent) : a ∈ allAgents := List.mem_finRange a

theorem has_agentSet (f : Agent → Bool) (a : Agent) : has (agentSet f) a = f a := by
  have fold (l : List Agent) (x : AgentSet) : has (l.foldl (fun h a => if f a then addTo h a else h) x) a
      = (has x a || (decide (a ∈ l) && f a)) := by
    induction l generalizing x with
    | nil => simp
    | cons b l ih =>
      rw [List.foldl_cons, ih]
      by_cases hb : f b = true
      · rw [if_pos hb, has_addTo]
        by_cases hab : a = b
        · subst hab
          simp [hb]
        · simp [hab]
      · rw [if_neg hb]
        by_cases hab : a = b
        · subst hab
          simp [hb]
        · simp [hab]
  unfold agentSet
  rw [fold allAgents 0, decide_eq_true (mem_allAgents a), Bool.true_and, has_zero, Bool.false_or]

theorem mem_agentsOf (h : AgentSet) (a : Agent) : a ∈ agentsOf h ↔ has h a = true := by
  unfold agentsOf
  rw [List.mem_filter]
  exact and_iff_right (mem_allAgents a)

theorem State.has_memberSet (s : State) (a : Agent) : has s.memberSet a = s.member a := has_agentSet _ a

/-- A member of the domain is not FENCED. -/
theorem State.not_fenced_of_member {s : State} {p : Agent} (h : s.member p = true) : s.fenced p = false := by
  refine decide_eq_false fun hf => ?_
  unfold State.member at h
  rw [hf] at h
  cases h

/-! ### Probe rounds (R69) -/

/-- What the start of a round and the close of an entry leave alone: the integrity unit, the messages, the reports and the
recall start queue. -/
def State.offArray (s : State) := (s.integ, s.outbox, s.reports, s.recallUnit.queue)

/-- An entry but for what its probe round has found so far. -/
def Entry.unprobed (x : Entry) : Entry :=
  { x with pendingSet := 0, answers := Vector.replicate 8 none, probes := Vector.replicate 8 none }

/-- A field that `Entry.unprobed` keeps. -/
theorem Entry.of_unprobed {α : Type} (g : Entry → α) (hg : ∀ z : Entry, g z.unprobed = g z) {x y : Entry}
    (h : y.unprobed = x.unprobed) : g y = g x := by rw [← hg y, h, hg x]

theorem State.member_updEntry (s : State) (e : EntryIdx) (f : Entry → Entry) (a : Agent) :
    (s.updEntry e f).member a = s.member a := rfl

theorem State.member_updPort {s : State} {p : Agent} {f : Port → Port} (hf : ∀ q, (f q).state = q.state) (a : Agent) :
    (s.updPort p f).member a = s.member a := by
  unfold State.member
  rw [State.port_updPort]
  split
  · next h => rw [hf, h]
  · rfl

/-- The state `t` after the agents of `l` have been taken in a round of entry `e`, from the state `s`. -/
structure Probed (e : EntryIdx) (l : List Agent) (s t : State) : Prop where
  dir : t.dir = s.dir
  off : t.offArray = s.offArray
  member : ∀ a, t.member a = s.member a
  other : ∀ i, i ≠ e → t.entry i = s.entry i
  self : (t.entry e).unprobed = (s.entry e).unprobed
  pending : ∀ a : Agent, has (t.entry e).pendingSet a = (has (s.entry e).pendingSet a || (decide (a ∈ l) && s.member a))
  answers : ∀ a : Agent, (t.entry e).answers.get a =
    if a ∈ l ∧ s.member a = false then some .fenceGone else (s.entry e).answers.get a

theorem Probed.nil (e : EntryIdx) (s : State) : Probed e [] s s :=
  ⟨rfl, rfl, fun _ => rfl, fun _ _ => rfl, rfl, fun _ => by simp, fun _ => by simp⟩

theorem Probed.startProbe (e : EntryIdx) (s : State) (a : Agent) : Probed e [a] s (State.startProbe e s a) := by
  unfold State.startProbe
  split
  · next hm =>
    refine ⟨rfl, rfl, fun b => ?_, fun i hi => ?_, ?_, fun b => ?_, fun b => ?_⟩
    · exact (State.member_updPort (s := s.updEntry e _) (f := fun q => { q with probeQueue := q.probeQueue ++ [e] })
        (fun _ => rfl) b).trans rfl
    · rw [State.entry_updPort, State.entry_updEntry_ne _ _ hi]
    · rw [State.entry_updPort, State.entry_updEntry_same]
      rfl
    · rw [State.entry_updPort, State.entry_updEntry_same]
      show has (addTo _ _) b = _
      rw [has_addTo]
      by_cases hb : b = a
      · rw [hb]
        simp [hm]
      · simp [hb]
    · rw [State.entry_updPort, State.entry_updEntry_same]
      refine (if_neg fun h => ?_).symm
      rw [List.mem_singleton.1 h.1, hm] at h
      exact Bool.noConfusion h.2
  · next hm =>
    refine ⟨rfl, rfl, fun _ => rfl, fun i hi => State.entry_updEntry_ne _ _ hi, ?_, fun b => ?_, fun b => ?_⟩
    · rw [State.entry_updEntry_same]
      rfl
    · rw [State.entry_updEntry_same]
      by_cases hb : b = a
      · rw [hb]
        simp [hm]
      · simp [hb]
    · rw [State.entry_updEntry_same]
      by_cases hb : b = a
      · subst hb
        rw [if_pos ⟨List.mem_singleton.2 rfl, by simpa using hm⟩]
        exact Vector.get_set_self _ _ _
      · rw [if_neg fun h => hb (List.mem_singleton.1 h.1)]
        exact Vector.get_set_other _ _ hb

theorem Probed.cons {e : EntryIdx} {a : Agent} {l : List Agent} {s t u : State} (h : Probed e [a] s t)
    (g : Probed e l t u) : Probed e (a :: l) s u := by
  refine ⟨g.dir.trans h.dir, g.off.trans h.off, fun b => (g.member b).trans (h.member b),
    fun i hi => (g.other i hi).trans (h.other i hi), g.self.trans h.self, fun b => ?_, fun b => ?_⟩
  · rw [g.pending, h.pending, h.member]
    by_cases hb : b = a
    · subst hb
      cases s.member b <;> simp
    · simp [hb]
  · rw [g.answers, h.answers, h.member]
    by_cases hl : b ∈ l ∧ s.member b = false
    · rw [if_pos hl, if_pos ⟨List.mem_cons_of_mem _ hl.1, hl.2⟩]
    · rw [if_neg hl]
      refine if_congr ?_ rfl rfl
      rw [List.mem_singleton, List.mem_cons]
      exact ⟨fun hb => ⟨.inl hb.1, hb.2⟩, fun hb => ⟨hb.1.resolve_right fun hm => hl ⟨hm, hb.2⟩, hb.2⟩⟩

theorem Probed.startProbes (e : EntryIdx) (l : List Agent) (s : State) :
    Probed e l s (l.foldl (State.startProbe e) s) := by
  induction l generalizing s with
  | nil => exact .nil e s
  | cons a l ih => exact (Probed.startProbe e s a).cons (ih _)

/-- An entry as the start of its round leaves it, before its agents are taken (R69). -/
def Entry.roundBegun (kind : ProbeKind) (repair : Bool) (x : Entry) : Entry :=
  { x.unprobed with phase := .probing, probeKind := some kind, repairRound := repair }

/-- What the start of a probe round of entry `e` leaves (R68, R69). -/
structure Rounds (e : EntryIdx) (kind : ProbeKind) (set : AgentSet) (repair : Bool) (s t : State) : Prop where
  dir : t.dir = s.dir
  off : t.offArray = s.offArray
  other : ∀ i, i ≠ e → t.entry i = s.entry i
  self : (t.entry e).unprobed = (s.entry e).roundBegun kind repair
  pending : ∀ a : Agent, has (t.entry e).pendingSet a = (has set a && s.member a)
  answers : ∀ a : Agent, (t.entry e).answers.get a = if has set a ∧ s.member a = false then some .fenceGone else none

theorem Rounds.startRound (s : State) (e : EntryIdx) (kind : ProbeKind) (set : AgentSet) (repair : Bool) :
    Rounds e kind set repair s (s.startRound e kind set repair) := by
  unfold State.startRound
  dsimp only
  generalize hu : ({ (s.updEntry e _) with ports := _ } : State) = u
  have hdir : u.dir = s.dir := by rw [← hu]; rfl
  have hoff : u.offArray = s.offArray := by rw [← hu]; rfl
  have hmem (a : Agent) : u.member a = s.member a := by
    rw [← hu]
    unfold State.member State.port
    dsimp only
    rw [get_mapVec]
    rfl
  have htt : u.tt = (s.updEntry e (Entry.roundBegun kind repair)).tt := by rw [← hu]; rfl
  have hother (i : EntryIdx) (hi : i ≠ e) : u.entry i = s.entry i := by
    unfold State.entry
    rw [htt]
    exact State.entry_updEntry_ne s (Entry.roundBegun kind repair) hi
  have hself : u.entry e = (s.entry e).roundBegun kind repair := by
    unfold State.entry
    rw [htt]
    exact State.entry_updEntry_same s e (Entry.roundBegun kind repair)
  clear hu
  have g := Probed.startProbes e (agentsOf set) u
  refine ⟨g.dir.trans hdir, g.off.trans hoff, fun i hi => (g.other i hi).trans (hother i hi), ?_, fun a => ?_, fun a => ?_⟩
  · rw [g.self, hself]
    rfl
  · rw [g.pending, hmem, hself]
    show (has (0 : AgentSet) a || _) = _
    have hd : decide (a ∈ agentsOf set) = has set a :=
      Bool.eq_iff_iff.2 (decide_eq_true_iff.trans (mem_agentsOf set a))
    rw [hd, has_zero, Bool.false_or]
  · rw [g.answers, hmem, hself]
    show (if _ then _ else (Vector.replicate 8 none).get a) = _
    rw [get_replicate]
    exact if_congr (and_congr_left fun _ => mem_agentsOf set a) rfl rfl

/-- A repair round probes the agents of the domain but the keep agent (R139). -/
theorem Rounds.startRepair (s : State) (e : EntryIdx) (keep : Option Agent) :
    Rounds e .invalidate (match keep with
      | some a => without s.memberSet a
      | none => s.memberSet) true (s.updEntry e fun x => { x with keep := keep }) (s.startRepair e keep) :=
  .startRound _ _ _ _ _

end Sys2Proof.Machine
end

section
/-! PROOF. What the close of an entry and the end of a resolution leave (R34, R57 to R60, R88). -/

namespace Sys2Proof.Machine

/-! ### The end of a transaction (R57, R60) -/

/-- The state but for the ports and the purge set, which alone a snapshot touches. -/
def State.offSnapshots (s : State) := (s.dir, s.tt, s.svc, s.offArray)

theorem State.offSnapshots_leaveSnapshots (s : State) (e : EntryIdx) :
    (s.leaveSnapshots e).offSnapshots = s.offSnapshots := by
  have fold (l : List Agent) (u : State) : (l.foldl (State.leaveSnapshot e) u).offSnapshots = u.offSnapshots := by
    induction l generalizing u with
    | nil => rfl
    | cons p l ih =>
      refine (ih _).trans ?_
      unfold State.leaveSnapshot
      dsimp only
      split
      · split <;> rfl
      · rfl
  exact fold allAgents s

theorem State.offSnapshots_reportClose (s : State) (e : EntryIdx) : (s.reportClose e).offSnapshots = s.offSnapshots :=
  State.offSnapshots_leaveSnapshots _ e

theorem State.entry_reportClose (s : State) (e i : EntryIdx) : (s.reportClose e).entry i = s.entry i :=
  congrArg (fun tt : Vector Entry 32 => tt.get i) (congrArg (fun x => x.2.1) (State.offSnapshots_reportClose s e))

/-- What the hand-on step of entry `e` leaves (R60). -/
structure HandsOn (k : SetIdx) (e : EntryIdx) (s t : State) : Prop where
  off : t.offArray = s.offArray
  set : t.dir = s.dir ∨ t.dir = (s.updSet k fun d => d.dropBound e).dir
  other : ∀ i, i ≠ e → t.entry i = s.entry i
  freed : (s.entry e).waiters = [] → t.entry e = Entry.freeOf (s.entry e).gen
  svc : (s.entry e).waiters = [] → s.svc.waiting ≠ .freeEntry → t.svc = s.svc

theorem HandsOn.releaseEntry (s : State) (k : SetIdx) (e : EntryIdx) : HandsOn k e s (s.releaseEntry k e) := by
  have h := State.offSnapshots_leaveSnapshots (((s.updSet k fun d => d.dropBound e).setEntry e
    (Entry.freeOf (s.entry e).gen)).pauseDown) e
  simp only [State.offSnapshots, Prod.mk.injEq] at h
  obtain ⟨hdir, -, hsvc, hoff⟩ := h
  refine ⟨hoff, .inr hdir, fun i hi => ?_, fun _ => ?_, fun _ hw => ?_⟩
  · rw [State.entry_releaseEntry, if_neg hi]
  · rw [State.entry_releaseEntry, if_pos rfl]
  · refine Eq.trans (if_neg ?_) hsvc
    intro hf
    exact hw ((congrArg ServicePort.waiting hsvc).symm.trans hf)

theorem HandsOn.of_updEntry {s t : State} {k : SetIdx} {e : EntryIdx} (hoff : t.offArray = s.offArray)
    (hdir : t.dir = s.dir) (hother : ∀ i, i ≠ e → t.entry i = s.entry i) (hw : (s.entry e).waiters ≠ []) :
    HandsOn k e s t :=
  ⟨hoff, .inl hdir, hother, fun h => absurd h hw, fun h => absurd h hw⟩

theorem HandsOn.handOn (s : State) (k : SetIdx) (e : EntryIdx) : HandsOn k e s (s.handOn k e) := by
  have hrel : (s.entry e).waiters ≠ [] → HandsOn k e s (s.enterReleasing e) :=
    .of_updEntry rfl rfl fun i hi => State.entry_updEntry_ne s _ hi
  unfold State.handOn
  split
  · exact .releaseEntry s k e
  · next i rest hw =>
    have hne : (s.entry e).waiters ≠ [] := by rw [hw]; exact List.cons_ne_nil _ _
    split
    · split
      · exact .of_updEntry rfl rfl (fun j hj => State.entry_setEntry_ne _ _ hj) hne
      · exact hrel hne
    · exact .of_updEntry rfl rfl (fun j hj => State.entry_setEntry_ne _ _ hj) hne
    · exact hrel hne
    · exact hrel hne

/-! ### The close (R58) -/

/-- What the close of entry `e` leaves, beside the state `s` that its filter leaves. -/
structure Closes (k : SetIdx) (e : EntryIdx) (s t : State) : Prop where
  off : t.offArray = s.offArray
  record : s.dir.wf = true → ∀ v, t.recordAt k v = s.recordAt k v
  reservation : s.dir.wf = true → ∀ v, (t.slot k v).reservation =
    if (s.slot k v).reservation = some e then none else (s.slot k v).reservation
  other : ∀ i, i ≠ e → t.entry i = s.entry i
  freed : (s.entry e).waiters = [] → t.entry e = Entry.freeOf (s.entry e).gen
  svc : (s.entry e).waiters = [] → s.svc.waiting ≠ .freeEntry → t.svc = s.svc

theorem DirSet.record_dropReservation (d : DirSet) (e : EntryIdx) (v : Way) :
    (d.dropReservation e).record v = d.record v := by
  unfold DirSet.record
  rw [DirSet.slot_dropReservation]
  split <;> rfl

theorem DirSet.record_dropBound (d : DirSet) (e : EntryIdx) (v : Way) : (d.dropBound e).record v = d.record v := by
  unfold DirSet.record
  rw [DirSet.slot_dropBound]
  split <;> rfl

theorem DirSet.reservation_dropBound (d : DirSet) (e : EntryIdx) (v : Way) :
    ((d.dropBound e).slot v).reservation = (d.slot v).reservation := by
  rw [DirSet.slot_dropBound]
  split <;> rfl

theorem DirSet.reservation_dropReservation (d : DirSet) (e : EntryIdx) (v : Way) :
    ((d.dropReservation e).slot v).reservation =
      if (d.slot v).reservation = some e then none else (d.slot v).reservation := by
  rw [DirSet.slot_dropReservation]
  split <;> rfl

theorem Closes.closeEntry (s : State) (k : SetIdx) (e : EntryIdx) :
    Closes k e (s.closeFilter k e) (s.closeEntry k e) := by
  unfold State.closeEntry
  dsimp only
  generalize s.closeFilter k e = u
  have hc := State.offSnapshots_reportClose (u.updSet k fun d => d.dropReservation e) e
  have hentry (i : EntryIdx) : ((u.updSet k fun d => d.dropReservation e).reportClose e).entry i = u.entry i :=
    State.entry_reportClose _ e i
  have g := HandsOn.handOn ((u.updSet k fun d => d.dropReservation e).reportClose e) k e
  generalize (u.updSet k fun d => d.dropReservation e).reportClose e = r at hc hentry g
  simp only [State.offSnapshots, Prod.mk.injEq] at hc
  obtain ⟨hdir, -, hsvc, hoff⟩ := hc
  have hset (h : u.dir.wf = true) : r.dirSet k = (u.dirSet k).dropReservation e := by
    rw [State.dirSet_congr hdir]
    exact State.dirSet_updSet_same u k _ h
  have hwf (h : u.dir.wf = true) : r.dir.wf = true := by
    rw [hdir]
    exact State.wf_updSet u k _ h
  refine ⟨g.off.trans hoff, fun h v => ?_, fun h v => ?_, fun i hi => (g.other i hi).trans (hentry i), fun h => ?_,
    fun h hw => ?_⟩
  · unfold State.recordAt
    rcases g.set with hd | hd
    · rw [State.dirSet_congr hd, hset h, DirSet.record_dropReservation]
    · rw [State.dirSet_congr hd, State.dirSet_updSet_same r k _ (hwf h), DirSet.record_dropBound, hset h,
        DirSet.record_dropReservation]
  · unfold State.slot
    rcases g.set with hd | hd
    · rw [State.dirSet_congr hd, hset h, DirSet.reservation_dropReservation]
    · rw [State.dirSet_congr hd, State.dirSet_updSet_same r k _ (hwf h), DirSet.reservation_dropBound, hset h,
        DirSet.reservation_dropReservation]
  · rw [g.freed (by rw [hentry]; exact h), hentry]
  · exact (g.svc (by rw [hentry]; exact h) (by rw [hsvc]; exact hw)).trans hsvc

/-! ### The filter (R58) -/

/-- Without a record on its line an entry's close filters nothing. -/
theorem State.closeFilter_absent {s : State} {k : SetIdx} {e : EntryIdx}
    (h : (s.dirSet k).findTag (tagOf (s.lineOfEntry e)) = none) : s.closeFilter k e = s := by
  unfold State.closeFilter
  rw [h]

/-- A POISONED record stays as it is. -/
theorem State.closeFilter_poisoned {s : State} {k : SetIdx} {e : EntryIdx} {w : Way} {r : Record}
    (h : (s.dirSet k).findTag (tagOf (s.lineOfEntry e)) = some w) (hr : (s.dirSet k).record w = some r)
    (hp : r.state = .poisoned) : s.closeFilter k e = s := by
  unfold State.closeFilter State.filterRecord
  rw [h]
  dsimp only
  rw [hr]
  dsimp only
  rw [hp]

/-- A record freed leaves every entry but the one it was bound to; that one loses its way alone. -/
theorem State.entry_freeRec (s : State) (k : SetIdx) (w : Way) (i : EntryIdx) :
    (s.freeRec k w).entry i = if (s.slot k w).bound = some i then { s.entry i with way := none } else s.entry i := by
  unfold State.freeRec
  dsimp only
  rw [State.entry_updSet]
  split
  · next e hb =>
    rw [hb, State.entry_updEntry]
    by_cases hi : i = e
    · rw [if_pos hi, hi, if_pos rfl]
    · rw [if_neg hi, if_neg fun h => hi (Option.some.inj h).symm]
  · next hb =>
    rw [hb, if_neg (by simp)]

/-- The filter leaves every entry but the one that the record is bound to; that one keeps all but its way. -/
theorem State.entry_closeFilter (s : State) (k : SetIdx) (e i : EntryIdx) :
    (s.closeFilter k e).entry i = s.entry i ∨ (s.closeFilter k e).entry i = { s.entry i with way := none }
      ∧ ∃ w, (s.dirSet k).findTag (tagOf (s.lineOfEntry e)) = some w ∧ (s.slot k w).bound = some i := by
  unfold State.closeFilter
  split
  · next w hw =>
    split
    · next r hr =>
      have hfree : (s.freeOrPoison k w r).entry i = s.entry i ∨
          (s.freeOrPoison k w r).entry i = { s.entry i with way := none } ∧
            ∃ v, (s.dirSet k).findTag (tagOf (s.lineOfEntry e)) = some v ∧ (s.slot k v).bound = some i := by
        unfold State.freeOrPoison
        split
        · exact .inl rfl
        · rw [State.entry_freeRec]
          split
          · next hb => exact .inr ⟨rfl, w, hw, hb⟩
          · exact .inl rfl
      unfold State.filterRecord
      split
      · dsimp only
        split
        · exact hfree
        · exact .inl rfl
      · split
        · split <;> exact .inl rfl
        · exact .inl rfl
      · exact .inl rfl
      · exact .inl rfl
    · exact .inl rfl
  · exact .inl rfl

end Sys2Proof.Machine
end

section
/-! PROOF. What a grant and a park leave (R14, R33 to R35, R88), and O25: a parked request takes a slot. -/

namespace Sys2Proof.Machine

/-! ### The end of a resolution (R34, R55) -/

/-- What a resolution that sends GRANT `g` leaves, beside the state `s` that its writes left. -/
structure Granted (e : EntryIdx) (r : Request) (g : Grant) (s t : State) : Prop where
  dir : t.dir = s.dir
  integ : t.integ = s.integ
  reports : t.reports = s.reports
  other : ∀ i, i ≠ e → t.entry i = s.entry i
  phase : (t.entry e).phase = .awaitDone
  way : (t.entry e).way = (s.entry e).way
  sent : (t.entry e).grantSent = some g.kind
  outbox : s.member r.port = true →
    t.outbox = s.outbox ++ [⟨r.port, .grant r.tag r.line (s.txn e) g.kind g.reread g.record.poison⟩]

theorem State.outbox_reply {s : State} {p : Agent} (h : s.member p = true) (tag : ReqTag) (m : OutMsg) :
    (s.reply p tag m).outbox = s.outbox ++ [⟨p, m⟩] := by
  show (s.send p m).outbox = _
  rw [State.outbox_send, if_pos h]

theorem Granted.finishGrant {s : State} {r : Request} (h : s.fenced r.port = false) (k : SetIdx) (e : EntryIdx)
    (g : Grant) : Granted e r g s (s.finishGrant k e r g) := by
  have heq : s.finishGrant k e r g = (s.updEntry e fun x => { x with
      phase := .awaitDone, grantSent := some g.kind, closePending := false, slotClaim := false, repairRound := false
      doneTimer := some (Config.doneStep * s.cfg.doneTmo) }).reply r.port r.tag
        (.grant r.tag r.line (s.txn e) g.kind g.reread g.record.poison) := by
    unfold State.finishGrant
    rw [h]
    rfl
  rw [heq]
  refine ⟨?_, ?_, ?_, fun i hi => ?_, ?_, ?_, ?_, fun hm => State.outbox_reply (s := s.updEntry e _) hm _ _⟩
  · rw [State.dir_reply, State.dir_updEntry]
  · rw [State.integ_reply, State.integ_updEntry]
  · rw [State.reports_reply, State.reports_updEntry]
  · rw [State.entry_reply, State.entry_updEntry_ne _ _ hi]
  · rw [State.entry_reply, State.entry_updEntry_same]
  · rw [State.entry_reply, State.entry_updEntry_same]
  · rw [State.entry_reply, State.entry_updEntry_same]

/-! ### A grant on an absent line (R14, R33) -/

/-- The grant of request `r` on an absent line. -/
def Request.newGrant (r : Request) : Grant := grantNew r.kind r.port r.fullWrite (tagOf r.line)

theorem Request.poison_newGrant (r : Request) : r.newGrant.record.poison = false := by
  unfold Request.newGrant grantNew
  cases r.kind <;> rfl

/-- What the grant of request `r` of entry `e` on an absent line leaves, its record allocated at way `w` of set `k`. -/
structure GrantsNew (k : SetIdx) (w : Way) (e : EntryIdx) (r : Request) (s t : State) : Prop where
  set : s.dir.wf = true → t.dirSet k = (s.dirSet k).alloc w r.newGrant.record (some e)
  integ : t.integ = s.integ
  reports : t.reports = s.reports
  other : ∀ i, i ≠ e → t.entry i = s.entry i
  phase : (t.entry e).phase = .awaitDone
  way : (t.entry e).way = some w
  sent : (t.entry e).grantSent = some r.newGrant.kind
  outbox : s.member r.port = true → t.outbox = s.outbox
    ++ [⟨r.port, .grant r.tag r.line (s.txn e) r.newGrant.kind r.newGrant.reread false⟩]

theorem GrantsNew.grantAbsent {s : State} {k : SetIdx} {w : Way} {e : EntryIdx} {r : Request} {freed : Option Way}
    (hf : s.fenced r.port = false) (hw : (s.dirSet k).allocWay e freed = some w) (again : Bool) :
    GrantsNew k w e r s (s.grantAbsent k e r freed again) := by
  have hother (i : EntryIdx) (hi : i ≠ e) : (s.alloc k w r.newGrant.record e).entry i = s.entry i :=
    State.entry_updEntry_ne _ _ hi
  have hself : (s.alloc k w r.newGrant.record e).entry e = { s.entry e with way := some w } :=
    State.entry_updEntry_same _ _ _
  have hset (h : s.dir.wf = true) : (s.alloc k w r.newGrant.record e).dirSet k
      = (s.dirSet k).alloc w r.newGrant.record (some e) := State.dirSet_updSet_same s k (fun d => d.alloc w r.newGrant.record (some e)) h
  have hinteg : (s.alloc k w r.newGrant.record e).integ = s.integ := rfl
  have hreports : (s.alloc k w r.newGrant.record e).reports = s.reports := rfl
  have houtbox : (s.alloc k w r.newGrant.record e).outbox = s.outbox := rfl
  have hmember : (s.alloc k w r.newGrant.record e).member r.port = s.member r.port := rfl
  have htxn : (s.alloc k w r.newGrant.record e).txn e = s.txn e := by
    unfold State.txn
    rw [hself]
  have g := Granted.finishGrant (s := s.alloc k w r.newGrant.record e) hf k e r.newGrant
  have heq : s.grantAbsent k e r freed again = (s.alloc k w r.newGrant.record e).finishGrant k e r r.newGrant := by
    unfold State.grantAbsent
    rw [hw]
    rfl
  rw [heq]
  generalize s.alloc k w r.newGrant.record e = a at *
  refine ⟨fun h => (State.dirSet_congr g.dir k).trans (hset h), g.integ.trans hinteg, g.reports.trans hreports,
    fun i hi => (g.other i hi).trans (hother i hi), g.phase, ?_, g.sent, fun hm => ?_⟩
  · rw [g.way, hself]
  · rw [g.outbox (hmember.trans hm), houtbox, htxn, r.poison_newGrant]

theorem State.grantAbsent_park {s : State} {k : SetIdx} {e : EntryIdx} {freed : Option Way}
    (h : (s.dirSet k).allocWay e freed = none) (r : Request) (again : Bool) :
    s.grantAbsent k e r freed again = s.park e again := by
  unfold State.grantAbsent
  rw [h]

/-- What the state at the end of an access has of a grant on an absent line, `d` being the set before it. -/
structure SlotTaken (k : SetIdx) (w : Way) (e : EntryIdx) (r : Request) (d : DirSet) (t : State) : Prop where
  record : t.recordAt k w = some r.newGrant.record
  slot : (t.dirSet k).slot w = { d.slot w with
    content := some r.newGrant.record, tagEcc := .good, holderEcc := .good, bound := some e, reservation := none }
  recency : (t.dirSet k).recency = w :: d.recency.erase w
  phase : (t.entry e).phase = .awaitDone
  way : (t.entry e).way = some w
  sent : (t.entry e).grantSent = some r.newGrant.kind

theorem GrantsNew.slotTaken {k : SetIdx} {w : Way} {e : EntryIdx} {r : Request} {s u t : State}
    (h : GrantsNew k w e r s u) (hwf : s.dir.wf = true) (g : Concludes u t) : SlotTaken k w e r (s.dirSet k) t := by
  have hd : t.dirSet k = (s.dirSet k).alloc w r.newGrant.record (some e) := (State.dirSet_congr g.dir k).trans (h.set hwf)
  have hslot : (t.dirSet k).slot w = { s.slot k w with
      content := some r.newGrant.record, tagEcc := .good, holderEcc := .good, bound := some e, reservation := none } := by
    rw [hd, DirSet.slot_alloc, if_pos rfl]
    rfl
  have he := g.entry e
  refine ⟨?_, hslot, ?_, (Entry.of_core Entry.phase (fun _ => rfl) he).trans h.phase,
    (Entry.of_core Entry.way (fun _ => rfl) he).trans h.way, (Entry.of_core Entry.grantSent (fun _ => rfl) he).trans h.sent⟩
  · unfold State.recordAt DirSet.record
    rw [hslot]
  · rw [hd]
    rfl

theorem GrantsNew.others {k : SetIdx} {w : Way} {e : EntryIdx} {r : Request} {s u t : State}
    (h : GrantsNew k w e r s u) (g : Concludes u t) (i : EntryIdx) (hi : i ≠ e) :
    (t.entry i).core = (s.entry i).core := by
  rw [g.entry i, h.other i hi]

theorem GrantsNew.granted {k : SetIdx} {w : Way} {e : EntryIdx} {r : Request} {s u t : State}
    (h : GrantsNew k w e r s u) (g : Concludes u t) (hm : s.member r.port = true) : ∃ more, t.outbox = s.outbox
      ++ [⟨r.port, .grant r.tag r.line (s.txn e) r.newGrant.kind r.newGrant.reread false⟩] ++ more := by
  obtain ⟨more, hmore⟩ := g.outbox
  exact ⟨more, by rw [hmore, h.outbox hm]⟩

/-! ### Parking (R88) -/

theorem State.entry_park (s : State) (e i : EntryIdx) (again : Bool) : (s.park e again).entry i =
    if i = e then { s.entry e with phase := .awaitSlot, way := none, slotClaim := false } else s.entry i :=
  State.entry_updEntry s e i fun x => { x with phase := .awaitSlot, way := none, slotClaim := false }

/-- What the state at the end of an access has of a parked request. -/
structure Parks (e : EntryIdx) (again : Bool) (s t : State) : Prop where
  phase : (t.entry e).phase = .awaitSlot
  way : (t.entry e).way = none
  claim : (t.entry e).slotClaim = false
  line : (t.entry e).line = (s.entry e).line
  dir : t.dir = s.dir
  queue : ∃ starts, t.recallUnit.queue = starts ++
    if again then .parked e :: s.recallUnit.queue else s.recallUnit.queue ++ [.parked e]
  other : ∀ i, i ≠ e → (t.entry i).core = (s.entry i).core

theorem Parks.concludes {s t : State} {e : EntryIdx} {again : Bool} (g : Concludes (s.park e again) t) :
    Parks e again s t := by
  have he := g.entry e
  rw [State.entry_park, if_pos rfl] at he
  refine ⟨Entry.of_core Entry.phase (fun _ => rfl) he, Entry.of_core Entry.way (fun _ => rfl) he,
    Entry.of_core Entry.slotClaim (fun _ => rfl) he, (Entry.of_core Entry.line (fun _ => rfl) he).trans rfl, g.dir, g.queue,
    fun i hi => ?_⟩
  rw [g.entry i, State.entry_park, if_neg hi]

/-! ### The close of an entry whose line needs no filter -/

/-- What the state at the end of an access has of the close of entry `e` on set `k`, the filter leaving the record. -/
structure Ends (k : SetIdx) (e : EntryIdx) (s t : State) : Prop where
  record : s.dir.wf = true → ∀ v, t.recordAt k v = s.recordAt k v
  reservation : s.dir.wf = true → ∀ v, ((t.dirSet k).slot v).reservation =
    if (s.slot k v).reservation = some e then none else (s.slot k v).reservation
  freed : (s.entry e).waiters = [] → (t.entry e).core = (Entry.freeOf (s.entry e).gen).core
  other : ∀ i, i ≠ e → (t.entry i).core = (s.entry i).core

theorem State.integ_closeEntry {s : State} {k : SetIdx} {e : EntryIdx} (h : s.closeFilter k e = s) :
    (s.closeEntry k e).integ = s.integ := by
  have g := (Closes.closeEntry s k e).off
  rw [h] at g
  exact congrArg Prod.fst g

theorem Ends.concludes {s t : State} {k : SetIdx} {e : EntryIdx} (h : s.closeFilter k e = s)
    (g : Concludes (s.closeEntry k e) t) : Ends k e s t := by
  have c := Closes.closeEntry s k e
  rw [h] at c
  refine ⟨fun hwf v => ?_, fun hwf v => ?_, fun hn => ?_, fun i hi => ?_⟩
  · rw [State.recordAt_congr g.dir, c.record hwf]
  · rw [State.dirSet_congr g.dir]
    exact c.reservation hwf v
  · rw [g.entry, c.freed hn]
  · rw [g.entry, c.other i hi]

/-! ### A request decided on an absent line -/

theorem State.resolve_absent {s : State} {r : Request} (h : s.findLine r.line = none) (e : EntryIdx)
    (freed : Option Way) (again : Bool) : s.resolve e r freed again = s.grantAbsent (setOf r.line) e r freed again := by
  unfold State.resolve
  rw [h]

theorem State.resolveHeld_absent {s : State} {r : Request} (h : s.findLine r.line = none) (e : EntryIdx) (again : Bool) :
    s.resolveHeld e r again = s.grantAbsent (setOf r.line) e r none again := by
  unfold State.resolveHeld
  rw [h]
  exact State.resolve_absent h e none again

theorem State.decideRequest_absent {s : State} {r : Request} (h : s.findLine r.line = none) (e : EntryIdx) (again : Bool) :
    s.decideRequest e r again = s.grantAbsent (setOf r.line) e r none again := by
  unfold State.decideRequest
  rw [h]
  exact State.resolve_absent h e none again

/-! ### The access of a parked request (R97) -/

theorem parkedOutcome_request {a : Access} {e : EntryIdx} {r : Request} (hr : a.s.requestOf e = some r)
    (hf : a.s.fenced r.port = false) (ha : a.s.findLine r.line = none) :
    parkedOutcome e a = a.s.grantAbsent (setOf r.line) e r none true := by
  unfold parkedOutcome
  rw [State.requesterFenced_of_requestOf hr, hf, if_neg Bool.false_ne_true, hr]
  exact State.resolveHeld_absent ha e true

theorem parkedOutcome_fenced {a : Access} {e : EntryIdx} {k : SetIdx} (hf : a.s.requesterFenced e = true)
    (hk : setOf (a.s.lineOfEntry e) = k) : parkedOutcome e a = a.s.closeEntry k e := by
  unfold parkedOutcome
  rw [if_pos hf, hk]

/-- Settles O25: a grant on an absent line, the park, and the close of a fenced requester's entry, each by its own lemma. -/
theorem parkedTakesSlot : Obligations.ParkedTakesSlot := by
  refine ⟨fun s f e r w hd hl hu hr hm ha hw => ?_, fun s f e r hd hl hu hr hf ha hw => ?_,
    fun s f e hd hl hu hf ha hn => ?_⟩
  · have hk : setOf (s.lineOfEntry e) = setOf r.line := by rw [State.lineOfEntry_of_requestOf hr]
    have hfenced := (s.checked_fenced (setOf r.line) f r.port).trans (State.not_fenced_of_member hm)
    have hout : parkedOutcome e (s.takeClaim.beginAccess (setOf r.line) f) = _ :=
      parkedOutcome_request ((s.checked_requestOf _ f e).trans hr) hfenced ha
    have hg : GrantsNew (setOf r.line) w e r (s.checked (setOf r.line) f) _ := .grantAbsent hfenced hw true
    obtain ⟨t, ht, g⟩ := State.exec_undisturbed (d := .parked e) rfl hd rfl hk hu hout hg.integ
    have q := hg.slotTaken (State.checked_lawful hl _ f).1 g
    obtain ⟨more, hmore⟩ := hg.granted g ((s.checked_member _ f _).trans hm)
    rw [State.checked_outbox, State.checked_txn] at hmore
    refine ⟨t, ht, q.record, r.poison_newGrant, ?_, ?_, q.recency, q.phase, q.way, q.sent, ⟨more, hmore⟩, fun i hi => ?_⟩
    · rw [q.slot]
    · rw [q.slot]
    · rw [hg.others g i hi, State.checked_entry]
  · have hk : setOf (s.lineOfEntry e) = setOf r.line := by rw [State.lineOfEntry_of_requestOf hr]
    have hout : parkedOutcome e (s.takeClaim.beginAccess (setOf r.line) f) = _ :=
      (parkedOutcome_request ((s.checked_requestOf _ f e).trans hr) ((s.checked_fenced _ f _).trans hf) ha).trans
        (State.grantAbsent_park hw r true)
    obtain ⟨t, ht, g⟩ := State.exec_undisturbed (d := .parked e) rfl hd rfl hk hu hout rfl
    have q := Parks.concludes g
    obtain ⟨starts, hq⟩ := q.queue
    rw [(SameOutside.checked s _ f).recallUnit] at hq
    refine ⟨t, ht, q.phase, q.claim, q.dir, ⟨starts, hq⟩, fun i hi => ?_⟩
    rw [q.other i hi]
    exact congrArg Entry.core (s.checked_entry _ f i)
  · have hout : parkedOutcome e (s.takeClaim.beginAccess (setOf (s.lineOfEntry e)) f)
        = (s.checked (setOf (s.lineOfEntry e)) f).closeEntry (setOf (s.lineOfEntry e)) e :=
      parkedOutcome_fenced ((s.checked_requesterFenced _ f e).trans hf) (congrArg setOf (s.checked_lineOfEntry _ f e))
    have hc : (s.checked (setOf (s.lineOfEntry e)) f).closeFilter (setOf (s.lineOfEntry e)) e
        = s.checked (setOf (s.lineOfEntry e)) f := State.closeFilter_absent (by rw [State.checked_lineOfEntry]; exact ha)
    obtain ⟨t, ht, g⟩ := State.exec_undisturbed (d := .parked e) rfl hd rfl rfl hu hout (State.integ_closeEntry hc)
    have q := Ends.concludes hc g
    have hwf := (State.checked_lawful hl (setOf (s.lineOfEntry e)) f).1
    have hentry (i : EntryIdx) := s.checked_entry (setOf (s.lineOfEntry e)) f i
    refine ⟨t, ht, q.record hwf, q.reservation hwf, ?_, fun i hi => ?_⟩
    · rw [q.freed (by rw [hentry]; exact hn), hentry]
    · rw [q.other i hi, hentry]

end Sys2Proof.Machine
end

section
/-! PROOF. The lookup of the intake's head (R26): O21, a slot or a park, and O19, a wait or a refusal. -/

namespace Sys2Proof.Machine

/-! ### The slot that an allocation takes (R12, R14) -/

/-- A slot that an allocation for entry `e` may take (R2, R12). -/
theorem DirSet.usableFor_iff (d : DirSet) (w : Way) (e : EntryIdx) : (d.slot w).usableFor e = true ↔
    d.record w = none ∧ (d.slot w).mark = .inService
      ∧ ((d.slot w).reservation = none ∨ (d.slot w).reservation = some e) := by
  unfold Slot.usableFor DirSet.record
  rw [Bool.and_eq_true, Bool.and_eq_true, Bool.or_eq_true, Option.isNone_iff_eq_none, decide_eq_true_iff,
    decide_eq_true_iff, decide_eq_true_iff, and_assoc]

/-- The first way of the list that satisfies a test is the lowest. -/
theorem find?_allWays_le {p : Way → Bool} {w : Way} (h : allWays.find? p = some w) {v : Way} (hv : p v = true) : w ≤ v := by
  obtain ⟨-, l, r, hl, hn⟩ := List.find?_eq_some_iff_append.1 h
  have hs : allWays.Pairwise (· < ·) := List.pairwise_lt_finRange 16
  have hm : v ∈ allWays := mem_allWays v
  rw [hl] at hs hm
  rcases List.mem_append.1 hm with hv' | hv'
  · exact absurd hv (by simpa using hn v hv')
  · rcases List.mem_cons.1 hv' with rfl | hv'
    · exact Fin.le_refl _
    · exact Fin.le_of_lt (List.rel_of_pairwise_cons (List.pairwise_append.1 hs).2.1 hv')

theorem DirSet.allocWay_some {d : DirSet} {e : EntryIdx} {w : Way} (h : d.allocWay e none = some w) :
    (d.slot w).usableFor e = true ∧ ((d.slot w).reservation ≠ some e → ∀ v, (d.slot v).usableFor e = true →
      (d.slot v).reservation ≠ some e ∧ w ≤ v) := by
  unfold DirSet.allocWay at h
  split at h
  · next u hr =>
    cases h
    have hw := List.find?_some hr
    rw [Bool.and_eq_true, decide_eq_true_iff] at hw
    exact ⟨hw.1, fun hn => absurd hw.2 hn⟩
  · next hr =>
    have hw : allWays.find? (fun v => (d.slot v).usableFor e) = some w := h
    refine ⟨List.find?_some (p := fun v => (d.slot v).usableFor e) hw, fun _ v hv => ⟨fun he => ?_, find?_allWays_le (p := fun v => (d.slot v).usableFor e) hw hv⟩⟩
    have := List.find?_eq_none.1 hr v (mem_allWays v)
    exact this (by rw [hv, he]; simp)

theorem DirSet.allocWay_none {d : DirSet} {e : EntryIdx} (h : d.allocWay e none = none) (v : Way) :
    ¬ (d.slot v).usableFor e = true := by
  unfold DirSet.allocWay at h
  split at h
  · cases h
  · exact List.find?_eq_none.1 h v (mem_allWays v)

/-! ### The head leaves the queue (R26, R110) -/

theorem State.member_leaveIntake (s : State) (r : Request) (p : Agent) : (s.leaveIntake r).member p = s.member p := by
  unfold State.leaveIntake State.member
  rw [State.port_returnCredit]
  split
  · next h => rw [h]; rfl
  · rfl

theorem State.outbox_leaveIntake {s : State} {r : Request} (h : s.member r.port = true) :
    (s.leaveIntake r).outbox = s.outbox ++ [⟨r.port, .credit⟩] := by
  unfold State.leaveIntake State.returnCredit
  rw [State.outbox_send, if_pos]
  · rfl
  · exact (State.member_updPort (s := { s with intake := s.intake.tail })
      (f := fun q => { q with credits := q.credits + 1 }) (fun _ => rfl) r.port).trans h

theorem State.entry_leaveIntake (s : State) (r : Request) (i : EntryIdx) : (s.leaveIntake r).entry i = s.entry i :=
  State.entry_returnCredit _ _ _

theorem State.dir_leaveIntake (s : State) (r : Request) : (s.leaveIntake r).dir = s.dir := State.dir_returnCredit _ _

/-! ### A request begun (R26, R27) -/

/-- The state in which the request of the intake's head is decided, entry `e` taken for it. -/
def State.begun (s : State) (r : Request) (e : EntryIdx) : State :=
  (s.leaveIntake r).takeEntry e r.line .request (.agent r.port) (some (.agent r.kind r.tag r.fullWrite))

theorem State.entry_begun (s : State) (r : Request) (e i : EntryIdx) : (s.begun r e).entry i = if i = e then
    Entry.begin (s.entry e).gen r.line none .request (.agent r.port) (some (.agent r.kind r.tag r.fullWrite)) []
    else s.entry i := by
  unfold State.begun
  rw [State.entry_takeEntry, State.entry_leaveIntake, State.entry_leaveIntake]

theorem State.dir_begun (s : State) (r : Request) (e : EntryIdx) : (s.begun r e).dir = s.dir := State.dir_leaveIntake s r

theorem State.member_begun (s : State) (r : Request) (e : EntryIdx) (p : Agent) : (s.begun r e).member p = s.member p :=
  State.member_leaveIntake s r p

theorem State.integ_begun (s : State) (r : Request) (e : EntryIdx) : (s.begun r e).integ = s.integ :=
  State.integ_returnCredit _ _

theorem State.recallUnit_begun (s : State) (r : Request) (e : EntryIdx) : (s.begun r e).recallUnit = s.recallUnit :=
  State.recallUnit_returnCredit _ _

theorem State.txn_begun (s : State) (r : Request) (e : EntryIdx) :
    (s.begun r e).txn e = txnOf e ((s.entry e).gen + 1) := by
  unfold State.txn
  rw [State.entry_begun, if_pos rfl]
  rfl

theorem State.outbox_begun {s : State} {r : Request} (h : s.member r.port = true) (e : EntryIdx) :
    (s.begun r e).outbox = s.outbox ++ [⟨r.port, .credit⟩] := State.outbox_leaveIntake h

/-- An unbound line absent from a set that is not LOST: the request takes the free entry. -/
theorem intakeOutcome_absent {a : Access} {r : Request} {e : EntryIdx} (hb : a.s.boundEntry r.line = none)
    (hn : r.kind.needsGrant = true) (he : a.s.freeEntry = some e) (ha : a.s.findLine r.line = none)
    (hl : (a.s.dirSet (setOf r.line)).lost = false) :
    intakeOutcome r a = (a.s.begun r e).grantAbsent (setOf r.line) e r none false := by
  have hf : (a.s.begun r e).findLine r.line = none := by rw [State.findLine_congr (a.s.dir_begun r e), ha]
  unfold intakeOutcome
  dsimp only
  rw [hb]
  dsimp only
  rw [if_neg (fun h => by rw [hl] at h; exact Bool.noConfusion h.2), if_pos hn, he]
  exact State.decideRequest_absent hf e false

/-- Settles O21: the free entry is taken, then the allocation or the park decides; the slot is `DirSet.allocWay`'s. -/
theorem lookupAllocatesOrParks : Obligations.LookupAllocatesOrParks := by
  refine ⟨fun s f r e hd hl hu hm hn hb he ha hlost => ?_, fun d e => ?_⟩
  · have hwf := (State.checked_lawful hl (setOf r.line) f).1
    have hout : intakeOutcome r (s.takeClaim.beginAccess (setOf r.line) f) = _ :=
      intakeOutcome_absent ((s.checked_boundEntry _ f _).trans hb) hn ((s.checked_freeEntry _ f).trans he) ha hlost
    have hmember : (s.checked (setOf r.line) f).member r.port = true := (s.checked_member _ f _).trans hm
    have hqueue : (s.checked (setOf r.line) f).recallUnit = s.recallUnit := (SameOutside.checked s _ f).recallUnit
    have hnil := s.checked_outbox (setOf r.line) f
    have hentry (i : EntryIdx) := s.checked_entry (setOf r.line) f i
    have hexec {u : State} := State.exec_undisturbed (s := s) (d := .intake r) (k := setOf r.line) (f := f) (u := u)
      rfl hd rfl rfl hu
    change _ = State.grantAbsent ((s.checked (setOf r.line) f).begun r e) _ _ _ _ _ at hout
    generalize s.checked (setOf r.line) f = c at *
    have hset : (c.begun r e).dirSet (setOf r.line) = c.dirSet (setOf r.line) := State.dirSet_congr (c.dir_begun r e) _
    have hfenced : (c.begun r e).fenced r.port = false :=
      State.not_fenced_of_member ((c.member_begun r e _).trans hmember)
    cases hw : (c.dirSet (setOf r.line)).allocWay e none with
    | some w =>
      rw [← hset] at hw
      have hg : GrantsNew (setOf r.line) w e r (c.begun r e) _ := .grantAbsent hfenced hw false
      obtain ⟨t, ht, g⟩ := hexec hout (hg.integ.trans (c.integ_begun r e))
      have q := hg.slotTaken (by rw [c.dir_begun]; exact hwf) g
      rw [hset] at q
      obtain ⟨more, hmore⟩ := hg.granted g ((c.member_begun r e _).trans hmember)
      rw [State.outbox_begun hmember, hnil, State.txn_begun, hentry] at hmore
      refine ⟨t, ht, fun i hi => ?_, fun v hv => ?_, fun hnone => (by cases hnone)⟩
      · rw [hg.others g i hi, State.entry_begun, if_neg hi, hentry]
      · cases hv
        exact ⟨q.record, r.poison_newGrant, q.slot, q.recency, q.phase, q.way, q.sent, more, hmore⟩
    | none =>
      rw [← hset] at hw
      rw [State.grantAbsent_park hw] at hout
      obtain ⟨t, ht, g⟩ := hexec hout (c.integ_begun r e)
      have q := Parks.concludes g
      obtain ⟨starts, hstarts⟩ := q.queue
      rw [State.recallUnit_begun, hqueue] at hstarts
      refine ⟨t, ht, fun i hi => ?_, fun v hv => (by cases hv), fun _ => ⟨q.phase, ?_, q.way, ?_, starts, ?_⟩⟩
      · rw [q.other i hi, State.entry_begun, if_neg hi, hentry]
      · rw [q.line, State.entry_begun, if_pos rfl]
        rfl
      · exact q.dir.trans (c.dir_begun r e)
      · rw [hstarts, List.append_assoc]
        rfl
  · have husable := d.usableFor_iff
    refine ⟨fun w hw => ?_, fun hn v hv => DirSet.allocWay_none hn v ((husable v e).2 hv)⟩
    obtain ⟨h1, h2⟩ := DirSet.allocWay_some hw
    exact ⟨(husable w e).1 h1, fun hr v hv => h2 hr v ((husable v e).2 hv)⟩

end Sys2Proof.Machine
end

section
/-! PROOF. O19: a request waits on the entry that binds its line, or is refused (R13, R26, R50, R51). -/

namespace Sys2Proof.Machine

theorem State.pool_leaveIntake (s : State) (r : Request) : (s.leaveIntake r).pool = s.pool := State.pool_returnCredit _ _

theorem State.intake_leaveIntake (s : State) (r : Request) : (s.leaveIntake r).intake = s.intake.tail :=
  State.intake_returnCredit _ _

theorem State.integ_leaveIntake (s : State) (r : Request) : (s.leaveIntake r).integ = s.integ :=
  State.integ_returnCredit _ _

theorem State.reports_leaveIntake (s : State) (r : Request) : (s.leaveIntake r).reports = s.reports :=
  State.reports_returnCredit _ _

theorem State.freePool_congr {s t : State} (h : t.pool = s.pool) : t.freePool = s.freePool := by
  unfold State.freePool State.waiter
  rw [h]

theorem State.noLeave_tail {s u : State} (h : s.noLeave) (hu : u.intake = s.intake.tail) : u.noLeave := fun r hr =>
  h r (List.mem_of_mem_tail (hu ▸ hr))

/-- A request whose line is bound waits on that entry, or is refused. -/
theorem intakeOutcome_bound {a : Access} {r : Request} {e : EntryIdx} (h : a.s.boundEntry r.line = some e) :
    intakeOutcome r a = (a.s.leaveIntake r).waitOn r e := by
  unfold intakeOutcome
  dsimp only
  rw [h]

theorem intakeOutcome_lost {a : Access} {r : Request} (hb : a.s.boundEntry r.line = none)
    (ha : a.s.findLine r.line = none) (hl : (a.s.dirSet (setOf r.line)).lost = true) :
    intakeOutcome r a = (a.s.leaveIntake r).refuseLost r := by
  unfold intakeOutcome
  dsimp only
  rw [hb]
  dsimp only
  rw [if_pos ⟨by rw [ha]; rfl, hl⟩]

/-- What the state after the head's leaving the queue has of the state the access found. -/
structure Beside (s u : State) : Prop where
  dir : u.dir = s.dir
  integ : u.integ = s.integ
  intake : u.intake = s.intake.tail
  core : ∀ i, (u.entry i).core = (s.entry i).core

/-- The request refused, with its credit before the NACK. -/
theorem Beside.nack {s : State} {r : Request} (h : s.member r.port = true) (why : NackReason) (x : Report) :
    Beside s (((s.leaveIntake r).reply r.port r.tag (.nack r.tag r.line why)).report x)
    ∧ (((s.leaveIntake r).reply r.port r.tag (.nack r.tag r.line why)).report x).outbox
        = s.outbox ++ [⟨r.port, .credit⟩, ⟨r.port, .nack r.tag r.line why⟩]
    ∧ (((s.leaveIntake r).reply r.port r.tag (.nack r.tag r.line why)).report x).reports = s.reports ++ [x]
    ∧ (((s.leaveIntake r).reply r.port r.tag (.nack r.tag r.line why)).report x).pool = s.pool := by
  refine ⟨⟨?_, ?_, ?_, fun i => ?_⟩, ?_, ?_, ?_⟩
  · exact (State.dir_reply _ r.port r.tag _).trans (s.dir_leaveIntake r)
  · exact (State.integ_reply _ r.port r.tag _).trans (s.integ_leaveIntake r)
  · exact (State.intake_reply _ r.port r.tag _).trans (s.intake_leaveIntake r)
  · rw [State.entry_report, State.entry_reply, State.entry_leaveIntake]
  · refine (State.outbox_reply ((s.member_leaveIntake r _).trans h) r.tag _).trans ?_
    rw [State.outbox_leaveIntake h, List.append_assoc]
    rfl
  · show (State.reply _ _ _ _).reports ++ [x] = _
    rw [State.reports_reply, State.reports_leaveIntake]
  · exact (State.pool_reply _ r.port r.tag _).trans (s.pool_leaveIntake r)

/-- The request waits in pool slot `i` at the end of entry `e`'s list. -/
theorem Beside.joinWaiters (s : State) (r : Request) (e : EntryIdx) (i : PoolIdx) :
    Beside s ((s.leaveIntake r).joinWaiters e i (.request r)) := by
  refine ⟨s.dir_leaveIntake r, s.integ_leaveIntake r, s.intake_leaveIntake r, fun j => ?_⟩
  unfold State.joinWaiters
  rw [State.entry_updEntry, State.entry_setWaiter, State.entry_setWaiter, State.entry_leaveIntake, State.entry_leaveIntake]
  split
  · next h =>
    rw [h]
    rfl
  · rfl

/-- What every lookup that takes no entry leaves at the end of its event. -/
theorem Beside.concludes {s c u t : State} (h : Beside c u) (g : Concludes u t) (hl : s.noLeave)
    (hi : c.intake = s.intake) (he : ∀ i, c.entry i = s.entry i) :
    (t.intake = s.intake.tail ∧ t.dir = c.dir ∧ ∀ i, (t.entry i).core = (s.entry i).core)
      ∧ t.pool = u.pool ∧ ∀ i, (t.entry i).waiters = (u.entry i).waiters := by
  have hu : u.intake = s.intake.tail := h.intake.trans (congrArg List.tail hi)
  obtain ⟨hintake, hpool, hwaiters⟩ := g.still (State.noLeave_tail hl hu)
  exact ⟨⟨hintake.trans hu, g.dir.trans h.dir, fun i => by rw [g.entry, h.core, he]⟩, hpool, hwaiters⟩

/-- Settles O19: the request joins the list or is refused, by the pool's free slot; a miss in a LOST set is refused. -/
theorem lookupQueuesOrRefuses : Obligations.LookupQueuesOrRefuses := by
  refine ⟨fun s f r e hd hl hb hu hm => ?_, fun s f r hd hl hb hu hm ha hlost => ?_⟩
  · have hout : intakeOutcome r (s.takeClaim.beginAccess (setOf r.line) f) = _ :=
      intakeOutcome_bound ((s.checked_boundEntry _ f _).trans hb)
    have same := SameOutside.checked s (setOf r.line) f
    have hmember : (s.checked (setOf r.line) f).member r.port = true := (s.checked_member _ f _).trans hm
    have hentry (i : EntryIdx) := s.checked_entry (setOf r.line) f i
    have hfree : ((s.checked (setOf r.line) f).leaveIntake r).freePool = s.freePool :=
      State.freePool_congr ((State.pool_leaveIntake _ r).trans same.pool)
    change _ = ((s.checked (setOf r.line) f).leaveIntake r).waitOn r e at hout
    unfold State.waitOn at hout
    rw [hfree] at hout
    cases hp : s.freePool with
    | some i =>
      rw [hp] at hout
      have hbeside := Beside.joinWaiters (s.checked (setOf r.line) f) r e i
      obtain ⟨t, ht, g⟩ := State.exec_undisturbed (d := .intake r) (f := f) rfl hd rfl rfl hu hout hbeside.integ
      obtain ⟨⟨hi, hdir, hcore⟩, hpool, hwaiters⟩ := hbeside.concludes g hl same.intake hentry
      obtain ⟨more, hmore⟩ := g.outbox
      have hcredit : ((s.checked (setOf r.line) f).leaveIntake r).outbox = [⟨r.port, .credit⟩] := by
        rw [State.outbox_leaveIntake hmember, State.checked_outbox]
        rfl
      refine ⟨t, ht, hi, hdir, hcore, ⟨more, hmore.trans (congrArg (· ++ more) hcredit)⟩, fun j hj => ?_, fun hn => by cases hn⟩
      cases hj
      refine ⟨?_, ?_⟩
      · unfold State.waiter
        rw [hpool]
        exact State.waiter_setWaiter_same _ i _
      · rw [hwaiters]
        unfold State.joinWaiters
        rw [State.entry_updEntry_same, State.entry_setWaiter, State.entry_leaveIntake, hentry]
    | none =>
      rw [hp] at hout
      obtain ⟨hbeside, hbox, hrep, hsame⟩ := Beside.nack hmember .waitFull (waitFullReport r)
      obtain ⟨t, ht, g⟩ := State.exec_undisturbed (d := .intake r) (f := f) rfl hd rfl rfl hu hout hbeside.integ
      obtain ⟨⟨hi, hdir, hcore⟩, hpool, -⟩ := hbeside.concludes g hl same.intake hentry
      obtain ⟨more, hmore⟩ := g.outbox
      rw [hbox, State.checked_outbox] at hmore
      refine ⟨t, ht, hi, hdir, hcore, ⟨_, hmore⟩, fun j hj => (by cases hj), fun _ => ⟨⟨more, hmore⟩, g.reports _ ?_, ?_⟩⟩
      · rw [hrep]
        exact List.mem_append_right _ (List.mem_singleton.2 rfl)
      · exact hpool.trans (hsame.trans same.pool)
  · have hout : intakeOutcome r (s.takeClaim.beginAccess (setOf r.line) f)
        = (((s.checked (setOf r.line) f).leaveIntake r).reply r.port r.tag (.nack r.tag r.line .lost)).report (lostReport r) :=
      intakeOutcome_lost ((s.checked_boundEntry _ f _).trans hb) ha hlost
    have same := SameOutside.checked s (setOf r.line) f
    have hmember : (s.checked (setOf r.line) f).member r.port = true := (s.checked_member _ f _).trans hm
    obtain ⟨hbeside, hbox, hrep, -⟩ := Beside.nack hmember .lost (lostReport r)
    obtain ⟨t, ht, g⟩ := State.exec_undisturbed (d := .intake r) (f := f) rfl hd rfl rfl hu hout hbeside.integ
    obtain ⟨⟨hi, hdir, hcore⟩, -, -⟩ := hbeside.concludes g hl same.intake (s.checked_entry (setOf r.line) f)
    obtain ⟨more, hmore⟩ := g.outbox
    replace hmore := hmore.trans (congrArg (· ++ more) hbox)
    rw [State.checked_outbox] at hmore
    refine ⟨t, ht, hi, hdir, hcore, ⟨more, hmore⟩, g.reports _ ?_⟩
    rw [hrep]
    exact List.mem_append_right _ (List.mem_singleton.2 rfl)

end Sys2Proof.Machine
end

section
/-! PROOF. A request decided on its record, a probe round begun on it (R27, R34, R69), and O29: the lookup after a hand-on. -/

namespace Sys2Proof.Machine

/-! ### A record bound to an entry, a way at the front (R6, R9) -/

theorem State.recordAt_bind {s : State} (h : s.dir.wf = true) (k : SetIdx) (w v : Way) (e : EntryIdx) :
    (s.bind k w e).recordAt k v = s.recordAt k v := by
  refine (State.recordAt_updSet_same s k (fun d => d.setBound w (some e)) v h).trans ?_
  unfold State.recordAt DirSet.record
  rw [DirSet.slot_setBound]
  split
  · next hv => rw [hv]
  · rfl

theorem State.bound_bind {s : State} (h : s.dir.wf = true) (k : SetIdx) (w : Way) (e : EntryIdx) :
    (((s.bind k w e).dirSet k).slot w).bound = some e := by
  refine (congrArg Slot.bound (State.slot_updSet_same s k (fun d => d.setBound w (some e)) w h)).trans ?_
  rw [DirSet.slot_setBound, if_pos rfl]

theorem State.entry_bind (s : State) (k : SetIdx) (w : Way) (e i : EntryIdx) :
    (s.bind k w e).entry i = if i = e then { s.entry e with way := some w } else s.entry i :=
  State.entry_updEntry _ e i fun x => { x with way := some w }

theorem State.recordAt_toFront {s : State} (h : s.dir.wf = true) (k : SetIdx) (w v : Way) :
    (s.updSet k fun d => d.toFront w).recordAt k v = s.recordAt k v := State.recordAt_updSet_same s k _ v h

/-! ### A grant on the record at way `w` (R34) -/

/-- What a grant on the record at way `w` of set `k` leaves. -/
structure GrantsAt (k : SetIdx) (w : Way) (e : EntryIdx) (r : Request) (g : Grant) (s t : State) : Prop where
  record : s.dir.wf = true → t.recordAt k w = some g.record
  integ : t.integ = s.integ
  reports : ∀ x ∈ s.reports, x ∈ t.reports
  other : ∀ i, i ≠ e → t.entry i = s.entry i
  phase : (t.entry e).phase = .awaitDone
  sent : (t.entry e).grantSent = some g.kind
  outbox : s.member r.port = true →
    t.outbox = s.outbox ++ [⟨r.port, .grant r.tag r.line (s.txn e) g.kind g.reread g.record.poison⟩]

/-- The record written, its way to the front, and bound to the entry. -/
def State.written (s : State) (k : SetIdx) (w : Way) (e : EntryIdx) (r : Record) : State :=
  ((s.writeRec k w r).updSet k fun d => d.toFront w).bind k w e

theorem State.entry_written (s : State) (k : SetIdx) (w : Way) (e i : EntryIdx) (r : Record) :
    (s.written k w e r).entry i = if i = e then { s.entry e with way := some w } else s.entry i :=
  State.entry_updEntry _ e i fun x => { x with way := some w }

theorem State.recordAt_written {s : State} (h : s.dir.wf = true) (k : SetIdx) (w : Way) (e : EntryIdx) (r : Record) :
    (s.written k w e r).recordAt k w = some r := by
  have h1 : (s.writeRec k w r).dir.wf = true := State.wf_updSet s k _ h
  have h2 := State.wf_updSet (s.writeRec k w r) k (fun d => d.toFront w) h1
  unfold State.written
  rw [State.recordAt_bind h2, State.recordAt_toFront h1, State.recordAt_writeRec h]

/-- Everything but the reports. -/
def State.offReports (s : State) : State := { s with reports := [] }

theorem State.offReports_grantReports (s : State) (k : SetIdx) (w : Way) (e : EntryIdx) (r : Request) (g : Grant) :
    (s.grantReports k w e r g).offReports = s.offReports
      ∧ ∀ x ∈ s.reports, x ∈ (s.grantReports k w e r g).reports := by
  unfold State.grantReports
  dsimp only
  split <;> split
  · exact ⟨rfl, fun x hx => List.mem_append_left _ (List.mem_append_left _ hx)⟩
  · exact ⟨rfl, fun x hx => List.mem_append_left _ hx⟩
  · exact ⟨rfl, fun x hx => List.mem_append_left _ hx⟩
  · exact ⟨rfl, fun x hx => hx⟩

/-- A field that the reports do not touch. -/
theorem State.of_offReports {α : Type} (f : State → α) (hf : ∀ z : State, f z.offReports = f z) {s t : State}
    (h : t.offReports = s.offReports) : f t = f s := by rw [← hf t, h, hf s]

theorem GrantsAt.grantInPlace {s : State} {r : Request} (hf : s.fenced r.port = false) (k : SetIdx) (w : Way)
    (e : EntryIdx) (g : Grant) : GrantsAt k w e r g s (s.grantInPlace k w e r g) := by
  have hentry (i : EntryIdx) := s.entry_written k w e i g.record
  have hrecord (h : s.dir.wf = true) := State.recordAt_written h k w e g.record
  have hinteg : (s.written k w e g.record).integ = s.integ := rfl
  have hreports : (s.written k w e g.record).reports = s.reports := rfl
  have houtbox : (s.written k w e g.record).outbox = s.outbox := rfl
  have hports : (s.written k w e g.record).ports = s.ports := rfl
  obtain ⟨hoff, hkeep⟩ := (s.written k w e g.record).offReports_grantReports k w e r g
  show GrantsAt k w e r g s (((s.written k w e g.record).grantReports k w e r g).finishGrant k e r g)
  generalize s.written k w e g.record = a at *
  generalize a.grantReports k w e r g = b at *
  have of {α : Type} (f : State → α) (hf : ∀ z : State, f z.offReports = f z) : f b = f a := State.of_offReports f hf hoff
  have hport (p : Agent) : b.port p = s.port p := by
    unfold State.port
    rw [of State.ports fun _ => rfl, hports]
  have hbentry (i : EntryIdx) : b.entry i = a.entry i := of (fun z => z.entry i) fun _ => rfl
  have hfenced : b.fenced r.port = false := by
    unfold State.fenced at hf ⊢
    rw [hport]
    exact hf
  have q := Granted.finishGrant hfenced k e g
  refine ⟨fun h => ?_, ?_, fun x hx => ?_, fun i hi => ?_, q.phase, q.sent, fun hm => ?_⟩
  · rw [State.recordAt_congr q.dir, ← hrecord h]
    exact of (fun z => z.recordAt k w) fun _ => rfl
  · rw [q.integ, of State.integ fun _ => rfl, hinteg]
  · rw [q.reports]
    exact hkeep x (hreports ▸ hx)
  · rw [q.other i hi, hbentry, hentry, if_neg hi]
  · have htxn : b.txn e = s.txn e := by
      unfold State.txn
      rw [hbentry, hentry, if_pos rfl]
    have hmem : b.member r.port = true := by
      unfold State.member at hm ⊢
      rw [hport]
      exact hm
    rw [q.outbox hmem, htxn, of State.outbox fun _ => rfl, houtbox]

theorem State.resolve_present {s : State} {r : Request} {w : Way} {old : Record} (hw : s.findLine r.line = some w)
    (hr : s.recordAt (setOf r.line) w = some old) (e : EntryIdx) (freed : Option Way) (again : Bool) :
    s.resolve e r freed again =
      s.grantInPlace (setOf r.line) w e r (grantOn r.kind r.port r.fullWrite old (s.entry e)) := by
  unfold State.recordAt at hr
  unfold State.resolve
  rw [hw]
  dsimp only
  rw [hr]

/-! ### A probe round begun on the record at way `w` (R6, R69) -/

/-- What the start of a round of entry `e` on the record at way `w` of set `k` leaves; `keep` is the entry's keep agent. -/
structure Probing (k : SetIdx) (w : Way) (e : EntryIdx) (kind : ProbeKind) (set : AgentSet) (repair : Bool)
    (s t : State) : Prop where
  record : s.dir.wf = true → ∀ v, t.recordAt k v = s.recordAt k v
  bound : s.dir.wf = true → ((t.dirSet k).slot w).bound = some e
  integ : t.integ = s.integ
  other : ∀ i, i ≠ e → (t.entry i).core = (s.entry i).core
  phase : (t.entry e).phase = .probing
  probeKind : (t.entry e).probeKind = some kind
  repairRound : (t.entry e).repairRound = repair
  kind : (t.entry e).kind = (s.entry e).kind
  line : (t.entry e).line = (s.entry e).line
  way : (t.entry e).way = some w
  keep : (s.entry e).keep = none → (t.entry e).keep = none
  pending : ∀ a : Agent, has (t.entry e).pendingSet a = (has set a && s.member a)
  answers : ∀ a : Agent, (t.entry e).answers.get a = if has set a ∧ s.member a = false then some .fenceGone else none

/-- A round of entry `e`, its record bound to it and its keep agent written, or left. -/
theorem Probing.of_rounds {k : SetIdx} {w : Way} {e : EntryIdx} {kind : ProbeKind} {set : AgentSet} {repair : Bool}
    {s b t : State} (hdir : b.dir = (s.bind k w e).dir) (hinteg : b.integ = s.integ) (hport : ∀ p, b.member p = s.member p)
    (hother : ∀ i, i ≠ e → b.entry i = s.entry i) (hself : { b.entry e with keep := (s.entry e).keep } =
      { s.entry e with way := some w }) (hkeep : (s.entry e).keep = none → (b.entry e).keep = none)
    (g : Rounds e kind set repair b t) : Probing k w e kind set repair s t := by
  have of {α : Type} (f : Entry → α) (hf : ∀ z : Entry, f z.unprobed = f z) :
      f (t.entry e) = f ((b.entry e).roundBegun kind repair) := by
    rw [← hf (t.entry e), g.self, ← hf ((b.entry e).roundBegun kind repair)]
  have from_s {α : Type} (f : Entry → α) (hf : ∀ z : Entry, f { z with keep := (s.entry e).keep } = f z) :
      f (b.entry e) = f { s.entry e with way := some w } := by
    rw [← hf (b.entry e), hself]
  have hd := g.dir.trans hdir
  refine ⟨fun h v => ?_, fun h => ?_, (congrArg Prod.fst g.off).trans hinteg,
    fun i hi => congrArg Entry.core ((g.other i hi).trans (hother i hi)), of Entry.phase fun _ => rfl,
    of Entry.probeKind fun _ => rfl, of Entry.repairRound fun _ => rfl,
    (of Entry.kind fun _ => rfl).trans (from_s Entry.kind fun _ => rfl),
    (of Entry.line fun _ => rfl).trans (from_s Entry.line fun _ => rfl),
    (of Entry.way fun _ => rfl).trans (from_s Entry.way fun _ => rfl),
    fun h => (of Entry.keep fun _ => rfl).trans (hkeep h), fun a => ?_, fun a => ?_⟩
  · rw [State.recordAt_congr hd, State.recordAt_bind h]
  · rw [State.dirSet_congr hd, State.bound_bind h]
  · rw [g.pending, hport]
  · rw [g.answers, hport]

theorem Probing.startRound (s : State) (k : SetIdx) (w : Way) (e : EntryIdx) (kind : ProbeKind) (set : AgentSet) :
    Probing k w e kind set false s ((s.bind k w e).startRound e kind set false) := by
  refine .of_rounds rfl rfl (fun _ => rfl) (fun i hi => ?_) ?_ (fun h => ?_) (.startRound _ e kind set false)
  · rw [State.entry_bind, if_neg hi]
  · rw [State.entry_bind, if_pos rfl]
  · rw [State.entry_bind, if_pos rfl]
    exact h

theorem Probing.startRepair (s : State) (k : SetIdx) (w : Way) (e : EntryIdx) :
    Probing k w e .invalidate s.memberSet true s ((s.bind k w e).startRepair e none) := by
  refine .of_rounds (b := (s.bind k w e).updEntry e fun x => { x with keep := none }) rfl rfl (fun _ => rfl)
    (fun i hi => ?_) ?_ (fun _ => ?_) (.startRepair (s.bind k w e) e none)
  · rw [State.entry_updEntry_ne _ _ hi, State.entry_bind, if_neg hi]
  · rw [State.entry_updEntry_same, State.entry_bind, if_pos rfl]
  · rw [State.entry_updEntry_same]

theorem Probing.concludes {k : SetIdx} {w : Way} {e : EntryIdx} {kind : ProbeKind} {set : AgentSet} {repair : Bool}
    {s u t : State} (h : Probing k w e kind set repair s u) (g : Concludes u t) : Probing k w e kind set repair s t := by
  have of {α : Type} (f : Entry → α) (hf : ∀ z : Entry, f z.core = f z) : f (t.entry e) = f (u.entry e) :=
    Entry.of_core f hf (g.entry e)
  refine ⟨fun hwf v => ?_, fun hwf => ?_, g.integ.trans h.integ, fun i hi => (g.entry i).trans (h.other i hi),
    (of Entry.phase fun _ => rfl).trans h.phase, (of Entry.probeKind fun _ => rfl).trans h.probeKind,
    (of Entry.repairRound fun _ => rfl).trans h.repairRound, (of Entry.kind fun _ => rfl).trans h.kind,
    (of Entry.line fun _ => rfl).trans h.line, (of Entry.way fun _ => rfl).trans h.way,
    fun hk => (of Entry.keep fun _ => rfl).trans (h.keep hk), fun a => ?_, fun a => ?_⟩
  · rw [State.recordAt_congr g.dir, h.record hwf]
  · rw [State.dirSet_congr g.dir, h.bound hwf]
  · rw [of Entry.pendingSet fun _ => rfl, h.pending]
  · rw [of Entry.answers fun _ => rfl, h.answers]

end Sys2Proof.Machine
end

section
/-! PROOF. O29: the lookup after a hand-on (R53, R57, R100). -/

namespace Sys2Proof.Machine

/-! ### The close of an entry on a record bound to it -/

theorem State.integ_freeRec (s : State) (k : SetIdx) (w : Way) : (s.freeRec k w).integ = s.integ := by
  unfold State.freeRec
  dsimp only
  split <;> rfl

theorem State.integ_closeFilter (s : State) (k : SetIdx) (e : EntryIdx) : (s.closeFilter k e).integ = s.integ := by
  unfold State.closeFilter
  split
  · split
    · unfold State.filterRecord
      split
      · dsimp only
        split
        · unfold State.freeOrPoison
          split
          · rfl
          · exact State.integ_freeRec _ _ _
        · rfl
      · split
        · split <;> rfl
        · rfl
      · rfl
      · rfl
    · rfl
  · rfl

/-- What the state at the end of an access has of the close of an entry whose record, if its line has one, is bound to it. -/
structure Leaves (e : EntryIdx) (s t : State) : Prop where
  freed : (s.entry e).waiters = [] → (t.entry e).core = (Entry.freeOf (s.entry e).gen).core
  other : ∀ i, i ≠ e → (t.entry i).core = (s.entry i).core

theorem Leaves.concludes {s t : State} {k : SetIdx} {e : EntryIdx}
    (hb : ∀ w, (s.dirSet k).findTag (tagOf (s.lineOfEntry e)) = some w → (s.slot k w).bound = some e)
    (g : Concludes (s.closeEntry k e) t) : Leaves e s t := by
  have c := Closes.closeEntry s k e
  refine ⟨fun h => ?_, fun i hi => ?_⟩
  · have hf : ((s.closeFilter k e).entry e).waiters = [] ∧ ((s.closeFilter k e).entry e).gen = (s.entry e).gen := by
      rcases s.entry_closeFilter k e e with he | ⟨he, -⟩
      · rw [he]
        exact ⟨h, rfl⟩
      · rw [he]
        exact ⟨h, rfl⟩
    rw [g.entry, c.freed hf.1, hf.2]
  · rw [g.entry, c.other i hi]
    rcases s.entry_closeFilter k e i with he | ⟨-, w, hw, hwi⟩
    · rw [he]
    · exact absurd (Option.some.inj ((hb w hw).symm.trans hwi)).symm hi

theorem State.integ_closeEntry_any (s : State) (k : SetIdx) (e : EntryIdx) : (s.closeEntry k e).integ = s.integ :=
  (congrArg Prod.fst (Closes.closeEntry s k e).off).trans (s.integ_closeFilter k e)

/-! ### A handed-on request -/

theorem handedOnOutcome_fenced {a : Access} {e : EntryIdx} {k : SetIdx} (hk : (a.s.entry e).kind = some .request)
    (hf : a.s.requesterFenced e = true) (hl : setOf (a.s.lineOfEntry e) = k) :
    handedOnOutcome e a = a.s.closeEntry k e := by
  unfold handedOnOutcome
  rw [if_neg (by rw [hk]; simp), if_pos hf, hl]

theorem handedOnOutcome_request {a : Access} {e : EntryIdx} {r : Request} (hk : (a.s.entry e).kind = some .request)
    (hr : a.s.requestOf e = some r) (hf : a.s.fenced r.port = false) :
    handedOnOutcome e a = a.s.decideRequest e r false := by
  unfold handedOnOutcome
  rw [if_neg (by rw [hk]; simp), State.requesterFenced_of_requestOf hr, hf, if_neg Bool.false_ne_true, hr]

/-- A request decided on its record: a round of probes or of repair, or the grant. -/
theorem State.decideRequest_present {s : State} {r : Request} {w : Way} {old : Record}
    (hw : s.findLine r.line = some w) (hr : s.recordAt (setOf r.line) w = some old) (e : EntryIdx) (again : Bool) :
    s.decideRequest e r again =
      if old.state = .damaged then (s.bind (setOf r.line) w e).startRepair e none
      else match probesNeeded r.kind r.port old with
        | some (kind, set) => (s.bind (setOf r.line) w e).startRound e kind set false
        | none => s.grantInPlace (setOf r.line) w e r (grantOn r.kind r.port r.fullWrite old (s.entry e)) := by
  have hres := State.resolve_present hw hr e none again
  unfold State.recordAt at hr
  unfold State.decideRequest
  rw [hw]
  dsimp only
  rw [hr, hres] <;> rfl

/-! ### A handed-on RECALL_LINE -/

theorem handedOnOutcome_service {a : Access} {e : EntryIdx} (hk : (a.s.entry e).kind = some .service) :
    handedOnOutcome e a = a.s.handedRecall e := by
  unfold handedOnOutcome
  rw [if_pos hk]

theorem State.handedRecall_absent {s : State} {e : EntryIdx} {l : Line} (hl : s.lineOfEntry e = l)
    (h : s.findLine l = none) : s.handedRecall e = s.closeRecall e .absent := by
  unfold State.handedRecall
  rw [hl, h]

theorem State.handedRecall_present {s : State} {e : EntryIdx} {l : Line} {w : Way} {old : Record}
    (hl : s.lineOfEntry e = l) (hw : s.findLine l = some w) (hr : s.recordAt (setOf l) w = some old) :
    s.handedRecall e = s.serveRecall e w old := by
  unfold State.recordAt at hr
  unfold State.handedRecall
  rw [hl, hw]
  dsimp only
  rw [hr]

theorem State.serveRecall_eq {s : State} {e : EntryIdx} {k : SetIdx} (hk : setOf (s.lineOfEntry e) = k) (w : Way)
    (old : Record) : s.serveRecall e w old =
      if old.state = .poisoned then s.closeRecall e .noHolders
      else if old.state = .damaged then (s.bind k w e).startRepair e none
      else (s.bind k w e).startRound e .invalidate old.holders false := by
  unfold State.serveRecall
  rw [hk]
  cases old.state <;> rfl

/-- What the state at the end of an access has of a RECALL_LINE that completed in it, its record left as it was. -/
structure Recalled (k : SetIdx) (e : EntryIdx) (o : ResultOutcome) (s t : State) : Prop where
  ends : Ends k e s t
  done : (s.entry e).waiters = [] → t.svc.status = .done
  result : (s.entry e).waiters = [] → t.svc.result =
    { Result.clear with outcome := o, txn := some (s.txn e), answers := (s.entry e).answers }

theorem Recalled.concludes {s t : State} {k : SetIdx} {e : EntryIdx} {o : ResultOutcome}
    (hk : setOf (s.lineOfEntry e) = k) (hc : (s.completeRecall e o).closeFilter k e = s.completeRecall e o)
    (g : Concludes (s.closeRecall e o) t) : Recalled k e o s t := by
  have heq : s.closeRecall e o = (s.completeRecall e o).closeEntry k e := by
    unfold State.closeRecall
    rw [hk]
  rw [heq] at g
  have q := Ends.concludes hc g
  have hsvc (h : (s.entry e).waiters = []) : t.svc = (s.completeRecall e o).svc := by
    have c := Closes.closeEntry (s.completeRecall e o) k e
    rw [hc] at c
    have hs : ((s.completeRecall e o).closeEntry k e).svc = (s.completeRecall e o).svc := c.svc h (show Waiting.nowhere ≠ .freeEntry by decide)
    rw [g.svc (by rw [hs]; exact (nofun : CmdStatus.done ≠ .busy)), hs]
  refine ⟨⟨q.record, q.reservation, q.freed, q.other⟩, fun h => ?_, fun h => ?_⟩
  · rw [hsvc h]
    rfl
  · rw [hsvc h]
    rfl

/-! ### What the access on the line of an entry finds -/

theorem State.onLine.unique {s : State} {l : Line} {w v : Way} {r q : Record} (h : s.onLine l v q)
    (hw : s.findLine l = some w) (hr : s.recordAt (setOf l) w = some r) : v = w ∧ q = r := by
  obtain ⟨hv, hq, -⟩ := h
  obtain rfl : w = v := Option.some.inj (hw.symm.trans hv)
  exact ⟨rfl, Option.some.inj (hq.symm.trans hr)⟩

theorem State.onLine.present {s : State} {l : Line} {v : Way} {q : Record} (h : s.onLine l v q) :
    s.findLine l ≠ none := by
  rw [h.1]
  exact Option.some_ne_none v

theorem State.checked_memberSet (s : State) (k : SetIdx) (f : List CellFault) :
    (s.checked k f).memberSet = s.memberSet := by
  unfold State.memberSet
  rw [funext (s.checked_member k f)]

/-- What a round begun on the record that the checks left has of the state before the access. -/
structure Begun (s : State) (k : SetIdx) (f : List CellFault) (w : Way) (e : EntryIdx) (kind : ProbeKind) (set : AgentSet)
    (repair : Bool) (t : State) : Prop where
  record : s.lawful → ∀ v, t.recordAt k v = (s.checked k f).recordAt k v
  bound : s.lawful → ((t.dirSet k).slot w).bound = some e
  other : ∀ i, i ≠ e → (t.entry i).core = (s.entry i).core
  phase : (t.entry e).phase = .probing
  probeKind : (t.entry e).probeKind = some kind
  repairRound : (t.entry e).repairRound = repair
  pending : ∀ a : Agent, has (t.entry e).pendingSet a = (has set a && s.member a)
  answers : ∀ a : Agent, (t.entry e).answers.get a = if has set a ∧ s.member a = false then some .fenceGone else none

theorem Probing.begun {s t : State} {k : SetIdx} {f : List CellFault} {w : Way} {e : EntryIdx} {kind : ProbeKind}
    {set : AgentSet} {repair : Bool} (h : Probing k w e kind set repair (s.checked k f) t) :
    Begun s k f w e kind set repair t := by
  refine ⟨fun hl => h.record (State.checked_lawful hl k f).1, fun hl => h.bound (State.checked_lawful hl k f).1,
    fun i hi => ?_, h.phase, h.probeKind, h.repairRound, fun a => ?_, fun a => ?_⟩
  · rw [h.other i hi, State.checked_entry]
  · rw [h.pending, State.checked_member]
  · rw [h.answers, State.checked_member]

/-- Settles O29, case by case: the round, the grant or the close of a request on its record; the allocation or the park of
one on an absent line; the round or the end of a RECALL_LINE. -/
theorem handedOnRequestIsDecided : Obligations.HandedOnRequestIsDecided := by
  refine ⟨fun s f e r w old hd hl hu hr hk hon hb => ?_, fun s f e r hd hl hu hr hk ha hf => ?_,
    fun s f e hd hl hu hk => ?_⟩
  · have hline : s.lineOfEntry e = r.line := State.lineOfEntry_of_requestOf hr
    have hset : setOf (s.lineOfEntry e) = setOf r.line := by rw [hline]
    have hwf := (State.checked_lawful hl (setOf r.line) f).1
    have hentry (i : EntryIdx) := s.checked_entry (setOf r.line) f i
    have hkc : ((s.checked (setOf r.line) f).entry e).kind = some .request := by rw [hentry]; exact hk
    have hrc := (s.checked_requestOf (setOf r.line) f e).trans hr
    have hexec {u : State} := State.exec_undisturbed (s := s) (d := .handedOn e) (k := setOf r.line) (f := f) (u := u)
      rfl hd rfl hset hu
    cases hf : s.fenced r.port with
    | true =>
      obtain ⟨t, ht, g⟩ := hexec (handedOnOutcome_fenced (k := setOf r.line) hkc
        ((State.requesterFenced_of_requestOf hrc).trans ((s.checked_fenced _ f _).trans hf))
        (by rw [← hset]; exact congrArg setOf (s.checked_lineOfEntry _ f e))) (State.integ_closeEntry_any _ _ e)
      have q := Leaves.concludes (fun v hv => hb v (by rw [State.checked_lineOfEntry, hline] at hv; exact hv)) g
      refine ⟨t, ht, fun hm => ?_, fun _ _ hn => (by cases hn), fun _ hn => ?_, fun i hi => ?_⟩
      · exact absurd (State.not_fenced_of_member hm) (by rw [hf]; exact Bool.noConfusion)
      · rw [q.freed (by rw [hentry]; exact hn), hentry]
      · rw [q.other i hi, hentry]
    | false =>
      have hfc := (s.checked_fenced (setOf r.line) f r.port).trans hf
      have hout := (handedOnOutcome_request (a := s.takeClaim.beginAccess (setOf r.line) f) hkc hrc hfc).trans
        (State.decideRequest_present hon.1 hon.2.1 e false)
      by_cases hdam : old.state = .damaged
      · rw [if_pos hdam] at hout
        have p := Probing.startRepair (s.checked (setOf r.line) f) (setOf r.line) w e
        obtain ⟨t, ht, g⟩ := hexec hout p.integ
        have q := (p.concludes g).begun
        rw [State.checked_memberSet] at q
        refine ⟨t, ht, fun _ hn => absurd hdam hn, fun kind set _ hc => ?_, fun hn => (by cases hn), q.other⟩
        rcases hc with ⟨-, rfl, rfl⟩ | ⟨hn, -⟩
        · exact ⟨q.phase, q.probeKind, by rw [q.repairRound, decide_eq_true hdam], fun a => ⟨q.pending a, q.answers a⟩,
            q.record hl⟩
        · exact absurd hdam hn
      · rw [if_neg hdam] at hout
        cases hp : probesNeeded r.kind r.port old with
        | some x =>
          obtain ⟨kind0, set0⟩ := x
          rw [hp] at hout
          have p := Probing.startRound (s.checked (setOf r.line) f) (setOf r.line) w e kind0 set0
          obtain ⟨t, ht, g⟩ := hexec hout p.integ
          have q := (p.concludes g).begun
          refine ⟨t, ht, fun _ _ hn => (by cases hn), fun kind set _ hc => ?_, fun hn => (by cases hn), q.other⟩
          rcases hc with ⟨hn, -⟩ | ⟨-, hs⟩
          · exact absurd hn hdam
          · cases hs
            exact ⟨q.phase, q.probeKind, by rw [q.repairRound, decide_eq_false hdam],
              fun a => ⟨q.pending a, q.answers a⟩, q.record hl⟩
        | none =>
          rw [hp, hentry] at hout
          have p := GrantsAt.grantInPlace hfc (setOf r.line) w e (grantOn r.kind r.port r.fullWrite old (s.entry e))
          obtain ⟨t, ht, g⟩ := hexec (u := State.grantInPlace _ _ _ _ _ _) hout p.integ
          obtain ⟨more, hmore⟩ := g.outbox
          refine ⟨t, ht, fun hm _ _ => ⟨?_, ?_, ?_, more, ?_⟩, fun kind set _ hc => ?_, fun hn => (by cases hn),
            fun i hi => ?_⟩
          · rw [State.recordAt_congr g.dir]
            exact p.record hwf
          · exact (Entry.of_core Entry.phase (fun _ => rfl) (g.entry e)).trans p.phase
          · exact (Entry.of_core Entry.grantSent (fun _ => rfl) (g.entry e)).trans p.sent
          · rw [hmore, p.outbox ((s.checked_member _ f _).trans hm), State.checked_outbox, State.checked_txn]
            rfl
          · rcases hc with ⟨hn, -⟩ | ⟨-, hs⟩
            · exact absurd hn hdam
            · cases hs
          · rw [g.entry i, p.other i hi, hentry]
  · have hset : setOf (s.lineOfEntry e) = setOf r.line := by rw [State.lineOfEntry_of_requestOf hr]
    have hwf := (State.checked_lawful hl (setOf r.line) f).1
    have hentry (i : EntryIdx) := s.checked_entry (setOf r.line) f i
    have hfc := (s.checked_fenced (setOf r.line) f r.port).trans hf
    have hout := (handedOnOutcome_request (a := s.takeClaim.beginAccess (setOf r.line) f)
      (by rw [← hk]; exact congrArg Entry.kind (hentry e)) ((s.checked_requestOf _ f e).trans hr) hfc).trans
      (State.decideRequest_absent ha e false)
    have hexec {u : State} := State.exec_undisturbed (s := s) (d := .handedOn e) (k := setOf r.line) (f := f) (u := u)
      rfl hd rfl hset hu
    cases hw : ((s.checked (setOf r.line) f).dirSet (setOf r.line)).allocWay e none with
    | some w =>
      have p : GrantsNew (setOf r.line) w e r (s.checked (setOf r.line) f) _ := .grantAbsent hfc hw false
      obtain ⟨t, ht, g⟩ := hexec hout p.integ
      have q := p.slotTaken hwf g
      refine ⟨t, ht, fun i hi => ?_, fun v hv => ?_, fun hn => (nomatch hw.symm.trans hn)⟩
      · rw [p.others g i hi, hentry]
      · obtain rfl : w = v := Option.some.inj (hw.symm.trans hv)
        refine ⟨q.record, by rw [q.slot], by rw [q.slot], q.recency, q.phase, q.way, q.sent, fun hm => ?_⟩
        obtain ⟨more, hmore⟩ := p.granted g ((s.checked_member _ f _).trans hm)
        rw [State.checked_outbox, State.checked_txn] at hmore
        exact ⟨more, hmore⟩
    | none =>
      obtain ⟨t, ht, g⟩ := hexec (hout.trans (State.grantAbsent_park hw r false)) rfl
      have q := Parks.concludes g
      obtain ⟨starts, hq⟩ := q.queue
      rw [(SameOutside.checked s _ f).recallUnit] at hq
      refine ⟨t, ht, fun i hi => ?_, fun v hv => (nomatch hw.symm.trans hv), fun _ => ⟨q.phase, q.way, q.dir, starts, ?_⟩⟩
      · rw [q.other i hi]
        exact congrArg Entry.core (hentry i)
      · rw [hq, List.append_assoc]
        rfl
  · have hwf := (State.checked_lawful hl (setOf (s.lineOfEntry e)) f).1
    have hentry (i : EntryIdx) := s.checked_entry (setOf (s.lineOfEntry e)) f i
    have hline := s.checked_lineOfEntry (setOf (s.lineOfEntry e)) f e
    have htxn := s.checked_txn (setOf (s.lineOfEntry e)) f e
    have hkc : ((s.checked (setOf (s.lineOfEntry e)) f).entry e).kind = some .service := by rw [hentry]; exact hk
    have hexec {u : State} := State.exec_undisturbed (s := s) (d := .handedOn e) (k := setOf (s.lineOfEntry e)) (f := f)
      (u := u) rfl hd rfl rfl hu
    have hout : handedOnOutcome e (s.takeClaim.beginAccess (setOf (s.lineOfEntry e)) f)
        = (s.checked (setOf (s.lineOfEntry e)) f).handedRecall e := handedOnOutcome_service hkc
    have recalled {o : ResultOutcome} {t : State} (q : Recalled (setOf (s.lineOfEntry e)) e o
        (s.checked (setOf (s.lineOfEntry e)) f) t) (hn : (s.entry e).waiters = []) :
        (t.entry e).core = (Entry.freeOf (s.entry e).gen).core ∧ t.svc.status = .done ∧ t.svc.result
          = { Result.clear with outcome := o, txn := some (s.txn e), answers := (s.entry e).answers } := by
      have hnc : ((s.checked (setOf (s.lineOfEntry e)) f).entry e).waiters = [] := by rw [hentry]; exact hn
      refine ⟨by rw [q.ends.freed hnc, hentry], q.done hnc, ?_⟩
      rw [q.result hnc, htxn, hentry]
    have others {o : ResultOutcome} {t : State} (q : Recalled (setOf (s.lineOfEntry e)) e o
        (s.checked (setOf (s.lineOfEntry e)) f) t) (i : EntryIdx) (hi : i ≠ e) : (t.entry i).core = (s.entry i).core := by
      rw [q.ends.other i hi, hentry]
    cases hw : (s.checked (setOf (s.lineOfEntry e)) f).findLine (s.lineOfEntry e) with
    | none =>
      have htag : ((s.checked (setOf (s.lineOfEntry e)) f).dirSet (setOf (s.lineOfEntry e))).findTag
          (tagOf ((s.checked (setOf (s.lineOfEntry e)) f).lineOfEntry e)) = none := by rw [hline]; exact hw
      have hc : ((s.checked (setOf (s.lineOfEntry e)) f).completeRecall e .absent).closeFilter (setOf (s.lineOfEntry e)) e
          = (s.checked (setOf (s.lineOfEntry e)) f).completeRecall e .absent :=
        State.closeFilter_absent (s := (s.checked (setOf (s.lineOfEntry e)) f).completeRecall e .absent) htag
      obtain ⟨t, ht, g⟩ := hexec (hout.trans (State.handedRecall_absent hline hw)) (State.integ_closeEntry_any _ _ e)
      have q := Recalled.concludes (congrArg setOf hline) hc g
      exact ⟨t, ht, fun _ => others q, q.ends.record hwf, fun v old hon => absurd hw hon.present,
        fun v old hon => absurd hw hon.present, fun _ => recalled q⟩
    | some w =>
      obtain ⟨old, hold, -⟩ := State.findLine_some hw
      have htag : ((s.checked (setOf (s.lineOfEntry e)) f).dirSet (setOf (s.lineOfEntry e))).findTag
          (tagOf ((s.checked (setOf (s.lineOfEntry e)) f).lineOfEntry e)) = some w := by rw [hline]; exact hw
      replace hout := (hout.trans (State.handedRecall_present hline hw hold)).trans
        (State.serveRecall_eq (congrArg setOf hline) w old)
      by_cases hp : old.state = .poisoned
      · rw [if_pos hp] at hout
        have hc : ((s.checked (setOf (s.lineOfEntry e)) f).completeRecall e .noHolders).closeFilter (setOf (s.lineOfEntry e)) e
            = (s.checked (setOf (s.lineOfEntry e)) f).completeRecall e .noHolders :=
          State.closeFilter_poisoned (s := (s.checked (setOf (s.lineOfEntry e)) f).completeRecall e .noHolders) htag hold hp
        obtain ⟨t, ht, g⟩ := hexec hout (State.integ_closeEntry_any _ _ e)
        have q := Recalled.concludes (congrArg setOf hline) hc g
        refine ⟨t, ht, fun _ => others q, q.ends.record hwf, fun v r hon hn => ?_, fun _ _ _ _ => recalled q,
          fun hn => (nomatch hw.symm.trans hn)⟩
        obtain ⟨-, rfl⟩ := hon.unique hw hold
        exact absurd hp hn
      · rw [if_neg hp] at hout
        by_cases hdam : old.state = .damaged
        · rw [if_pos hdam] at hout
          have p := Probing.startRepair (s.checked (setOf (s.lineOfEntry e)) f) (setOf (s.lineOfEntry e)) w e
          obtain ⟨t, ht, g⟩ := hexec hout p.integ
          have q := (p.concludes g).begun
          refine ⟨t, ht, fun _ => q.other, q.record hl, fun v r hon _ => ?_, fun v r hon hn => ?_, fun hn => (nomatch hw.symm.trans hn)⟩
          · obtain ⟨rfl, rfl⟩ := hon.unique hw hold
            refine ⟨q.phase, q.probeKind, by rw [q.repairRound, decide_eq_true hdam], q.bound hl, fun a => ?_⟩
            rw [q.pending, State.checked_memberSet, State.has_memberSet, decide_eq_true hdam, Bool.true_or, Bool.and_self,
              Bool.and_true]
          · obtain ⟨-, rfl⟩ := hon.unique hw hold
            exact absurd hn hp
        · rw [if_neg hdam] at hout
          have p := Probing.startRound (s.checked (setOf (s.lineOfEntry e)) f) (setOf (s.lineOfEntry e)) w e .invalidate
            old.holders
          obtain ⟨t, ht, g⟩ := hexec hout p.integ
          have q := (p.concludes g).begun
          refine ⟨t, ht, fun _ => q.other, q.record hl, fun v r hon _ => ?_, fun v r hon hn => ?_, fun hn => (nomatch hw.symm.trans hn)⟩
          · obtain ⟨rfl, rfl⟩ := hon.unique hw hold
            refine ⟨q.phase, q.probeKind, by rw [q.repairRound, decide_eq_false hdam], q.bound hl, fun a => ?_⟩
            rw [q.pending, decide_eq_false hdam, Bool.false_or, Bool.and_comm]
          · obtain ⟨-, rfl⟩ := hon.unique hw hold
            exact absurd hn hp

end Sys2Proof.Machine
end

section
/-! PROOF. O37: the repair of a request's record, and the grant in the same access (R14, R27, R140). -/

namespace Sys2Proof.Machine

/-! ### The damage mark ends (R134) -/

/-- The state in which a repair of entry `e` on the record at way `w` of set `k` resolves: its pending access taken, the
damage mark of the slot ended. -/
def State.mended (s : State) (k : SetIdx) (w : Way) (e : EntryIdx) : State := (s.dropAccess e).endDamage k w

/-- What the end of a damage mark leaves. -/
structure Mends (k : SetIdx) (w : Way) (s t : State) : Prop where
  entry : ∀ i, t.entry i = s.entry i
  ports : t.ports = s.ports
  outbox : t.outbox = s.outbox
  reports : t.reports = s.reports
  retireList : t.integ.retireList = s.integ.retireList
  wf : s.dir.wf = true → t.dir.wf = true
  record : s.dir.wf = true → ∀ v, t.recordAt k v = s.recordAt k v
  slot : s.dir.wf = true → ∀ v, v ≠ w → (t.dirSet k).slot v = (s.dirSet k).slot v

theorem Mends.endDamage (s : State) (k : SetIdx) (w : Way) : Mends k w s (s.endDamage k w) := by
  unfold State.endDamage
  dsimp only
  split
  · have hslot (h : s.dir.wf = true) (v : Way) : (s.setSlot k w { s.slot k w with damageMark := false }).slot k v
        = if v = w then { s.slot k w with damageMark := false } else s.slot k v :=
      (State.slot_updSet_same s k (fun d => d.setSlot w _) v h).trans (DirSet.slot_setSlot _ _ _ _)
    refine ⟨fun _ => rfl, rfl, rfl, rfl, rfl, fun h => ?_, fun h v => ?_, fun h v hv => ?_⟩
    · exact State.wf_updSet s k (fun d => d.setSlot w { s.slot k w with damageMark := false }) h
    · refine (congrArg Slot.content (hslot h v)).trans ?_
      split
      · next hv => rw [hv]; rfl
      · rfl
    · exact (hslot h v).trans (if_neg hv)
  · exact ⟨fun _ => rfl, rfl, rfl, rfl, rfl, id, fun _ _ => rfl, fun _ _ _ => rfl⟩

theorem Mends.mended (s : State) (k : SetIdx) (w : Way) (e : EntryIdx) : Mends k w s (s.mended k w e) := by
  have q := Mends.endDamage (s.dropAccess e) k w
  exact ⟨q.entry, q.ports, q.outbox, q.reports, q.retireList, q.wf, q.record, q.slot⟩

theorem Mends.member {k : SetIdx} {w : Way} {s t : State} (h : Mends k w s t) (p : Agent) : t.member p = s.member p := by
  unfold State.member State.port
  rw [h.ports]

theorem Mends.txn {k : SetIdx} {w : Way} {s t : State} (h : Mends k w s t) (e : EntryIdx) : t.txn e = s.txn e := by
  unfold State.txn
  rw [h.entry]

theorem Mends.requestOf {k : SetIdx} {w : Way} {s t : State} (h : Mends k w s t) (e : EntryIdx) :
    t.requestOf e = s.requestOf e := by
  unfold State.requestOf
  rw [h.entry]

/-! ### The repair of a request's record (R27, R140) -/

theorem repairOutcome_request {a : Access} {e : EntryIdx} {k : SetIdx} {w : Way} {old : Record} {r : Request}
    (hk : setOf r.line = k) (hr : a.s.requestOf e = some r) (hkind : (a.s.entry e).kind = some .request)
    (hkeep : (a.s.entry e).keep = none) (hw : a.s.findLine r.line = some w) (ho : a.s.recordAt k w = some old)
    (hb : w ∉ a.rebuilt) : repairOutcome e a =
      if a.s.repairPoisoned old e then ((a.s.mended k w e).repairToPoison k w old e).resolve e r none false
      else ((a.s.mended k w e).freeRec k w).resolve e r (some w) false := by
  have hl : a.s.lineOfEntry e = r.line := State.lineOfEntry_of_requestOf hr
  have hheld : (a.s.dropAccess e).heldRecord e = some (w, old) := by
    have hrec : ((a.s.dirSet (setOf r.line)).record w) = some old := by rw [hk]; exact ho
    have hdrop : (a.s.dropAccess e).heldRecord e = a.s.heldRecord e := rfl
    rw [hdrop]
    unfold State.heldRecord
    rw [hl, hw]
    dsimp only
    rw [hrec]
    rfl
  have hset : setOf ((a.s.dropAccess e).lineOfEntry e) = k := (congrArg setOf hl).trans hk
  have m := Mends.mended a.s k w e
  have hreq : (a.s.mended k w e).requestOf e = some r := (m.requestOf e).trans hr
  have hkd : ((a.s.mended k w e).entry e).kind = some .request := by rw [m.entry]; exact hkind
  have hkp : ((a.s.dropAccess e).entry e).keep = none := hkeep
  have hcont : a.rebuilt.contains w = false := by
    rw [List.contains_eq_mem]
    exact decide_eq_false hb
  have hpois : (a.s.dropAccess e).repairPoisoned old e = a.s.repairPoisoned old e := rfl
  unfold repairOutcome
  dsimp only
  rw [hset, hheld]
  dsimp only
  rw [hcont, if_neg Bool.false_ne_true]
  unfold State.resolveRepair
  dsimp only
  rw [hkp, hpois]
  dsimp only
  change (if _ then (a.s.mended k w e).repairBad k w old e else (a.s.mended k w e).repairGood k w e) = _
  split
  · unfold State.repairBad
    dsimp only
    rw [hkd, hreq]
  · unfold State.repairGood
    dsimp only
    rw [hkd, hreq]

theorem State.dirSet_freeRec {s : State} (h : s.dir.wf = true) (k : SetIdx) (w : Way) :
    (s.freeRec k w).dirSet k = (s.dirSet k).freeRec w := by
  unfold State.freeRec
  dsimp only
  split
  · exact State.dirSet_updSet_same (s.updEntry _ _) k _ h
  · exact State.dirSet_updSet_same s k _ h

theorem State.recordAt_freeRec_ne {s : State} (h : s.dir.wf = true) {k : SetIdx} {w v : Way} (hv : v ≠ w) :
    (s.freeRec k w).recordAt k v = s.recordAt k v := by
  unfold State.recordAt DirSet.record
  rw [State.dirSet_freeRec h, DirSet.slot_freeRec, if_neg hv]

/-- The line of a record freed is absent when no other record has its tag. -/
theorem State.findLine_freeRec {s : State} {l : Line} {w : Way} (h : s.dir.wf = true)
    (hu : ∀ v q, s.recordAt (setOf l) v = some q → q.tag = tagOf l → v = w) : (s.freeRec (setOf l) w).findLine l = none := by
  cases hf : (s.freeRec (setOf l) w).findLine l with
  | none => rfl
  | some v =>
    obtain ⟨q, hq, ht⟩ := State.findLine_some hf
    by_cases hv : v = w
    · rw [hv, State.recordAt_freeRec_self h] at hq
      cases hq
    · rw [State.recordAt_freeRec_ne h hv] at hq
      exact absurd (hu v q hq ht) hv

/-- Without a slot reserved for it an entry allocates the slot just freed (R14). -/
theorem DirSet.allocWay_freed {d : DirSet} {e : EntryIdx} {w : Way}
    (h : ∀ v, v ≠ w → ¬ ((d.slot v).usableFor e = true ∧ (d.slot v).reservation = some e)) :
    d.allocWay e (some w) = some w := by
  unfold DirSet.allocWay
  split
  · next v hv =>
    have hp := List.find?_some (p := fun v => (d.slot v).usableFor e && decide ((d.slot v).reservation = some e)) hv
    rw [Bool.and_eq_true, decide_eq_true_iff] at hp
    exact congrArg some (Classical.byContradiction fun hne => h v hne hp)
  · rfl

theorem DirSet.reservedWay_none {d : DirSet} {e : EntryIdx} (h : d.reservedWay e = none) (v : Way) :
    ¬ ((d.slot v).usableFor e = true ∧ (d.slot v).reservation = some e) := by
  have hn := List.find?_eq_none.1 h v (mem_allWays v)
  rw [Bool.and_eq_true, decide_eq_true_iff] at hn
  exact hn

theorem State.recordAt_repairToPoison {s : State} (h : s.dir.wf = true) (k : SetIdx) (w v : Way) (r : Record)
    (e : EntryIdx) : (s.repairToPoison k w r e).recordAt k v =
      if v = w then some (poisonedRecord r.tag) else s.recordAt k v := by
  refine (State.recordAt_updSet_same s k (fun d => d.writeRec w (poisonedRecord r.tag)) v h).trans ?_
  unfold DirSet.record
  rw [DirSet.slot_writeRec]
  split
  · rfl
  · rfl

theorem State.wf_repairToPoison {s : State} (h : s.dir.wf = true) (k : SetIdx) (w : Way) (r : Record) (e : EntryIdx) :
    (s.repairToPoison k w r e).dir.wf = true := State.wf_updSet s k (fun d => d.writeRec w (poisonedRecord r.tag)) h

/-- A record freed changes the table by a way alone, and nothing beside the table and the set. -/
structure Frees (s t : State) : Prop where
  member : ∀ p, t.member p = s.member p
  txn : ∀ e, t.txn e = s.txn e
  outbox : t.outbox = s.outbox
  integ : t.integ = s.integ
  wf : s.dir.wf = true → t.dir.wf = true

theorem Frees.freeRec (s : State) (k : SetIdx) (w : Way) : Frees s (s.freeRec k w) := by
  have htxn (e : EntryIdx) : (s.freeRec k w).txn e = s.txn e := by
    unfold State.txn
    rw [State.entry_freeRec]
    split <;> rfl
  have hports : (s.freeRec k w).ports = s.ports := by
    unfold State.freeRec
    dsimp only
    split <;> rfl
  refine ⟨fun p => ?_, htxn, ?_, State.integ_freeRec s k w, fun h => ?_⟩
  · unfold State.member State.port
    rw [hports]
  · unfold State.freeRec
    dsimp only
    split <;> rfl
  · unfold State.freeRec
    dsimp only
    split
    · exact State.wf_updSet (s.updEntry _ _) k _ h
    · exact State.wf_updSet s k _ h

theorem DirSet.allocWay_isSome (d : DirSet) (e : EntryIdx) (w : Way) : ∃ v, d.allocWay e (some w) = some v := by
  unfold DirSet.allocWay
  split
  · next v _ => exact ⟨v, rfl⟩
  · exact ⟨w, rfl⟩

theorem State.onLine.tag_eq {s : State} {l : Line} {w : Way} {r : Record} (h : s.onLine l w r) : r.tag = tagOf l := by
  obtain ⟨q, hq, ht⟩ := State.findLine_some h.1
  rw [← ht, Option.some.inj (h.2.1.symm.trans hq)]

/-- Settles O37: from the record that the repair made POISONED, or by an allocation in the slot that it freed. -/
theorem repairedRequestIsGranted : Obligations.RepairedRequestIsGranted := by
  intro s f e w old r hd hl hu hr hkind hkeep hm hon hb
  have hset : setOf (s.lineOfEntry e) = setOf r.line := by rw [State.lineOfEntry_of_requestOf hr]
  have hwf := (State.checked_lawful hl (setOf r.line) f).1
  have hentry (i : EntryIdx) := s.checked_entry (setOf r.line) f i
  have hmember := (s.checked_member (setOf r.line) f r.port).trans hm
  have hnil := s.checked_outbox (setOf r.line) f
  have htxn := s.checked_txn (setOf r.line) f e
  have hout : repairOutcome e (s.takeClaim.beginAccess (setOf r.line) f) = if (s.checked (setOf r.line) f).repairPoisoned old e
      then (((s.checked (setOf r.line) f).mended (setOf r.line) w e).repairToPoison (setOf r.line) w old e).resolve e r none false
      else (((s.checked (setOf r.line) f).mended (setOf r.line) w e).freeRec (setOf r.line) w).resolve e r (some w) false :=
    repairOutcome_request rfl ((s.checked_requestOf _ f e).trans hr) ((congrArg Entry.kind (hentry e)).trans hkind)
      ((congrArg Entry.keep (hentry e)).trans hkeep) hon.1 hon.2.1 hb
  have hpois : (s.checked (setOf r.line) f).repairPoisoned old e
      = (old.poison || decide ((s.entry e).fenceGoneSet ≠ 0) || (s.checked (setOf r.line) f).integ.fenceMark) := by
    unfold State.repairPoisoned
    rw [hentry]
  rw [hpois] at hout
  have hexec {u : State} (hout : repairOutcome e (s.takeClaim.beginAccess (setOf r.line) f) = u)
      (hi : u.integ.retireList = (s.checked (setOf r.line) f).integ.retireList) :=
    State.exec_concludes (s := s) (d := .repairResolution e) (k := setOf r.line) (f := f) rfl hd rfl hset hu hout
      (.of_unlisted (State.unlistedSet_checked hu hi))
  have m := Mends.mended (s.checked (setOf r.line) f) (setOf r.line) w e
  have hdwf := m.wf hwf
  have hrecord := m.record hwf
  have hfenced := State.not_fenced_of_member ((m.member r.port).trans hmember)
  have htag := hon.tag_eq
  have hu' (v : Way) (q : Record) (hq : ((s.checked (setOf r.line) f).mended (setOf r.line) w e).recordAt (setOf r.line) v
      = some q) (ht : q.tag = tagOf r.line) : v = w := hon.2.2 v q ((hrecord v).symm.trans hq) ht
  have hslot := m.slot hwf
  have hdm := (m.member r.port).trans hmember
  have hdbox := m.outbox.trans hnil
  have hdtxn := (m.txn e).trans htxn
  have hdentry (i : EntryIdx) := (m.entry i).trans (hentry i)
  have hdlist := m.retireList
  generalize (s.checked (setOf r.line) f).mended (setOf r.line) w e = d at *
  cases hp : (old.poison || decide ((s.entry e).fenceGoneSet ≠ 0) || (s.checked (setOf r.line) f).integ.fenceMark) with
  | true =>
    rw [hp, if_pos rfl] at hout
    have hrec (v : Way) := State.recordAt_repairToPoison hdwf (setOf r.line) w v old e
    have hfind : (d.repairToPoison (setOf r.line) w old e).findLine r.line = some w := by
      refine DirSet.findTag_of_record ((hrec w).trans (if_pos rfl)) htag fun v q hq ht => ?_
      by_cases hv : v = w
      · exact hv
      · exact hu' v q (((hrec v).trans (if_neg hv)).symm.trans hq) ht
    have hpentry : (d.repairToPoison (setOf r.line) w old e).entry e = s.entry e := hdentry e
    rw [State.resolve_present hfind ((hrec w).trans (if_pos rfl)), hpentry] at hout
    have p := GrantsAt.grantInPlace (s := d.repairToPoison (setOf r.line) w old e) hfenced (setOf r.line) w e
      (grantOn r.kind r.port r.fullWrite (poisonedRecord old.tag) (s.entry e))
    obtain ⟨t, ht, g⟩ := hexec hout ((congrArg IntegrityUnit.retireList p.integ).trans hdlist)
    obtain ⟨more, hmore⟩ := g.outbox
    refine ⟨t, ht, fun _ => ⟨?_, ?_, ⟨more, ?_⟩, g.reports _ (p.reports _ ?_)⟩, fun hn => (nomatch hp.symm.trans hn)⟩
    · rw [State.recordAt_congr g.dir]
      exact p.record (State.wf_repairToPoison hdwf _ w old e)
    · exact (Entry.of_core Entry.phase (fun _ => rfl) (g.entry e)).trans p.phase
    · rw [hmore, p.outbox hdm]
      show d.outbox ++ [⟨r.port, .grant r.tag r.line (d.txn e) _ _ _⟩] ++ more = _
      rw [hdbox, hdtxn]
      rfl
    · refine List.mem_append_right _ (List.mem_singleton.2 ?_)
      show poisonReport _ _ _ _ _ = poisonReport _ _ _ (lowestAgent (d.entry e).fenceGoneSet) (some (d.txn e))
      rw [hdentry, hdtxn]
  | false =>
    rw [hp, if_neg Bool.false_ne_true, State.resolve_absent (State.findLine_freeRec hdwf hu')] at hout
    have q := Frees.freeRec d (setOf r.line) w
    have hfwf := q.wf hdwf
    have hset := State.dirSet_freeRec hdwf (setOf r.line) w
    have hfm := (q.member r.port).trans hdm
    have hfbox := q.outbox.trans hdbox
    have hftxn := (q.txn e).trans hdtxn
    have hflist := (congrArg IntegrityUnit.retireList q.integ).trans hdlist
    generalize d.freeRec (setOf r.line) w = d' at *
    obtain ⟨v, hv⟩ := (d'.dirSet (setOf r.line)).allocWay_isSome e w
    have p : GrantsNew (setOf r.line) v e r d' _ := .grantAbsent (State.not_fenced_of_member hfm) hv false
    obtain ⟨t, ht, g⟩ := hexec hout ((congrArg IntegrityUnit.retireList p.integ).trans hflist)
    have x := p.slotTaken hfwf g
    refine ⟨t, ht, fun hn => (nomatch hp.symm.trans hn), fun _ hres => ?_⟩
    have hvw : v = w := by
      refine Option.some.inj (hv.symm.trans (DirSet.allocWay_freed fun y hy hyr => DirSet.reservedWay_none hres y ?_))
      rw [hset, DirSet.slot_freeRec, if_neg hy, hslot y hy] at hyr
      exact hyr
    subst hvw
    refine ⟨x.record, x.phase, x.way, ?_⟩
    obtain ⟨more, hmore⟩ := p.granted g hfm
    rw [hfbox, hftxn] at hmore
    exact ⟨more, hmore⟩

end Sys2Proof.Machine
end

section
/-! PROOF. O33: the start access of a RETIRE item (R142 to R146). -/

namespace Sys2Proof.Machine

/-! ### A slot that waits on the retire list (R143) -/

/-- Every item of the retire list in set `k` is slot `w`, which waits there with status `st` for what it still waits for. -/
structure State.Waits (s : State) (k : SetIdx) (w : Way) (st : RetireStatus) (r : Record) : Prop where
  items : ∀ i ∈ s.integ.retireList, i.set = k → i = ⟨k, w, st⟩
  mark : (s.slot k w).mark = .inService
  content : (s.slot k w).content = some r
  cause : (s.slot k w).bound.isSome = true ∧ st = .waitUnbind
    ∨ (s.slot k w).bound.isSome = false ∧ r.retireByProbe = false ∧ (s.dirSet k).moveTarget = none
      ∧ (s.dirSet k).mapHasRoom = true ∧ st = .waitRoom

theorem State.setRetireStatus_self {s : State} {k : SetIdx} {w : Way} {st : RetireStatus}
    (h : ∀ i ∈ s.integ.retireList, i.set = k → i = ⟨k, w, st⟩) : s.setRetireStatus k w st = s := by
  have hl : s.integ.retireList.map (fun i => if i.set = k ∧ i.way = w then { i with status := st } else i)
      = s.integ.retireList := by
    refine (List.map_congr_left fun i hi => ?_).trans (List.map_id _)
    split
    · next hk =>
      rw [h i hi hk.1]
      rfl
    · rfl
  unfold State.setRetireStatus
  rw [hl]

/-- A slot that waits for what it waited for is left as it is. -/
theorem State.Waits.examineSlot {s : State} {k : SetIdx} {w : Way} {st : RetireStatus} {r : Record}
    (h : s.Waits k w st r) (b : List Way) (v : Way) : State.examineSlot k (s, b) v = (s, b) := by
  unfold State.examineSlot
  dsimp only
  split
  · rfl
  · next ho =>
    have hv : v = w := by
      rw [Bool.not_eq_true', Bool.not_eq_false] at ho
      obtain ⟨i, hi, hiv⟩ := List.any_eq_true.1 ho
      rw [Bool.and_eq_true, decide_eq_true_iff, decide_eq_true_iff] at hiv
      rw [← hiv.2, h.items i hi hiv.1]
    subst hv
    rw [if_neg (fun hm => hm h.mark), h.content]
    dsimp only
    rcases h.cause with ⟨hb, hst⟩ | ⟨hb, hr, hm, hroom, hst⟩
    · rw [if_pos hb, ← hst, State.setRetireStatus_self h.items]
    · rw [if_neg (by rw [hb]; exact Bool.false_ne_true), if_neg (by rw [hr]; exact Bool.false_ne_true), hm]
      dsimp only
      rw [if_pos hroom, ← hst, State.setRetireStatus_self h.items]

theorem State.Waits.unexamined {s : State} {k : SetIdx} {w : Way} {st : RetireStatus} {r : Record}
    (h : s.Waits k w st r) : s.Unexamined k := by
  intro l
  have hl : ({ s with reports := l } : State).Waits k w st r := ⟨h.items, h.mark, h.content, h.cause⟩
  generalize allWays = ways
  induction ways with
  | nil => rfl
  | cons v ways ih =>
    rw [List.foldl_cons, hl.examineSlot [] v]
    exact ih

theorem State.onRetireList_unlisted {s : State} {k : SetIdx} (h : s.unlistedSet k) (w : Way) :
    s.onRetireList k w = false := by
  unfold State.onRetireList
  rw [List.any_eq_false]
  intro i hi
  rw [decide_eq_false (h i hi)]
  exact Bool.false_ne_true

theorem State.joinRetireList_full {s : State} (k : SetIdx) (w : Way) (st : RetireStatus)
    (h : 16 ≤ s.integ.retireList.length) : s.joinRetireList k w st = s := if_pos (.inr h)

theorem State.joinRetireList_room {s : State} {k : SetIdx} (h : s.unlistedSet k) (w : Way) (st : RetireStatus)
    (hn : s.integ.retireList.length < 16) : s.joinRetireList k w st =
      { s with integ := { s.integ with retireList := s.integ.retireList ++ [⟨k, w, st⟩] } } := by
  refine if_neg (not_or.2 ⟨?_, Nat.not_le.2 hn⟩)
  rw [State.onRetireList_unlisted h]
  exact Bool.false_ne_true

/-- Joining the retire list with what the slot waits for leaves nothing to examine. -/
theorem State.unexamined_joinRetireList {s : State} {k : SetIdx} {w : Way} {st : RetireStatus} {r : Record}
    (h : s.unlistedSet k) (hm : (s.slot k w).mark = .inService) (hr : (s.slot k w).content = some r)
    (hc : (s.slot k w).bound.isSome = true ∧ st = .waitUnbind
      ∨ (s.slot k w).bound.isSome = false ∧ r.retireByProbe = false ∧ (s.dirSet k).moveTarget = none
        ∧ (s.dirSet k).mapHasRoom = true ∧ st = .waitRoom) : (s.joinRetireList k w st).Unexamined k := by
  rcases Nat.lt_or_ge s.integ.retireList.length 16 with hn | hn
  · rw [State.joinRetireList_room h w st hn]
    refine State.Waits.unexamined (w := w) (st := st) (r := r) ⟨fun i hi hk => ?_, hm, hr, hc⟩
    rcases List.mem_append.1 hi with hi | hi
    · exact absurd hk (h i hi)
    · exact List.mem_singleton.1 hi
  · rw [State.joinRetireList_full k w st hn]
    exact .of_unlisted h

/-! ### The start access of a RETIRE item (R144) -/

section
variable {a : Access} {k : SetIdx} {w : Way}

theorem retireStartOutcome_full (hm : (a.s.slot k w).mark = .inService) (h : (a.s.dirSet k).mapHasRoom = false) :
    retireStartOutcome k w a = (a.s.dropItem (.retire k w)).denyRetire k w := by
  unfold retireStartOutcome
  dsimp only
  rw [if_neg (fun hn => hn hm), if_pos (by rw [h]; rfl)]

theorem retireStartOutcome_free (hm : (a.s.slot k w).mark = .inService) (h : (a.s.dirSet k).mapHasRoom = true)
    (hc : (a.s.slot k w).content = none) :
    retireStartOutcome k w a = (a.s.dropItem (.retire k w)).withdrawFreed k w := by
  unfold retireStartOutcome
  dsimp only
  rw [if_neg (fun hn => hn hm), if_neg (by rw [h]; exact Bool.false_ne_true), hc]
  rfl

theorem retireStartOutcome_held (hm : (a.s.slot k w).mark = .inService) (h : (a.s.dirSet k).mapHasRoom = true)
    {r : Record} (hc : (a.s.slot k w).content = some r) : retireStartOutcome k w a =
      if (a.s.slot k w).bound.isSome then (a.s.dropItem (.retire k w)).joinRetireList k w .waitUnbind
      else if r.retireByProbe then
        match a.s.freeEntry with
        | some e => (a.s.dropItem (.retire k w)).beginStart k w r .retire e
        | none => a.s
      else (a.s.dropItem (.retire k w)).moveOrWait k w := by
  unfold retireStartOutcome
  dsimp only
  rw [if_neg (fun hn => hn hm), if_neg (by rw [h]; exact Bool.false_ne_true), hc]
  rfl

end

theorem DirSet.moveTarget_room {d : DirSet} (h : d.mapHasRoom = true) : d.moveTarget = d.moveWay := if_pos h

theorem State.integ_withdrawFreed (s : State) (k : SetIdx) (w : Way) : (s.withdrawFreed k w).integ = s.integ :=
  State.integ_retireFree s k w

theorem State.integ_moveRecord (s : State) (k : SetIdx) (w v : Way) : (s.moveRecord k w v).integ = s.integ := by
  unfold State.moveRecord
  dsimp only
  split <;> rfl

/-- A RETIRE or REPAIR begun: the free entry taken, a round begun on the record. -/
def State.startTaken (s : State) (k : SetIdx) (r : Record) (kind : EntryKind) (e : EntryIdx) : State :=
  s.takeEntry e (lineOf k r.tag) kind .none none

theorem Probing.beginStart (s : State) (k : SetIdx) (w : Way) (r : Record) (kind : EntryKind) (e : EntryIdx) :
    Probing k w e .invalidate (if r.state = .damaged then s.memberSet else r.holders) (decide (r.state = .damaged))
      (s.startTaken k r kind e) (s.beginStart k w r kind e) := by
  unfold State.beginStart State.takeBack
  by_cases h : r.state = .damaged
  · rw [if_pos h, if_pos h, decide_eq_true h]
    exact .startRepair (s.startTaken k r kind e) k w e
  · rw [if_neg h, if_neg h, decide_eq_false h]
    exact .startRound _ k w e _ _

/-- What a RETIRE start leaves to examine at the end of its access: nothing. -/
theorem retireStartOutcome_unexamined {a : Access} {k : SetIdx} {w : Way} (hl : a.s.unlistedSet k)
    (hm : (a.s.slot k w).mark = .inService) : (retireStartOutcome k w a).Unexamined k := by
  have same {u : State} (h : u.integ = a.s.integ) : u.Unexamined k := .of_unlisted fun i hi => hl i (by rw [← h]; exact hi)
  cases hroom : (a.s.dirSet k).mapHasRoom with
  | false =>
    rw [retireStartOutcome_full hm hroom]
    exact same rfl
  | true =>
    cases hc : (a.s.slot k w).content with
    | none =>
      rw [retireStartOutcome_free hm hroom hc]
      exact same (State.integ_withdrawFreed _ k w)
    | some r =>
      rw [retireStartOutcome_held hm hroom hc]
      cases hb : (a.s.slot k w).bound.isSome with
      | true =>
        rw [if_pos rfl]
        exact State.unexamined_joinRetireList (s := a.s.dropItem (.retire k w)) hl hm hc (.inl ⟨hb, rfl⟩)
      | false =>
        rw [if_neg Bool.false_ne_true]
        cases hp : r.retireByProbe with
        | true =>
          rw [if_pos rfl]
          split
          · exact same (Probing.beginStart _ k w r .retire _).integ
          · exact same rfl
        | false =>
          rw [if_neg Bool.false_ne_true]
          unfold State.moveOrWait
          split
          · exact same (State.integ_moveRecord _ k w _)
          · next hn =>
            exact State.unexamined_joinRetireList (s := a.s.dropItem (.retire k w)) hl hm hc (.inr ⟨hb, hp, hn, hroom, rfl⟩)

/-! ### What each case of the start leaves at the end of its event (R144) -/

theorem Record.retireByProbe_of_clean {r : Record} (h : r.poison = false) : r.retireByProbe = true := by
  unfold Record.retireByProbe
  rw [h]
  rfl

theorem Record.retireByProbe_of_damaged {r : Record} (h : r.state = .damaged) : r.retireByProbe = true := by
  unfold Record.retireByProbe
  rw [decide_eq_true h, Bool.or_true]

theorem Record.retireByProbe_of_poisoned {r : Record} (h : r.poison = true) (hd : r.state ≠ .damaged) :
    r.retireByProbe = false := by
  unfold Record.retireByProbe
  rw [h, decide_eq_false hd]
  rfl

section
variable {a : Access} {k : SetIdx} {w : Way} {t : State} (g : Concludes (retireStartOutcome k w a) t)
  (hm : (a.s.slot k w).mark = .inService)
include g hm

/-- A full retired map denies. -/
theorem Concludes.retireStart_full (h : (a.s.dirSet k).mapHasRoom = false) :
    a.s.slotReport .retireDenied k w ∈ t.reports ∧ t.dir = a.s.dir := by
  rw [retireStartOutcome_full hm h] at g
  exact ⟨g.reports _ (List.mem_append_right _ (List.mem_singleton_self _)), g.dir⟩

/-- A free slot is withdrawn. -/
theorem Concludes.retireStart_free (hwf : a.s.dir.wf = true) (h : (a.s.dirSet k).mapHasRoom = true)
    (hc : (a.s.slot k w).content = none) : (t.dirSet k).slot w = (a.s.slot k w).outOfService .retired
      ∧ a.s.slotReport .slotRetired k w ∈ t.reports := by
  rw [retireStartOutcome_free hm h hc] at g
  have hy : (a.s.dropItem (.retire k w)).retireFree k w
      = ((a.s.dropItem (.retire k w)).withdrawSlot k w .retired, a.s.slotReport .slotRetired k w) := if_pos h
  unfold State.withdrawFreed at g
  dsimp only at g
  rw [hy] at g
  refine ⟨?_, g.reports _ (List.mem_append_right _ (List.mem_singleton_self _))⟩
  rw [State.dirSet_congr g.dir]
  refine (State.slot_updSet_same (a.s.dropItem (.retire k w)) k (fun d => d.withdraw w .retired) w hwf).trans ?_
  rw [DirSet.slot_withdraw, if_pos rfl]
  rfl

/-- A poisoned record moves to the slot `v` that it is to have. -/
theorem Concludes.retireStart_moved (hwf : a.s.dir.wf = true) (h : (a.s.dirSet k).mapHasRoom = true) {r : Record}
    (hc : (a.s.slot k w).content = some r) (hb : (a.s.slot k w).bound = none) (hp : r.retireByProbe = false) {v : Way}
    (hv : (a.s.dirSet k).moveWay = some v) : t.dirSet k = (a.s.dirSet k).move w v := by
  have hu : retireStartOutcome k w a = (a.s.dropItem (.retire k w)).moveRecord k w v := by
    have ht : ((a.s.dropItem (.retire k w)).dirSet k).moveTarget = some v := (DirSet.moveTarget_room h).trans hv
    rw [retireStartOutcome_held hm h hc, if_neg (by rw [hb]; exact Bool.false_ne_true),
      if_neg (by rw [hp]; exact Bool.false_ne_true)]
    unfold State.moveOrWait
    rw [ht]
  have hslot : (a.s.dropItem (.retire k w)).slot k w = a.s.slot k w := rfl
  rw [hu] at g
  unfold State.moveRecord at g
  rw [hslot, hb] at g
  rw [State.dirSet_congr g.dir]
  exact State.dirSet_updSet_same (a.s.dropItem (.retire k w)) k (fun d => d.move w v) hwf

/-- Any other unbound record is taken back by a RETIRE in the lowest FREE entry. -/
theorem Concludes.retireStart_begun (h : (a.s.dirSet k).mapHasRoom = true) {r : Record}
    (hc : (a.s.slot k w).content = some r) (hb : (a.s.slot k w).bound = none) (hp : r.retireByProbe = true)
    {e : EntryIdx} (he : a.s.freeEntry = some e) :
    Probing k w e .invalidate (if r.state = .damaged then a.s.memberSet else r.holders) (decide (r.state = .damaged))
      ((a.s.dropItem (.retire k w)).startTaken k r .retire e) t := by
  rw [retireStartOutcome_held hm h hc, if_neg (by rw [hb]; exact Bool.false_ne_true), if_pos hp, he] at g
  exact (Probing.beginStart (a.s.dropItem (.retire k w)) k w r .retire e).concludes g

/-- The slot joins the retire list, which has room, and its set is left as it is. -/
theorem Concludes.retireStart_joined (hl : a.s.unlistedSet k) (hn : a.s.integ.retireList.length < 16)
    (h : (a.s.dirSet k).mapHasRoom = true) {r : Record} (hc : (a.s.slot k w).content = some r) {st : RetireStatus}
    (hst : (a.s.slot k w).bound ≠ none ∧ st = .waitUnbind
      ∨ (a.s.slot k w).bound = none ∧ r.retireByProbe = false ∧ (a.s.dirSet k).moveWay = none ∧ st = .waitRoom) :
    t.dir = a.s.dir ∧ t.integ.retireList = a.s.integ.retireList ++ [⟨k, w, st⟩] := by
  have hu : retireStartOutcome k w a = (a.s.dropItem (.retire k w)).joinRetireList k w st := by
    rw [retireStartOutcome_held hm h hc]
    rcases hst with ⟨hb, rfl⟩ | ⟨hb, hp, hv, rfl⟩
    · rw [if_pos (Option.isSome_iff_ne_none.2 hb)]
    · have ht : ((a.s.dropItem (.retire k w)).dirSet k).moveTarget = none := (DirSet.moveTarget_room h).trans hv
      rw [if_neg (by rw [hb]; exact Bool.false_ne_true), if_neg (by rw [hp]; exact Bool.false_ne_true)]
      unfold State.moveOrWait
      rw [ht]
  rw [hu, State.joinRetireList_room (s := a.s.dropItem (.retire k w)) hl w st hn] at g
  exact ⟨g.dir, congrArg IntegrityUnit.retireList g.integ⟩

end

/-- What entry `e` carries after a RETIRE or REPAIR has begun in it. -/
theorem Probing.startTaken {k : SetIdx} {w : Way} {e : EntryIdx} {set : AgentSet} {repair : Bool} {r : Record}
    {kind : EntryKind} {s t : State} (h : Probing k w e .invalidate set repair (s.startTaken k r kind e) t) :
    (t.entry e).kind = some kind ∧ (t.entry e).line = some (lineOf k r.tag) ∧ (t.entry e).keep = none := by
  have he : (s.startTaken k r kind e).entry e = Entry.begin (s.entry e).gen (lineOf k r.tag) none kind .none none [] :=
    (s.entry_takeEntry e e _ _ _ _).trans (if_pos rfl)
  refine ⟨h.kind.trans ?_, h.line.trans ?_, h.keep ?_⟩ <;> rw [he] <;> rfl

/-- Settles O33: each branch of the start by its own lemma, carried to the end of the event. -/
theorem retireStartEmptiesSlot : Obligations.RetireStartEmptiesSlot := by
  intro s f k w hd hl hu hm d
  have hunlisted : (s.checked k f).unlistedSet k := State.unlistedSet_checked hu rfl
  obtain ⟨t, ht, g⟩ := State.exec_concludes (d := .retireStart k w) rfl hd rfl rfl hu rfl
    (retireStartOutcome_unexamined hunlisted hm)
  have hwf := (State.checked_lawful hl k f).1
  have hfree := s.checked_freeEntry k f
  have hmember (p : Agent) := s.checked_member k f p
  have hset := State.retireList_checked hu
  change (s.takeClaim.beginAccess k f).s.unlistedSet k at hunlisted
  change (s.takeClaim.beginAccess k f).s.dir.wf = true at hwf
  change (s.takeClaim.beginAccess k f).s.freeEntry = _ at hfree
  change ∀ p, (s.takeClaim.beginAccess k f).s.member p = _ at hmember
  change (s.takeClaim.beginAccess k f).s.integ.retireList = _ at hset
  replace g : Concludes (retireStartOutcome k w (s.takeClaim.beginAccess k f)) t := g
  have hdef : d = (s.takeClaim.beginAccess k f).s.dirSet k := rfl
  have hc : s.checked k f = (s.takeClaim.beginAccess k f).s := rfl
  rw [hc] at hm ⊢
  clear_value d
  subst hdef
  generalize s.takeClaim.beginAccess k f = a at *
  refine ⟨t, ht, fun hroom => g.retireStart_full hm hroom, fun hroom hn => ?_, fun hroom r hr hb hp hnd v hv hne => ?_,
    fun hroom r e hr hb hp hnd he => ?_, fun hroom r e hr hb hdam he => ?_, fun hroom r hr hn => ⟨fun hb => ?_, fun hb hp hnd hv => ?_⟩⟩
  · obtain ⟨hslot, hrep⟩ := g.retireStart_free hm hwf hroom hn
    rw [hslot]
    exact ⟨rfl, rfl, hrep⟩
  · have hmove := g.retireStart_moved hm hwf hroom hr hb (Record.retireByProbe_of_poisoned hp hnd) hv
    have hslot (x : Way) := DirSet.slot_move (a.s.dirSet k) x hne
    rw [← hmove] at hslot
    refine ⟨?_, ?_, ?_, ?_⟩
    · unfold State.recordAt DirSet.record
      rw [hslot, if_neg hne, if_pos rfl]
      exact hr
    · unfold State.recordAt DirSet.record
      rw [hslot, if_pos rfl]
      rfl
    · rw [hslot, if_pos rfl]
      rfl
    · rw [hmove]
      rfl
  · have q := g.retireStart_begun hm hroom hr hb (Record.retireByProbe_of_clean hp) (hfree.trans he)
    obtain ⟨hkind, hline, -⟩ := q.startTaken
    refine ⟨hkind, hline, q.way, q.phase, q.probeKind, fun p => ?_, q.bound hwf⟩
    rw [q.pending, if_neg hnd, ← hmember]
    rfl
  · have q := g.retireStart_begun hm hroom hr hb (Record.retireByProbe_of_damaged hdam) (hfree.trans he)
    obtain ⟨hkind, hline, hkeep⟩ := q.startTaken
    refine ⟨hkind, hline, q.way, q.phase, ?_, hkeep, fun p => ?_, q.bound hwf⟩
    · rw [q.repairRound, decide_eq_true hdam]
    · rw [q.pending, if_pos hdam, State.has_memberSet, ← hmember]
      exact Bool.and_self _
  · rw [← hset] at hn ⊢
    exact g.retireStart_joined hm hunlisted hn hroom hr (.inl ⟨hb, rfl⟩)
  · rw [← hset] at hn ⊢
    exact g.retireStart_joined hm hunlisted hn hroom hr (.inr ⟨hb, Record.retireByProbe_of_poisoned hp hnd, hv, rfl⟩)

end Sys2Proof.Machine
end

section
/-! PROOF. O46: the maintenance commands that read a slot or a line (R182, R183, R192). -/

namespace Sys2Proof.Machine

/-- A command whose result is filled in after the end of its access. -/
theorem State.exec_reads {s : State} {d : Due} {k : SetIdx} {f : List CellFault} {c : Instr} {u : State}
    {fill : State → State} (hc : d.command f = some c) (hd : s.due = some d) (ha : s.dueAfter d = fill)
    (hk : s.dueSet d = k) (hu : s.undisturbed k f) (hout : s.dueOutcome d (s.takeClaim.beginAccess k f) = u)
    (hi : u.Unexamined k) (hf : ∀ late starts, fill (u.ended late starts) = (fill u).ended late starts) :
    ∃ t, exec c s = .next t ∧ Concludes (fill u) t := by
  obtain ⟨late, starts, h⟩ := State.access_ended hu hout hi
  refine ⟨_, exec_due hc hd, ?_⟩
  unfold State.accessed
  rw [hk, h, ha, hf]
  exact .finish (fill u) late starts

/-- A state that differs from the checked one by reports and the service port alone is calm when the event found it so. -/
theorem State.calm_checked {s : State} (h : s.calm) (k : SetIdx) (f : List CellFault) (l : List Report)
    (v : ServicePort) : ({ s.checked k f with reports := l, svc := v } : State).calm := by
  have q := SameOutside.checked s k f
  refine State.calm_congr (s := s) q.part q.intake q.pause q.leave q.tt q.pool (congrArg Settings.probeCredits q.cfg)
    (fun p => ?_) h
  have hp := s.checked_port k f p
  exact ⟨congrArg Port.state hp, congrArg Port.probeQueue hp, congrArg Port.sends hp⟩

/-! ### INSPECT (R182) -/

theorem DirSet.view_free {d : DirSet} {w : Way} (h : d.record w = none) (k : SetIdx) :
    d.view k w = ⟨w, none, none, (d.slot w).reservation, none, (d.slot w).health, (d.slot w).mark, d.lost⟩ := by
  unfold DirSet.view
  rw [h]
  rfl

theorem DirSet.view_held {d : DirSet} {w : Way} {r : Record} (h : d.record w = some r) (k : SetIdx) :
    d.view k w = ⟨w, some ⟨lineOf k r.tag, r.tag, r.state, r.poison, if r.state = .damaged then none else some r.holders⟩,
      (d.slot w).bound, none, d.rank w, (d.slot w).health, (d.slot w).mark, d.lost⟩ := by
  unfold DirSet.view
  rw [h]
  rfl

theorem exec_inspectAccess {s : State} {f : List CellFault} (hd : s.due = some (.service 1))
    (hu : s.undisturbed s.svc.setArg f) :
    ∃ t, exec (.inspectAccess f) s = .next t ∧ Concludes (s.checked s.svc.setArg f).fillInspect t :=
  State.exec_reads (d := .service 1) rfl hd rfl rfl hu rfl (.of_unlisted (State.unlistedSet_checked hu rfl))
    fun _ _ => rfl

/-! ### LOOKUP (R183) -/

theorem lookupOutcome_eq (a : Access) : lookupOutcome a = { a.s with reports := (lookupOutcome a).reports } := by
  unfold lookupOutcome
  split <;> rfl

theorem lookupOutcome_lost {a : Access} (hn : a.s.findLine a.s.svc.lineArg = none)
    (hl : a.s.missLost a.s.svc.lineArg = true) :
    lostServiceReport a.s.svc.lineArg ∈ (lookupOutcome a).reports := by
  unfold lookupOutcome
  rw [if_pos ⟨by rw [hn]; rfl, hl⟩]
  exact List.mem_append_right _ (List.mem_singleton_self _)

theorem State.lookupResult_found {s : State} {l : Line} {w : Way} (h : s.findLine l = some w) :
    s.lookupResult l = { Result.clear with
      outcome := .found, slot := some ((s.dirSet (setOf l)).view (setOf l) w), entry := s.boundEntry l } := by
  unfold State.lookupResult
  rw [h]

theorem State.lookupResult_miss {s : State} {l : Line} (h : s.findLine l = none) :
    s.lookupResult l = { Result.clear with
      outcome := if s.missLost l then .lost else .absent, lost := some (s.dirSet (setOf l)).lost
      entry := s.boundEntry l } := by
  unfold State.lookupResult
  rw [h]

theorem State.entry_lookupResult (s : State) (l : Line) : (s.lookupResult l).entry = s.boundEntry l := by
  unfold State.lookupResult
  split <;> rfl

theorem integ_lookupOutcome (a : Access) : (lookupOutcome a).integ = a.s.integ := by
  unfold lookupOutcome
  split <;> rfl

theorem exec_lookupAccess {s : State} {f : List CellFault} (hd : s.due = some (.service 2))
    (hu : s.undisturbed (setOf s.svc.lineArg) f) :
    ∃ t, exec (.lookupAccess f) s = .next t
      ∧ Concludes (lookupOutcome (s.takeClaim.beginAccess (setOf s.svc.lineArg) f)).fillLookup t :=
  State.exec_reads (k := setOf s.svc.lineArg) (d := .service 2) rfl hd rfl rfl hu rfl
    (.of_unlisted (State.unlistedSet_checked hu (congrArg IntegrityUnit.retireList (integ_lookupOutcome _)))) fun _ _ => rfl

/-- What LOOKUP's event leaves of the state that its checks left: all but the service port and the reports. -/
theorem Concludes.lookup {a : Access} {t : State} (g : Concludes (lookupOutcome a).fillLookup t) :
    t.dir = a.s.dir ∧ (∀ i, (t.entry i).core = (a.s.entry i).core)
      ∧ t.svc = { a.s.svc with
          status := .done, result := a.s.lookupResult a.s.svc.lineArg, waiting := .nowhere } := by
  have hdir := g.dir
  have hentry := g.entry
  have hsvc := g.svc (nomatch ·)
  rw [lookupOutcome_eq a] at hdir hentry hsvc
  exact ⟨hdir, hentry, hsvc⟩

theorem Concludes.lookup_calm {a : Access} {t : State} (g : Concludes (lookupOutcome a).fillLookup t)
    (h : ∀ (l : List Report) (v : ServicePort), ({ a.s with reports := l, svc := v } : State).calm) : t.tt = a.s.tt := by
  have hcalm := g.calm
  rw [lookupOutcome_eq a] at hcalm
  exact hcalm (h _ _)

theorem State.missLost_iff (s : State) (l : Line) :
    s.missLost l = true ↔ s.boundEntry l = none ∧ (s.dirSet (setOf l)).lost = true := by
  unfold State.missLost
  rw [Bool.and_eq_true, Option.isNone_iff_eq_none]

/-- Settles O46: each command's result is read off the checked set, and completing it writes the service port alone. -/
theorem readersReportSlots : Obligations.ReadersReportSlots := by
  intro s f hl
  refine ⟨fun hd hu => ?_, fun hd hu => ?_⟩
  · intro k w c
    obtain ⟨t, ht, g⟩ := exec_inspectAccess hd hu
    have hsvc : t.svc = { c.svc with
        status := .done, result := { Result.clear with slot := some ((c.dirSet c.svc.setArg).view c.svc.setArg c.svc.wayArg) }
        waiting := .nowhere } := g.svc (nomatch ·)
    have hargs : c.svc = s.svc := (SameOutside.checked s k f).svc
    have hcalm (h : s.calm) := s.calm_checked h k f c.reports c.fillInspect.svc
    have hentry (i : EntryIdx) : c.entry i = s.entry i := s.checked_entry k f i
    have htt : c.tt = s.tt := (SameOutside.checked s k f).tt
    rw [hargs] at hsvc
    refine ⟨t, (c.dirSet k).view k w, ht, by rw [hsvc], g.dir, fun i => (g.entry i).trans (congrArg Entry.core (hentry i)),
      fun h => (g.calm (hcalm h)).trans htt, by rw [hsvc], rfl, rfl, rfl, rfl, fun hn => ?_, fun r hr => ?_⟩
    · rw [DirSet.view_free hn]
      exact ⟨rfl, rfl, rfl, rfl⟩
    · rw [DirSet.view_held hr]
      exact ⟨rfl, rfl, rfl, rfl⟩
  · intro l c
    obtain ⟨t, ht, g⟩ := exec_lookupAccess hd hu
    obtain ⟨hdir, hcore, hsvc⟩ := g.lookup
    have htable (h : s.calm) : t.tt = c.tt := g.lookup_calm (s.calm_checked h (setOf l) f)
    have hargs : c.svc = s.svc := (SameOutside.checked s (setOf l) f).svc
    have hline : c.svc.lineArg = l := congrArg ServicePort.lineArg hargs
    have hentry (i : EntryIdx) : c.entry i = s.entry i := s.checked_entry (setOf l) f i
    have hbound : c.boundEntry l = s.boundEntry l := s.checked_boundEntry (setOf l) f l
    have htt : c.tt = s.tt := (SameOutside.checked s (setOf l) f).tt
    have hrep (hn : c.findLine c.svc.lineArg = none) (hm : c.missLost c.svc.lineArg = true) :
        lostServiceReport c.svc.lineArg ∈ t.reports := g.reports _ (lookupOutcome_lost hn hm)
    replace hdir : t.dir = c.dir := hdir
    replace hcore (i : EntryIdx) : (t.entry i).core = (c.entry i).core := hcore i
    replace hsvc : t.svc = { c.svc with
      status := .done, result := c.lookupResult c.svc.lineArg, waiting := .nowhere } := hsvc
    clear g
    clear_value c
    have hresult : t.svc.result = c.lookupResult l := by rw [hsvc, hline]
    rw [hline] at hrep
    refine ⟨t, ht, by rw [hsvc], hdir, fun i => (hcore i).trans (congrArg Entry.core (hentry i)),
      fun h => (htable h).trans htt, ?_, fun w r hon => ?_, fun hn => ?_⟩
    · rw [hresult, State.entry_lookupResult, hbound]
    · rw [hresult, State.lookupResult_found hon.1]
      refine ⟨rfl, _, rfl, rfl, ?_⟩
      have hr : (c.dirSet (setOf l)).record w = some r := hon.2.1
      rw [DirSet.view_held hr, hon.tag_eq, lineOf_setOf_tagOf]
    · rw [hresult, State.lookupResult_miss hn]
      refine ⟨rfl, rfl, fun hb hlost => ?_, fun hor => ?_⟩
      · have hm : c.missLost l = true := (c.missLost_iff l).2 ⟨hbound.trans hb, hlost⟩
        exact ⟨if_pos hm, hrep hn hm⟩
      · refine if_neg fun hm => ?_
        obtain ⟨hb, hlost⟩ := (c.missLost_iff l).1 hm
        rcases hor with hne | hno
        · exact hne (hbound.symm.trans hb)
        · exact Bool.false_ne_true (hno.symm.trans hlost)

end Sys2Proof.Machine
end

section
/-! PROOF. O36 fails: a DAMAGED record in a slot out of service (R142, R143, R146).

Nothing that O36 assumes keeps a record out of a RETIRED slot. On such a record the repair of a RETIRE puts its slot on the
retire list, to wait for room; the end of the same access examines the set and takes the slot off the list again, for a slot
that is not in service has no business there. O36 promises that the slot stays on the list. -/

namespace Sys2Proof.Machine

/-- The DAMAGED record, its poison flag set, of line 0. -/
def RetiredRepair.record : Record := ⟨0, .damaged, 0, true⟩

/-- A set whose slots are all RETIRED, the record in way 4, bound to entry 0. -/
def RetiredRepair.dirSet : DirSet :=
  { DirSet.empty with
    slots := Vector.ofFn fun w =>
      if w = 4 then { Slot.empty with mark := .retired, content := some RetiredRepair.record, bound := some 0 }
      else { Slot.empty with mark := .retired }
    recency := [4] }

/-- The RETIRE of line 0, its repair round answered. -/
def RetiredRepair.entry : Entry :=
  { Entry.freeOf 0 with
    line := some 0, way := some 4, kind := some .retire, phase := .probing, probeKind := some .invalidate
    repairRound := true }

/-- RUN, that RETIRE's resolution next, the retire list empty. -/
def RetiredRepair.state : State :=
  { State.reset with
    part := .run, walk := none, dir := [(0, RetiredRepair.dirSet)], tt := State.reset.tt.set 0 RetiredRepair.entry
    recallUnit := { RecallUnit.idle with accesses := [0] }, claims := [.recallUnit] }

/-- The retire list after an event. -/
def retireListAfter (c : Instr) (s : State) : Option (List RetireItem) :=
  match exec c s with
  | .next t => some t.integ.retireList
  | _ => none

theorem retireListAfter_of_next {c : Instr} {s t : State} (h : exec c s = .next t) :
    retireListAfter c s = some t.integ.retireList := by
  unfold retireListAfter
  rw [h]

namespace RetiredRepair

theorem record_dirSet (v : Way) (r : Record) (h : dirSet.record v = some r) : v = 4 ∧ r = record := by
  have hall : ∀ w : Way, dirSet.record w = none ∨ w = 4 ∧ dirSet.record w = some record := by decide +kernel
  rcases hall v with hn | ⟨hv, hr⟩
  · rw [hn] at h
    cases h
  · exact ⟨hv, Option.some.inj (h.symm.trans hr)⟩

theorem lawful_state : state.lawful := by
  refine ⟨by decide +kernel, fun j v r h => ?_⟩
  by_cases hj : 0 = j
  · have hd : state.dir.find j = dirSet := if_pos hj
    rw [hd] at h
    obtain ⟨-, rfl⟩ := record_dirSet v r h
    trivial
  · have hd : state.dir.find j = DirSet.empty := if_neg hj
    have hempty : ∀ w : Way, DirSet.empty.record w = none := by decide +kernel
    rw [hd, hempty] at h
    cases h

/-- The checks of the access find nothing: the set is as it was. -/
theorem dirSet_checked : (state.checked 0 []).dirSet 0 = dirSet := by decide +kernel

theorem onLine_checked : (state.checked 0 []).onLine 0 4 record := by
  refine ⟨by decide +kernel, by decide +kernel, fun v q h _ => (record_dirSet v q ?_).1⟩
  rw [← dirSet_checked]
  exact h

theorem lineBound_checked : (state.checked 0 []).lineBound 0 (some 0) := by
  have hall : ∀ w : Way, (state.checked 0 []).findLine 0 = some w → ((state.checked 0 []).slot 0 w).bound = some 0 := by
    decide +kernel
  exact hall

theorem reservation_checked : ∀ v : Way, ((state.checked 0 []).slot 0 v).reservation ≠ some 0 := by decide +kernel

/-- The slot is not on the retire list that the event leaves. -/
theorem retireListAfter_state : retireListAfter (.repairResolution []) state = some [] := by decide +kernel

end RetiredRepair

/-- Refutes O36: a poisoned repair of a RETIRE whose record lies in a RETIRED slot leaves the slot off the retire list. -/
theorem not_repairResolutionSettlesRecord : ¬ Obligations.RepairResolutionSettlesRecord := by
  intro h
  obtain ⟨t, ht, -, hretire, -⟩ := h.1 RetiredRepair.state [] 0 4 RetiredRepair.record (by decide +kernel)
    RetiredRepair.lawful_state ⟨by decide +kernel, by decide +kernel⟩ RetiredRepair.onLine_checked (by decide +kernel)
    (by decide +kernel)
  obtain ⟨-, -, hpoison⟩ := hretire (by decide +kernel) (by decide +kernel) RetiredRepair.lineBound_checked
    RetiredRepair.reservation_checked
  obtain ⟨-, hwaits⟩ := (hpoison rfl).2
  obtain ⟨-, -, -, -, hlist, -⟩ := hwaits (by decide +kernel)
  have hjoined : t.integ.retireList = [⟨0, 4, .waitRoom⟩] := (hlist (by decide +kernel)).1
  have hleft := (retireListAfter_of_next ht).symm.trans RetiredRepair.retireListAfter_state
  rw [hjoined] at hleft
  exact List.cons_ne_nil _ _ (Option.some.inj hleft)

end Sys2Proof.Machine
end

section
/-! PROOF. What a message at a port of the domain comes to (R25, R41, R43, R105, R189): the arrival, what its answers leave
alone, the end of its event. -/

namespace Sys2Proof.Machine

/-! ### The arrival (R105) -/

/-- A message at a port of the domain is taken, and its event ends. -/
theorem State.arrive_member {s : State} {p : Agent} (hp : s.pwrok = true) (hm : s.member p = true)
    (take : State → State) : s.arrive p take = (take s.clearOutputs).finish := by
  unfold State.arrive
  rw [if_pos hp, if_pos hm]

/-- The command of a request is its arrival. -/
theorem exec_requestCommand {r : Request} (h : r.spelled) (s : State) : exec r.command s = .next (s.requestArrives r) := by
  obtain ⟨p, kind, tag, line, full⟩ := r
  cases kind with
  | rdOwn => rfl
  | rdShared | upgrade | writeback | drop | leave =>
    obtain rfl : full = false := h nofun
    rfl

theorem exec_request {s : State} {r : Request} (h : r.spelled) (hp : s.pwrok = true) (hm : s.member r.port = true) :
    exec r.command s = .next (s.clearOutputs.takeRequest r).finish := by
  rw [exec_requestCommand h]
  exact congrArg _ (State.arrive_member hp hm _)

theorem exec_badKind {s : State} {p : Agent} (hp : s.pwrok = true) (hm : s.member p = true) (ch : Bool)
    (code : BitVec 3) : exec (.badKind p ch code) s = .next (s.clearOutputs.takeBadKind p ⟨ch, code⟩).finish :=
  congrArg _ (State.arrive_member hp hm _)

theorem exec_done {s : State} {p : Agent} (hp : s.pwrok = true) (hm : s.member p = true) (n : Txn) :
    exec (.done p n) s = .next (s.clearOutputs.takeDone p n).finish :=
  congrArg _ (State.arrive_member hp hm _)

/-! ### Messages and reports alone -/

/-- A reading of the state that the messages and reports of the step do not touch. -/
theorem State.of_clearOutputs {α : Type} (f : State → α) (hf : ∀ z : State, f z.clearOutputs = f z) {s u : State}
    (h : u.clearOutputs = s.clearOutputs) : f u = f s := by rw [← hf u, h, hf s]

theorem State.clearOutputs_send (s : State) (p : Agent) (m : OutMsg) : (s.send p m).clearOutputs = s.clearOutputs := by
  unfold State.send
  split <;> rfl

theorem State.updPort_updPort (s : State) (p : Agent) (f g : Port → Port) :
    (s.updPort p f).updPort p g = s.updPort p fun q => g (f q) := by
  unfold State.updPort
  rw [State.port_setPort_same]
  unfold State.setPort
  rw [Vector.set_set]

/-- A credit spent and returned leaves the port as it was. -/
theorem State.spendCredit_returned {s : State} {p : Agent} (h : (s.port p).credits ≠ 0) :
    (s.spendCredit p).updPort p (fun q => { q with credits := q.credits + 1 }) = s := by
  have hport : ({ s.port p with credits := (s.port p).credits - 1 + 1 } : Port) = s.port p := by
    rw [Nat.sub_add_cancel (Nat.pos_of_ne_zero h)]
  unfold State.spendCredit
  rw [State.updPort_updPort]
  exact (congrArg (s.setPort p) hport).trans (s.setPort_self p)

theorem State.member_spendCredit (s : State) (p q : Agent) : (s.spendCredit p).member q = s.member q :=
  State.member_updPort (f := fun x => { x with credits := x.credits - 1 }) (fun _ => rfl) q

/-- A request answered at its arrival leaves its port as it was, its credit spent and returned (R25, R110). -/
theorem State.clearOutputs_answerNow {s : State} {p : Agent} (h : (s.port p).credits ≠ 0) (m : OutMsg) :
    ((s.spendCredit p).answerNow p m).clearOutputs = s.clearOutputs := by
  refine (State.clearOutputs_send _ p .credit).trans ?_
  refine (congrArg (fun z : State => z.updPort p fun q => { q with credits := q.credits + 1 })
    (State.clearOutputs_send (s.spendCredit p) p m)).trans ?_
  exact congrArg State.clearOutputs (State.spendCredit_returned h)

theorem State.clearOutputs_spentReturned {s : State} {p : Agent} (h : (s.port p).credits ≠ 0) :
    ((s.spendCredit p).returnCredit p).clearOutputs = s.clearOutputs :=
  (State.clearOutputs_send _ p .credit).trans (congrArg State.clearOutputs (State.spendCredit_returned h))

theorem State.outbox_returnCredit {s : State} {p : Agent} (h : s.member p = true) :
    (s.returnCredit p).outbox = s.outbox ++ [⟨p, .credit⟩] := by
  unfold State.returnCredit
  rw [State.outbox_send, if_pos]
  · rfl
  · exact (State.member_updPort (f := fun q => { q with credits := q.credits + 1 }) (fun _ => rfl) p).trans h

theorem State.outbox_answerNow {s : State} {p : Agent} (h : s.member p = true) (m : OutMsg) :
    (s.answerNow p m).outbox = s.outbox ++ [⟨p, m⟩, ⟨p, .credit⟩] := by
  unfold State.answerNow
  rw [State.outbox_returnCredit ((s.member_send p m p).trans h), State.outbox_send, if_pos h, List.append_assoc]
  rfl

theorem State.reports_answerNow (s : State) (p : Agent) (m : OutMsg) : (s.answerNow p m).reports = s.reports :=
  (State.reports_returnCredit _ p).trans (State.reports_send s p m)

/-- What an event that made messages and reports alone, from the calm state `s`, has left in `t`; `u` is the state it left
before its end. -/
structure OnlyOutputs (s u t : State) : Prop where
  tt : t.tt = s.tt
  ports : t.ports = s.ports
  intake : t.intake = s.intake
  dir : t.dir = s.dir
  cfg : t.cfg = s.cfg
  reports : t.reports = u.reports
  outbox : t.outbox = u.outbox

theorem OnlyOutputs.finish {s u : State} (hc : s.calm) (h : u.clearOutputs = s.clearOutputs) :
    OnlyOutputs s u u.finish := by
  have of {α : Type} (f : State → α) (hf : ∀ z : State, f z.clearOutputs = f z) : f u = f s :=
    State.of_clearOutputs f hf h
  have hcalm : u.calm := (of State.calm fun _ => rfl).mpr hc
  have g := CalmEnd.finish hcalm
  exact ⟨g.table.trans (of State.tt fun _ => rfl), g.ports.trans (of State.ports fun _ => rfl),
    g.intake.trans (of State.intake fun _ => rfl), g.ends.dir.trans (of State.dir fun _ => rfl),
    g.ends.cfg.trans (of State.cfg fun _ => rfl), g.ends.reports, g.outbox⟩

theorem OnlyOutputs.port {s u t : State} (h : OnlyOutputs s u t) (p : Agent) : t.port p = s.port p := by
  unfold State.port
  rw [h.ports]

theorem OnlyOutputs.entry {s u t : State} (h : OnlyOutputs s u t) (e : EntryIdx) : t.entry e = s.entry e := by
  unfold State.entry
  rw [h.tt]

/-! ### PROTOCOL reports and the fence of PROTO_FENCE (R43, R114) -/

/-- The report of a PROTOCOL error (R43, R155). -/
def protocolReport (p : Agent) (c : ProtoCause) (m : MsgCode) (l : Option Line) (n : Option Txn) : Report :=
  { kind := .protocol, agent := some p, cause := some c, msg := some m, line := l, txn := n }

/-- With PROTO_FENCE clear a PROTOCOL error is a report. -/
theorem State.protocolError_clear {s : State} (h : s.cfg.protoFence = false) (p : Agent) (c : ProtoCause) (m : MsgCode)
    (l : Option Line) (n : Option Txn) : s.protocolError p c m l n = s.report (protocolReport p c m l n) := by
  unfold State.protocolError
  rw [h]
  rfl

/-- With PROTO_FENCE set it fences its port too. -/
theorem State.protocolError_fence {s : State} (h : s.cfg.protoFence = true) (p : Agent) (c : ProtoCause) (m : MsgCode)
    (l : Option Line) (n : Option Txn) :
    s.protocolError p c m l n = (s.report (protocolReport p c m l n)).fence p .protocol none none := by
  unfold State.protocolError
  rw [h]
  rfl

/-- The end of an event in HALTED changes the claims, the error reporting unit and no more. -/
theorem State.unreported_finish_halted {s : State} (h : s.part = .halted) : s.finish.unreported = s.unreported := by
  unfold State.finish State.settle
  rw [State.unreported_takeReports, h]
  dsimp only
  unfold State.refreshService
  split
  · split <;> rfl
  · rfl

theorem State.fence_halted {s : State} {p : Agent} (hr : s.part = .halted) (hm : s.member p = true) (c : FenceCause)
    (n : Option Txn) (l : Option Line) : s.fence p c n l =
      (s.fenceHalted p c).fenceDamage.report { kind := .agentFenced, agent := some p, txn := n, line := l } := by
  unfold State.fence
  rw [if_pos hm, if_pos hr]

theorem State.fence_not_halted {s : State} {p : Agent} (hr : s.part ≠ .halted) (hm : s.member p = true) (c : FenceCause)
    (n : Option Txn) (l : Option Line) : s.fence p c n l =
      (s.fenceRun p c).fenceDamage.report { kind := .agentFenced, agent := some p, txn := n, line := l } := by
  unfold State.fence
  rw [if_pos hm, if_neg hr]

/-- A fence of a port of the domain makes one report (R114). -/
theorem State.reports_fence {s : State} {p : Agent} (hm : s.member p = true) (c : FenceCause) (n : Option Txn)
    (l : Option Line) :
    (s.fence p c n l).reports = s.reports ++ [{ kind := .agentFenced, agent := some p, txn := n, line := l }] := by
  by_cases hr : s.part = .halted
  · rw [State.fence_halted hr hm]
    rfl
  · rw [State.fence_not_halted hr hm]
    exact congrArg (· ++ _) (FenceLeaves.run s p c).reports

/-- A fence in HALTED at the end of its event (R86, R118). -/
theorem State.fence_cutOffHalted {s : State} {p : Agent} (hr : s.part = .halted) (hm : s.member p = true) (c : FenceCause)
    (n : Option Txn) (l : Option Line) : s.cutOffHalted (s.fence p c n l).finish p c := by
  have hport : (s.fenceHalted p c).port p = { s.port p with
      state := .fenced, tags := 0, credits := 0, lastFence := some c, snapshot := s.inUseSet
      probeQueue := [], sends := [] } := by
    unfold State.fenceHalted State.fencePortState
    rw [State.port_updPort_same, State.port_updPort_same]
  rw [State.fence_halted hr hm]
  have hu := State.unreported_finish_halted (s := (s.fenceHalted p c).fenceDamage.report
    { kind := .agentFenced, agent := some p, txn := n, line := l }) hr
  simp only [State.unreported, Prod.mk.injEq] at hu
  obtain ⟨⟨-, -, -, -, -, htt, hpool, -, hports⟩, hintake, -, hpurge, hleave, -⟩ := hu
  have hp : ((s.fenceHalted p c).fenceDamage.report
      { kind := .agentFenced, agent := some p, txn := n, line := l }).finish.port p = (s.fenceHalted p c).port p :=
    congrArg (fun v : Vector Port 8 => v.get p) hports
  unfold State.cutOffHalted
  rw [hp, hport]
  exact ⟨rfl, rfl, rfl, rfl, rfl, rfl, rfl, htt, hpool, hintake, hleave, hpurge⟩

/-- What a PROTOCOL error comes to with PROTO_FENCE set; `v` is the state before it, with no report and beside the messages
and reports the state `s`. -/
theorem State.protoFenced_finish {s v : State} {p : Agent} (hv : v.clearOutputs = s.clearOutputs) (hr : v.reports = [])
    (hm : s.member p = true) (hf : s.cfg.protoFence = true) (c : ProtoCause) (m : MsgCode) (l : Option Line)
    (n : Option Txn) : s.protoFenced (v.protocolError p c m l n).finish p (protocolReport p c m l n) := by
  have of {α : Type} (f : State → α) (hf : ∀ z : State, f z.clearOutputs = f z) :
      f (v.report (protocolReport p c m l n)) = f s := State.of_clearOutputs f hf hv
  have hfence : v.cfg.protoFence = true := (of (fun z => z.cfg.protoFence) fun _ => rfl).trans hf
  have hmember := (of (fun z => z.member p) fun _ => rfl).trans hm
  have hreports : (v.report (protocolReport p c m l n)).reports = [protocolReport p c m l n] := by
    rw [State.reports_report, hr]
    rfl
  have hpart := of State.part fun _ => rfl
  have hcut (t : State) := of (fun z => z.cutOff t p .protocol) fun _ => rfl
  have hcutHalted (t : State) := of (fun z => z.cutOffHalted t p .protocol) fun _ => rfl
  rw [State.protocolError_fence hfence]
  generalize v.report (protocolReport p c m l n) = a at *
  refine ⟨?_, fun h => ?_, fun h => ?_⟩
  · rw [(Finishes.finish _).reports, State.reports_fence hmember, hreports]
    rfl
  · exact (hcut _).mp (a.fence_cutOff p .protocol none none (hpart.trans h) hmember).1
  · exact (hcutHalted _).mp (State.fence_cutOffHalted (hpart.trans h) hmember .protocol none none)

/-- A PROTOCOL error writes neither the array nor the settings. -/
theorem State.protocolError_frame {s v : State} (hv : v.clearOutputs = s.clearOutputs) (p : Agent) (c : ProtoCause)
    (m : MsgCode) (l : Option Line) (n : Option Txn) :
    (v.protocolError p c m l n).finish.dir = s.dir ∧ (v.protocolError p c m l n).finish.cfg = s.cfg :=
  have g := (Ambient.protocolError v p c m l n).trans (Ambient.finish _)
  ⟨g.dir.trans (State.of_clearOutputs State.dir (fun _ => rfl) hv),
    g.cfg.trans (State.of_clearOutputs State.cfg (fun _ => rfl) hv)⟩

end Sys2Proof.Machine
end

section
/-! PROOF. The checks of a request at its arrival, in their order (R25, R109): O7, O9; messages of no kind: O11. -/

namespace Sys2Proof.Machine

/-! ### The checks (R25) -/

theorem State.port_spendCredit (s : State) (p : Agent) :
    (s.spendCredit p).port p = { s.port p with credits := (s.port p).credits - 1 } := State.port_updPort_same s p _

/-- The checks of an arriving request in their order, read from the state before its event. -/
theorem State.takeRequest_eq (s : State) (r : Request) : s.clearOutputs.takeRequest r =
    if (s.port r.port).credits = 0 then
      s.clearOutputs.protocolError r.port .creditOverrun r.kind.code (some r.line) none
    else if has (s.port r.port).tags r.tag then
      ((s.clearOutputs.spendCredit r.port).returnCredit r.port).protocolError r.port .tagInUse r.kind.code
        (some r.line) none
    else if s.part = .halted then (s.clearOutputs.spendCredit r.port).answerNow r.port (.nack r.tag r.line .halted)
    else if r.kind.needsGrant ∧ (s.port r.port).state ≠ .active then
      (s.clearOutputs.spendCredit r.port).answerNow r.port (.nack r.tag r.line .leaving)
    else if r.kind ≠ .leave ∧ !s.cfg.covers r.line then (s.clearOutputs.spendCredit r.port).refuseRange r
    else (s.clearOutputs.spendCredit r.port).joinIntake r := by
  unfold State.takeRequest State.checkRequest
  rw [State.port_spendCredit]
  rfl

/-! ### A request joins the queue -/

/-- A request at the end of the queue leaves a calm state calm, unless it is a LEAVE at a served head. -/
theorem State.calm_enqueue {s : State} {r : Request} (hr : r.kind = .leave → s.intake ≠ [] ∨ s.pause = true)
    (h : s.calm) : (s.setIntake (s.intake ++ [r])).calm := by
  intro hrun
  obtain ⟨hpumped, hhead, hdone, hwalk⟩ := h hrun
  refine ⟨hpumped, fun q hq hk => ?_, fun p hp => ?_, hwalk⟩
  · have hq' : (s.intake ++ [r]).head? = some q := hq
    cases hi : s.intake with
    | nil =>
      rw [hi] at hq'
      obtain rfl : r = q := Option.some.inj hq'
      exact (hr hk).resolve_left (absurd hi)
    | cons a rest =>
      rw [hi] at hq'
      exact hhead q (by rw [hi]; exact hq') hk
  · have hn := hdone p hp
    have hle : (s.setIntake (s.intake ++ [r])).leaveDoneReady p = true → s.leaveDoneReady p = true := by
      unfold State.leaveDoneReady
      simp only [Bool.and_eq_true]
      rintro ⟨⟨⟨⟨hcomplete, hretracts⟩, hintake⟩, hwaiting⟩, hprobes⟩
      refine ⟨⟨⟨⟨hcomplete, hretracts⟩, ?_⟩, hwaiting⟩, hprobes⟩
      have happ : (s.intake ++ [r]).all (fun q => decide (q.port ≠ p)) = true := hintake
      rw [List.all_append, Bool.and_eq_true] at happ
      exact happ.1
    exact Bool.eq_false_iff.2 fun ht => absurd (hle ht) (by rw [hn]; exact Bool.false_ne_true)

/-- What the port of a request that joins the queue has. -/
def Port.joined (tag : ReqTag) (q : Port) : Port := { q with credits := q.credits - 1, tags := addTo q.tags tag }

/-- A request that passes every check: its credit spent, its tag outstanding, and the request at the end of the queue. -/
def State.joined (s : State) (r : Request) : State :=
  (s.clearOutputs.updPort r.port (Port.joined r.tag)).setIntake (s.intake ++ [r])

theorem State.takeRequest_joins {s : State} {r : Request} (hc : (s.port r.port).credits ≠ 0)
    (ht : has (s.port r.port).tags r.tag = false) (hh : s.part ≠ .halted)
    (hl : r.kind.needsGrant = true → (s.port r.port).state = .active) (hw : r.kind = .leave ∨ s.cfg.covers r.line = true) :
    s.clearOutputs.takeRequest r = s.joined r := by
  have hcovers : ¬ (r.kind ≠ .leave ∧ (!s.cfg.covers r.line) = true) := by
    rintro ⟨hk, hn⟩
    rw [hw.resolve_left hk] at hn
    exact Bool.false_ne_true hn
  rw [State.takeRequest_eq, if_neg hc, if_neg (by rw [ht]; exact Bool.false_ne_true), if_neg hh,
    if_neg fun h => h.2 (hl h.1), if_neg hcovers]
  unfold State.joinIntake State.spendCredit
  rw [State.updPort_updPort]
  rfl

theorem State.port_joined (s : State) (r : Request) (q : Agent) :
    (s.joined r).port q = if q = r.port then (s.port r.port).joined r.tag else s.port q :=
  State.port_updPort s.clearOutputs r.port q _

theorem State.calm_joined {s : State} {r : Request} (hr : r.kind = .leave → s.intake ≠ [] ∨ s.pause = true)
    (h : s.calm) : (s.joined r).calm := by
  refine State.calm_congr (s := s.setIntake (s.intake ++ [r])) rfl rfl rfl rfl rfl rfl rfl (fun p => ?_)
    (State.calm_enqueue hr h)
  rw [State.port_joined]
  split
  · next hp => rw [hp]; exact ⟨rfl, rfl, rfl⟩
  · exact ⟨rfl, rfl, rfl⟩

/-- An event without reports halts nothing. -/
theorem State.haltingKind_silent {s : State} (h : s.reports = []) : s.haltingKind = none :=
  State.haltingKind_none s fun r hr => absurd hr (by rw [h]; exact List.not_mem_nil)

/-- Settles O7: the request joins, and the calm state it leaves settles without touching it. -/
theorem requestJoinsIntake : Obligations.RequestJoinsIntake := by
  intro s r hsp hk hp hrun hcalm hm hc ht hl hw
  have htake := State.takeRequest_joins hc ht (by rw [hrun]; decide) hl (.inr hw)
  have g := CalmEnd.finish (State.calm_joined (fun h => absurd h hk) hcalm)
  have hport (q : Agent) : (s.joined r).finish.port q = (s.joined r).port q := by
    unfold State.port
    rw [g.ports]
  obtain ⟨hpart, hsvc⟩ := g.ends.calm (State.haltingKind_silent rfl)
  refine ⟨_, (exec_request hsp hp hm).trans (congrArg _ (congrArg State.finish htake)), g.intake, g.outbox, g.ends.reports,
    hpart.trans hrun, ?_, ?_, ?_, fun q hq => ?_, fun e => g.entry e, g.pool, g.ends.dir, g.ends.cfg, g.ends.integ, hsvc⟩
  · rw [hport, State.port_joined, if_pos rfl]
    rfl
  · rw [hport, State.port_joined, if_pos rfl]
    rfl
  · rw [hport, State.port_joined, if_pos rfl]
    rfl
  · rw [hport, State.port_joined, if_neg hq]

/-! ### O9 -/

/-- What a request refused at its arrival leaves at the end of its event: its port as it was, and no request queued. -/
theorem OnlyOutputs.refused {s u t : State} (h : OnlyOutputs s u t) (p : Agent) :
    t.intake = s.intake ∧ (t.port p).still = (s.port p).still := ⟨h.intake, by rw [h.port]⟩

/-- What a request answered at once leaves, by the answer. -/
theorem OnlyOutputs.answered {s : State} {p : Agent} (hcalm : s.calm) (hm : s.member p = true)
    (hc : (s.port p).credits ≠ 0) (m : OutMsg) {u : State}
    (hu : u.clearOutputs = ((s.clearOutputs.spendCredit p).answerNow p m).clearOutputs)
    (ho : u.outbox = ((s.clearOutputs.spendCredit p).answerNow p m).outbox) :
    u.finish.intake = s.intake ∧ (u.finish.port p).still = (s.port p).still ∧ u.finish.reports = u.reports
      ∧ ∃ more, u.finish.outbox = [⟨p, m⟩, ⟨p, .credit⟩] ++ more := by
  have hmember : (s.clearOutputs.spendCredit p).member p = true := (State.member_spendCredit _ _ _).trans hm
  have g := OnlyOutputs.finish hcalm (hu.trans (State.clearOutputs_answerNow (s := s.clearOutputs) hc m))
  refine ⟨g.intake, (g.refused p).2, g.reports, [], ?_⟩
  rw [g.outbox, ho, State.outbox_answerNow hmember]
  rfl

/-- Settles O9: the checks in their order, each with its answer; a PROTOCOL report alone, or with its fence. -/
theorem requestChecksInOrder : Obligations.RequestChecksInOrder := by
  refine ⟨fun s r hsp hp hm hf hcalm => ⟨_, exec_request hsp hp hm, ?_⟩, fun s r hsp hp hm hf hwhy =>
    ⟨_, exec_request hsp hp hm, ?_⟩⟩
  · by_cases hc : (s.port r.port).credits = 0
    · rw [State.takeRequest_eq, if_pos hc, if_pos hc, State.protocolError_clear (s := s.clearOutputs) hf]
      have g := OnlyOutputs.finish (u := s.clearOutputs.report
        (protocolReport r.port .creditOverrun r.kind.code (some r.line) none)) hcalm rfl
      exact ⟨g.intake, (g.refused r.port).2, g.reports⟩
    have hanswered {m : OutMsg} {u : State} := OnlyOutputs.answered (u := u) hcalm hm hc m
    by_cases ht : has (s.port r.port).tags r.tag = true
    · have hfence : ((s.clearOutputs.spendCredit r.port).returnCredit r.port).cfg.protoFence = false := by
        rw [State.cfg_returnCredit]
        exact hf
      have hmember : (s.clearOutputs.spendCredit r.port).member r.port = true := (State.member_spendCredit _ _ _).trans hm
      rw [State.takeRequest_eq, if_neg hc, if_neg hc, if_pos ht, if_pos ht, State.protocolError_clear hfence]
      have g := OnlyOutputs.finish (u := ((s.clearOutputs.spendCredit r.port).returnCredit r.port).report
        (protocolReport r.port .tagInUse r.kind.code (some r.line) none)) hcalm
        (State.clearOutputs_spentReturned (s := s.clearOutputs) hc)
      refine ⟨g.intake, (g.refused r.port).2, ⟨[], g.outbox.trans (State.outbox_returnCredit hmember)⟩, ?_⟩
      rw [g.reports, State.reports_report, State.reports_returnCredit]
      rfl
    by_cases hh : s.part = .halted
    · rw [State.takeRequest_eq, if_neg hc, if_neg hc, if_neg ht, if_neg ht, if_pos hh, if_pos hh]
      obtain ⟨hi, hstill, hr, ho⟩ := hanswered rfl rfl
      exact ⟨hi, hstill, hr.trans (State.reports_answerNow _ _ _), ho⟩
    by_cases hl : r.kind.needsGrant = true ∧ (s.port r.port).state ≠ .active
    · rw [State.takeRequest_eq, if_neg hc, if_neg hc, if_neg ht, if_neg ht, if_neg hh, if_neg hh, if_pos hl, if_pos hl]
      obtain ⟨hi, hstill, hr, ho⟩ := hanswered rfl rfl
      exact ⟨hi, hstill, hr.trans (State.reports_answerNow _ _ _), ho⟩
    by_cases hw : r.kind ≠ .leave ∧ s.cfg.covers r.line = false
    · rw [State.takeRequest_eq, if_neg hc, if_neg hc, if_neg ht, if_neg ht, if_neg hh, if_neg hh, if_neg hl, if_neg hl,
        if_pos hw, if_pos ⟨hw.1, by rw [hw.2]; rfl⟩]
      obtain ⟨hi, hstill, hr, ho⟩ := hanswered (u := (s.clearOutputs.spendCredit r.port).refuseRange r) rfl rfl
      exact ⟨hi, hstill, hr.trans (congrArg (· ++ [rangeReport r]) (State.reports_answerNow _ _ _)), ho⟩
    · rw [if_neg hc, if_neg ht, if_neg hh, if_neg hl, if_neg hw]
      intro hk
      have hcovers : s.cfg.covers r.line = true := by simpa [hk] using hw
      have hactive : r.kind.needsGrant = true → (s.port r.port).state = .active := by simpa using hl
      rw [State.takeRequest_joins hc (Bool.eq_false_iff.2 ht) hh hactive (.inr hcovers)]
      exact (CalmEnd.finish (State.calm_joined (fun h => absurd h hk) hcalm)).intake
  · by_cases hc : (s.port r.port).credits = 0
    · rw [State.takeRequest_eq, if_pos hc, if_pos hc]
      exact State.protoFenced_finish (v := s.clearOutputs) rfl rfl hm hf .creditOverrun r.kind.code (some r.line) none
    · rw [State.takeRequest_eq, if_neg hc, if_neg hc, if_pos (hwhy.resolve_left hc)]
      exact State.protoFenced_finish (State.clearOutputs_spentReturned (s := s.clearOutputs) hc)
        (State.reports_returnCredit _ _) hm hf .tagInUse r.kind.code (some r.line) none

/-! ### O11: messages of no kind (R189) -/

/-- A message of no kind comes to one PROTOCOL error, beside the messages of the step. -/
theorem State.takeBadKind_error (s : State) (p : Agent) (ch : Bool) (code : BitVec 3) :
    ∃ v : State, v.clearOutputs = s.clearOutputs ∧ v.reports = s.reports ∧ s.takeBadKind p ⟨ch, code⟩ =
      v.protocolError p (if ch = false ∧ (s.port p).credits = 0 then .creditOverrun else .badKind) ⟨ch, code⟩ none none := by
  unfold State.takeBadKind
  cases ch with
  | true => exact ⟨s, rfl, rfl, rfl⟩
  | false =>
    by_cases hc : (s.port p).credits = 0
    · exact ⟨s, rfl, rfl, by rw [if_neg Bool.false_ne_true, if_pos hc, if_pos ⟨rfl, hc⟩]; rfl⟩
    · refine ⟨_, State.clearOutputs_spentReturned hc, State.reports_returnCredit _ p, ?_⟩
      rw [if_neg Bool.false_ne_true, if_neg hc, if_neg fun h => hc h.2]

/-- Settles O11: the PROTOCOL error of a message of no kind, alone or with its fence. -/
theorem badKindIsReported : Obligations.BadKindIsReported := by
  refine ⟨fun s p ch code hp hm hf hcalm => ⟨_, exec_badKind hp hm ch code, ?_⟩,
    fun s p ch code hp hm hf => ⟨_, exec_badKind hp hm ch code, ?_⟩⟩
  · obtain ⟨v, hv, hr, he⟩ := s.clearOutputs.takeBadKind_error p ch code
    have hvf : v.cfg.protoFence = false := (State.of_clearOutputs (fun z => z.cfg.protoFence) (fun _ => rfl) hv).trans hf
    have hover (hno : ch = true ∨ (s.port p).credits ≠ 0) : ¬ (ch = false ∧ (s.clearOutputs.port p).credits = 0) :=
      fun h => hno.elim (fun ht => Bool.false_ne_true (h.1.symm.trans ht)) fun hn => hn h.2
    generalize hcause : (if ch = false ∧ (s.clearOutputs.port p).credits = 0 then ProtoCause.creditOverrun
      else .badKind) = cause at he
    rw [he, State.protocolError_clear hvf]
    have g := OnlyOutputs.finish (u := v.report (protocolReport p cause ⟨ch, code⟩ none none)) hcalm hv
    have hreports := g.reports
    rw [State.reports_report, hr] at hreports
    refine ⟨(g.refused p).2, g.intake, g.dir, g.cfg, fun hno => hreports.trans ?_, fun hch hc => hreports.trans ?_⟩
    · rw [← hcause, if_neg (hover hno)]
      rfl
    · rw [← hcause, if_pos ⟨hch, hc⟩]
      rfl
  · obtain ⟨v, hv, hr, he⟩ := s.clearOutputs.takeBadKind_error p ch code
    rw [he]
    obtain ⟨hdir, hcfg⟩ := State.protocolError_frame hv p (if ch = false ∧ (s.port p).credits = 0 then
      .creditOverrun else .badKind) ⟨ch, code⟩ none none
    exact ⟨hdir, hcfg, State.protoFenced_finish hv hr hm hf _ ⟨ch, code⟩ none none⟩

end Sys2Proof.Machine
end

section
/-! PROOF. O12: a DONE, or its timer, ends the wait that it matches; another DONE is reported (R41, R55, R56). -/

namespace Sys2Proof.Machine

/-! ### A claim that stands at the end of an event -/

theorem State.mem_claims_haltCommand {s : State} {e : EntryIdx} (h : Claim.entry e ∈ s.claims) :
    Claim.entry e ∈ s.haltCommand.claims := by
  unfold State.haltCommand
  split
  · exact (List.mem_erase_of_ne fun he => by cases he).2 h
  · exact h

theorem State.mem_claims_takeReports {s : State} {e : EntryIdx} (h : Claim.entry e ∈ s.claims) :
    Claim.entry e ∈ s.takeReports.claims := by
  unfold State.takeReports
  dsimp only
  split
  · exact State.mem_claims_haltCommand h
  · exact h

/-- An entry whose wait for its DONE is over wants its close access (R55). -/
theorem State.wants_awaitDone {s : State} {e : EntryIdx} (hp : (s.entry e).phase = .awaitDone)
    (hc : (s.entry e).closePending = true) : s.wants (.entry e) = true := by
  show (s.entry e).wantsAccess = true
  unfold Entry.wantsAccess
  rw [hp]
  exact hc

/-- Such an entry has its claim raised at the end of an event in RUN, whether or not the event's
reports halt the part. -/
theorem State.mem_claims_finish {s : State} {e : EntryIdx} (hr : s.part = .run) (hp : (s.entry e).phase = .awaitDone)
    (hc : (s.entry e).closePending = true) : Claim.entry e ∈ s.finish.claims := by
  have he := (Settles.settle s).entry e
  have hphase := (Entry.of_core Entry.phase (fun _ => rfl) he).trans hp
  have hclose := (Entry.of_core Entry.closePending (fun _ => rfl) he).trans hc
  refine State.mem_claims_takeReports ?_
  rw [State.settle_run hr] at hphase hclose ⊢
  generalize s.beforeListing.listAccesses = b at hphase hclose ⊢
  exact (State.mem_refreshClaims b _).2 (State.wants_awaitDone hphase hclose)

/-! ### The wait ended -/

theorem Entry.core_endWait (s : State) (e i : EntryIdx) : ((s.endWait e).entry i).core =
    if i = e then { (s.entry e).core with doneTimer := none, closePending := true } else (s.entry i).core := by
  unfold State.endWait
  rw [State.entry_updEntry]
  split <;> rfl

theorem State.mem_claims_endWait {s u : State} {e : EntryIdx} (hr : s.part = .run) (hp : (s.entry e).phase = .awaitDone)
    (hu : u.part = s.part) (ht : u.tt = (s.endWait e).tt) : Claim.entry e ∈ u.finish.claims := by
  have he : u.entry e = { s.entry e with doneTimer := none, closePending := true } := by
    unfold State.entry
    rw [ht]
    exact State.entry_updEntry_same s e _
  exact State.mem_claims_finish (hu.trans hr) (by rw [he]; exact hp) (by rw [he])

/-- The DONE that R41 accepts. -/
theorem State.doneAccepted_iff (s : State) (p : Agent) (n : Txn) : s.doneAccepted p n = true ↔
    (s.entry (txnIndex n)).phase = .awaitDone ∧ (s.entry (txnIndex n)).closePending = false
      ∧ (s.entry (txnIndex n)).gen = txnGen n ∧ (s.entry (txnIndex n)).kind = some .request
      ∧ (s.entry (txnIndex n)).requester = .agent p := by
  unfold State.doneAccepted
  simp only [Bool.and_eq_true, decide_eq_true_iff, Bool.not_eq_true', and_assoc]

theorem State.takeDone_accepted {s : State} {p : Agent} {n : Txn} (hr : s.part = .run) (h : s.doneAccepted p n = true) :
    s.takeDone p n = s.endWait (txnIndex n) := by
  unfold State.takeDone
  rw [if_neg (by rw [hr]; decide), if_pos h]

theorem State.takeDone_stray {s : State} {p : Agent} {n : Txn} (hr : s.part = .run) (h : ¬ s.doneAccepted p n = true) :
    s.takeDone p n = s.protocolError p .badDone ⟨true, 0⟩ none (some n) := by
  unfold State.takeDone
  rw [if_neg (by rw [hr]; decide), if_neg h]

/-- Settles O12: the accepted DONE and the timer end the wait; a discarded DONE changes nothing; another is reported. -/
theorem doneEndsWaitOrIsReported : Obligations.DoneEndsWaitOrIsReported := by
  refine ⟨fun s p n hp hm => ⟨fun hrun hphase hclose hgen hkind hwho => ⟨_, exec_done hp hm n, ?_⟩,
      fun hhalt => ⟨_, exec_done hp hm n, ?_⟩⟩, fun s p n hp hm hrun hf hcalm hno => ⟨_, exec_done hp hm n, ?_⟩,
    fun s p n hp hm hrun hf hno => ⟨_, exec_done hp hm n, ?_⟩, fun s e hrun hphase htimer => ?_⟩
  · rw [State.takeDone_accepted (s := s.clearOutputs) hrun
      ((State.doneAccepted_iff _ p n).2 ⟨hphase, hclose, hgen, hkind, hwho⟩)]
    have g := Finishes.finish (s.clearOutputs.endWait (txnIndex n))
    obtain ⟨hpart, hsvc⟩ := g.calm (State.haltingKind_silent rfl)
    refine ⟨State.mem_claims_endWait (s := s.clearOutputs) hrun hphase rfl rfl, g.reports, hpart.trans hrun, ?_,
      fun e he => ?_, g.dir, g.cfg, g.integ, hsvc⟩
    · rw [g.entry, Entry.core_endWait, if_pos rfl]
      rfl
    · rw [g.entry, Entry.core_endWait, if_neg he]
      rfl
  · have hu := State.unreported_finish_halted (s := s.clearOutputs.takeDone p n) (by
      unfold State.takeDone
      rw [if_pos (by exact hhalt)]
      exact hhalt)
    unfold State.takeDone at hu ⊢
    rw [if_pos (by exact hhalt)] at hu ⊢
    simp only [State.unreported, Prod.mk.injEq] at hu
    obtain ⟨⟨-, -, -, -, -, htt, -, -, hports⟩, -, -, -, -, -, -, hreports, -⟩ := hu
    exact ⟨htt, hports, hreports⟩
  · rw [State.takeDone_stray (s := s.clearOutputs) hrun fun h => hno ((State.doneAccepted_iff _ p n).1 h),
      State.protocolError_clear (s := s.clearOutputs) hf]
    have g := OnlyOutputs.finish (u := s.clearOutputs.report (protocolReport p .badDone ⟨true, 0⟩ none (some n))) hcalm rfl
    exact ⟨fun e => by rw [g.entry], g.dir, fun q => by rw [g.port], g.reports⟩
  · rw [State.takeDone_stray (s := s.clearOutputs) hrun fun h => hno ((State.doneAccepted_iff _ p n).1 h)]
    obtain ⟨hdir, hcfg⟩ := State.protocolError_frame (v := s.clearOutputs) rfl p .badDone ⟨true, 0⟩ none (some n)
    exact ⟨hdir, hcfg, State.protoFenced_finish (v := s.clearOutputs) rfl rfl hm hf .badDone ⟨true, 0⟩ none (some n)⟩
  · have hruns : s.doneTimerRuns e = true := by
      unfold State.doneTimerRuns
      rw [decide_eq_true hrun, decide_eq_true hphase, htimer]
      rfl
    have g := Finishes.finish ((s.clearOutputs.endWait e).report (s.doneTimeoutReport e))
    refine ⟨_, congrArg Host.Outcome.next (if_pos hruns),
      State.mem_claims_endWait (s := s.clearOutputs) hrun hphase rfl rfl, ?_, g.reports, fun i hi => ?_, g.dir, g.cfg⟩
    · rw [g.entry, State.entry_report, Entry.core_endWait, if_pos rfl]
      rfl
    · rw [g.entry, State.entry_report, Entry.core_endWait, if_neg hi]
      rfl

end Sys2Proof.Machine
end

section
/-! PROOF. Replies and credits to one port, and a LEAVE taken from the head of the intake queue (R52, R113, R122). -/

namespace Sys2Proof.Machine

/-! ### Tags released (R25) -/

/-- The outstanding tags once those of `l` are released. -/
def releaseTags (x : TagSet) (l : List ReqTag) : TagSet := l.foldl (fun x (t : ReqTag) => without x t) x

theorem releaseTags_append (x : TagSet) (l k : List ReqTag) :
    releaseTags x (l ++ k) = releaseTags (releaseTags x l) k := List.foldl_append

theorem has_without_of_not {n : Nat} {x : BitVec n} {j : Nat} (i : Nat) (h : has x j = false) :
    has (without x i) j = false := by
  unfold has without at *
  rw [BitVec.getLsbD_and, h, Bool.false_and]

theorem has_releaseTags {x : TagSet} {l : List ReqTag} {t : ReqTag} (h : has x t = false ∨ t ∈ l) :
    has (releaseTags x l) t = false := by
  unfold releaseTags
  induction l generalizing x with
  | nil => exact h.resolve_right List.not_mem_nil
  | cons a l ih =>
    refine ih ?_
    rcases h with h | h
    · exact .inl (has_without_of_not a h)
    · rcases List.mem_cons.1 h with rfl | h
      · exact .inl (has_without_self _ _)
      · exact .inr h

/-! ### Replies and credits to one port -/

/-- The state but for its ports and messages. -/
def State.offReplies (s : State) : State := { s with ports := Vector.replicate 8 Port.powerOn, outbox := [] }

/-- A reading of the state that neither ports nor messages touch. -/
theorem State.of_offReplies {α : Type} (f : State → α) (hf : ∀ z : State, f z.offReplies = f z) {s t : State}
    (h : t.offReplies = s.offReplies) : f t = f s := by rw [← hf t, h, hf s]

/-- The state `t` after messages to port `p` that release `tags` and return `credits`, from the state `s`. -/
structure Replies (p : Agent) (tags : List ReqTag) (credits : Nat) (sent : List OutMsg) (s t : State) : Prop where
  off : t.offReplies = s.offReplies
  port : t.port p =
    { s.port p with tags := releaseTags (s.port p).tags tags, credits := (s.port p).credits + credits }
  other : ∀ q, q ≠ p → t.port q = s.port q
  outbox : s.member p = true → t.outbox = s.outbox ++ sent.map (Sent.mk p)

theorem Replies.reply (s : State) (p : Agent) (tag : ReqTag) (m : OutMsg) :
    Replies p [tag] 0 [m] s (s.reply p tag m) := by
  refine ⟨?_, ?_, fun q hq => ?_, fun hm => State.outbox_reply hm tag m⟩
  · unfold State.reply State.send
    split <;> rfl
  · rw [State.port_reply, if_pos rfl]
    rfl
  · rw [State.port_reply, if_neg hq]

theorem Replies.returnCredit (s : State) (p : Agent) : Replies p [] 1 [.credit] s (s.returnCredit p) := by
  refine ⟨?_, ?_, fun q hq => ?_, fun hm => State.outbox_returnCredit hm⟩
  · unfold State.returnCredit State.send
    split <;> rfl
  · rw [State.port_returnCredit, if_pos rfl]
    rfl
  · rw [State.port_returnCredit, if_neg hq]

section Compose

variable {p : Agent} {tags tags' : List ReqTag} {credits credits' : Nat} {sent sent' : List OutMsg} {s t u : State}

theorem Replies.member (h : Replies p tags credits sent s t) (q : Agent) : t.member q = s.member q := by
  unfold State.member
  by_cases hq : q = p
  · rw [hq, h.port]
  · rw [h.other q hq]

theorem Replies.trans (h : Replies p tags credits sent s t) (g : Replies p tags' credits' sent' t u) :
    Replies p (tags ++ tags') (credits + credits') (sent ++ sent') s u := by
  refine ⟨g.off.trans h.off, ?_, fun q hq => (g.other q hq).trans (h.other q hq), fun hm => ?_⟩
  · rw [g.port, h.port, releaseTags_append, ← Nat.add_assoc]
  · rw [g.outbox ((h.member p).trans hm), h.outbox hm, List.append_assoc, List.map_append]

end Compose

/-- Each request of a list answered in turn. -/
theorem Replies.foldl {p : Agent} {n : Nat} {sent : Request → List OutMsg} {g : State → Request → State}
    (l : List Request) (h : ∀ s, ∀ r ∈ l, Replies p [r.tag] n (sent r) s (g s r)) (s : State) :
    Replies p (l.map Request.tag) (l.length * n) (l.flatMap sent) s (l.foldl g s) := by
  induction l generalizing s with
  | nil => exact ⟨rfl, by rw [List.length_nil, Nat.zero_mul]; rfl, fun _ _ => rfl, fun _ => (List.append_nil _).symm⟩
  | cons r l ih =>
    have hl := ih (fun u q hq => h u q (List.mem_cons_of_mem _ hq)) (g s r)
    have ht := (h s r (List.mem_cons_self ..)).trans hl
    rw [List.length_cons, Nat.succ_mul, Nat.add_comm]
    exact ht

/-! ### The requests that a LEAVE refuses (R52, R122) -/

theorem grantOf_port {p : Agent} {r : Request} (h : grantOf p r = true) : r.port = p := by
  unfold grantOf at h
  rw [Bool.and_eq_true, decide_eq_true_iff] at h
  exact h.1

/-- The NACK LEAVING of a request (R122). -/
def Request.leavingNack (r : Request) : OutMsg := .nack r.tag r.line .leaving

theorem Replies.nackLeaving {p : Agent} {r : Request} (h : r.port = p) (s : State) :
    Replies p [r.tag] 0 [r.leavingNack] s (s.nackLeaving r) := by
  rw [← h]
  exact .reply s r.port r.tag _

theorem Replies.refuseQueued (s : State) (p : Agent) :
    Replies p ((s.intake.filter (grantOf p)).map Request.tag) ((s.intake.filter (grantOf p)).length * 1)
      ((s.intake.filter (grantOf p)).flatMap fun r => [r.leavingNack, .credit])
      (s.setIntake (s.intake.filter fun r => !grantOf p r)) (s.refuseQueued p) := by
  refine .foldl _ (fun u r hr => ?_) _
  have hp := grantOf_port (List.mem_filter.1 hr).2
  have hc : Replies p [] 1 [.credit] (u.nackLeaving r) ((u.nackLeaving r).returnCredit r.port) := by
    rw [hp]
    exact .returnCredit _ p
  exact (Replies.nackLeaving hp u).trans hc

theorem Replies.refuseWaiting (s : State) (p : Agent) :
    Replies p ((s.selectedWaiters (grantOf p)).map Request.tag) ((s.selectedWaiters (grantOf p)).length * 0)
      ((s.selectedWaiters (grantOf p)).flatMap fun r => [r.leavingNack])
      (s.removeWaiters (grantOf p)) (s.refuseWaiting p) :=
  .foldl _ (fun u _ hr => .nackLeaving (grantOf_port (State.selectedWaiters_sel hr)) u) _

/-! ### A LEAVE taken (R122, R124) -/

/-- What a LEAVE taken from ACTIVE port `p` leaves. -/
structure LeaveTaken (p : Agent) (s t : State) : Prop where
  port : t.port p = { s.port p with
    state := .leaving .drain, credits := (s.port p).credits + 1 + (s.intake.filter (grantOf p)).length
    tags := releaseTags (s.port p).tags
      ((s.intake.filter (grantOf p) ++ s.selectedWaiters (grantOf p)).map Request.tag) }
  other : ∀ q, q ≠ p → t.port q = s.port q
  outbox : t.outbox = s.outbox ++ ⟨p, .credit⟩
    :: (s.intake.filter (grantOf p)).flatMap (fun r => [⟨p, .nack r.tag r.line .leaving⟩, ⟨p, .credit⟩])
    ++ (s.selectedWaiters (grantOf p)).map fun r => ⟨p, .nack r.tag r.line .leaving⟩
  intake : t.intake = s.intake.filter fun r => !grantOf p r
  leave : t.leave = { s.leave with order := s.leave.order ++ [p] }
  tt : t.tt = (s.removeWaiters (grantOf p)).tt
  pool : t.pool = (s.removeWaiters (grantOf p)).pool

theorem State.takeLeave_active {s : State} {p : Agent} (h : (s.port p).state = .active) :
    s.takeLeave p = (((s.returnCredit p).startDrain p).refuseQueued p).refuseWaiting p := if_pos h

theorem State.takeLeave_leaving {s : State} {p : Agent} (h : (s.port p).state ≠ .active) :
    s.takeLeave p = s.returnCredit p := if_neg h

theorem LeaveTaken.takeLeave {s : State} {p : Agent} (h : (s.port p).state = .active) :
    LeaveTaken p s (s.takeLeave p) := by
  have hm : s.member p = true := by
    unfold State.member
    rw [h]
    rfl
  rw [State.takeLeave_active h]
  have ha := Replies.returnCredit s p
  generalize s.returnCredit p = a at ha
  have of_a {α : Type} (f : State → α) (hf : ∀ z : State, f z.offReplies = f z) : f a = f s :=
    State.of_offReplies f hf ha.off
  have hbport : (a.startDrain p).port p = { a.port p with state := .leaving .drain } :=
    State.port_updPort_same a p fun q => { q with state := .leaving .drain }
  have hbother (q : Agent) (hq : q ≠ p) : (a.startDrain p).port q = a.port q :=
    State.port_updPort_ne a (fun q => { q with state := .leaving .drain }) hq
  have hbleave : (a.startDrain p).leave = { a.leave with order := a.leave.order ++ [p] } := rfl
  have hbox : (a.startDrain p).outbox = a.outbox := rfl
  have hbintake : (a.startDrain p).intake = a.intake := rfl
  have hbtt : (a.startDrain p).tt = a.tt := rfl
  have hbpool : (a.startDrain p).pool = a.pool := rfl
  generalize a.startDrain p = b at *
  have hc := Replies.refuseQueued b p
  generalize b.refuseQueued p = c at hc
  have of_c {α : Type} (f : State → α) (hf : ∀ z : State, f z.offReplies = f z) :
      f c = f (b.setIntake (b.intake.filter fun r => !grantOf p r)) := State.of_offReplies f hf hc.off
  have hctt : c.tt = s.tt := (of_c State.tt fun _ => rfl).trans (hbtt.trans (of_a State.tt fun _ => rfl))
  have hcpool : c.pool = s.pool := (of_c State.pool fun _ => rfl).trans (hbpool.trans (of_a State.pool fun _ => rfl))
  have ht := Replies.refuseWaiting c p
  generalize c.refuseWaiting p = t at ht
  have of_t {α : Type} (f : State → α) (hf : ∀ z : State, f z.offReplies = f z) :
      f t = f (c.removeWaiters (grantOf p)) := State.of_offReplies f hf ht.off
  have hremoved : (c.removeWaiters (grantOf p)).tt = (s.removeWaiters (grantOf p)).tt
      ∧ (c.removeWaiters (grantOf p)).pool = (s.removeWaiters (grantOf p)).pool := by
    unfold State.removeWaiters State.poolSelects State.waiter
    rw [hctt, hcpool]
    exact ⟨rfl, rfl⟩
  have hwaiting : c.selectedWaiters (grantOf p) = s.selectedWaiters (grantOf p) :=
    State.selectedWaiters_congr hcpool (fun e => congrArg (fun v : Vector Entry 32 => (v.get e).waiters) hctt) _
  have hintake : b.intake = s.intake := hbintake.trans (of_a State.intake fun _ => rfl)
  rw [hwaiting] at ht
  rw [hintake] at hc of_c
  have hcport : (c.removeWaiters (grantOf p)).port p = c.port p := rfl
  have hcother (q : Agent) : (c.removeWaiters (grantOf p)).port q = c.port q := rfl
  have hsport (q : Agent) : (b.setIntake (s.intake.filter fun r => !grantOf p r)).port q = b.port q := rfl
  refine ⟨?_, fun q hq => ?_, ?_, ?_, ?_, (of_t State.tt fun _ => rfl).trans hremoved.1,
    (of_t State.pool fun _ => rfl).trans hremoved.2⟩
  · rw [ht.port, hcport, hc.port, hsport, hbport, ha.port]
    rw [List.map_append, releaseTags_append, Nat.mul_one, Nat.mul_zero]
    rfl
  · rw [ht.other q hq, hcother, hc.other q hq, hsport, hbother q hq, ha.other q hq]
  · have hbm : (b.setIntake (s.intake.filter fun r => !grantOf p r)).member p = true := by
      unfold State.member
      rw [hsport, hbport]
      rfl
    have hcm : (c.removeWaiters (grantOf p)).member p = true := (hc.member p).trans hbm
    have hcbox := hc.outbox hbm
    have htbox := ht.outbox hcm
    change t.outbox = c.outbox ++ _ at htbox
    change c.outbox = b.outbox ++ _ at hcbox
    rw [htbox, hcbox, hbox, ha.outbox hm, List.map_flatMap, List.map_flatMap, List.append_assoc, List.append_assoc]
    simp only [List.map_cons, List.map_nil, List.cons_append, List.nil_append, Request.leavingNack,
      ← List.map_eq_flatMap, List.append_assoc]
  · exact of_t State.intake (fun _ => rfl) |>.trans (of_c State.intake fun _ => rfl)
  · refine (of_t State.leave fun _ => rfl).trans ((of_c State.leave fun _ => rfl).trans ?_)
    refine hbleave.trans ?_
    rw [of_a State.leave fun _ => rfl]

theorem LeaveTaken.waiter {p : Agent} {s t : State} (h : LeaveTaken p s t) (i : PoolIdx) :
    t.waiter i = freeSelected (grantOf p) (s.waiter i) := by
  unfold State.waiter
  rw [h.pool]
  exact get_mapVec _ s.pool i

theorem freeSelected_of_not {f : Request → Bool} {w : Option Waiter} (h : ∀ r, w = some (.request r) → f r = false) :
    freeSelected f w = w := by
  unfold freeSelected
  cases w with
  | none => rfl
  | some x =>
    cases x with
    | request r => exact if_neg (by rw [h r rfl]; exact Bool.false_ne_true)
    | recallLine l => rfl
    | clearPoison l => rfl

theorem freeSelected_of_selected {f : Request → Bool} {r : Request} (h : f r = true) :
    freeSelected f (some (.request r)) = none := if_pos h

/-- Waiters that stay keep their places among those selected. -/
theorem State.selectedWaiters_removeWaiters {s t : State} {f g : Request → Bool} (ht : t.tt = (s.removeWaiters f).tt)
    (hp : t.pool = (s.removeWaiters f).pool) (h : ∀ r, f r = true → g r = false) :
    t.selectedWaiters g = s.selectedWaiters g := by
  have hwaiter (i : PoolIdx) : t.waiter i = freeSelected f (s.waiter i) := by
    unfold State.waiter
    rw [hp]
    exact get_mapVec _ s.pool i
  have hwaiters (e : EntryIdx) : (t.entry e).waiters = (s.entry e).waiters.filter fun i => !s.poolSelects f i := by
    unfold State.entry
    rw [ht]
    exact congrArg Entry.waiters (get_mapVec _ s.tt e)
  have hselects (i : PoolIdx) : t.poolSelects g i = s.poolSelects g i ∧
      (s.poolSelects g i = true → s.poolSelects f i = false ∧ t.waiter i = s.waiter i) := by
    unfold State.poolSelects
    rw [hwaiter]
    rcases hi : s.waiter i with _ | w
    · exact ⟨rfl, fun hn => absurd hn Bool.false_ne_true⟩
    · cases w with
      | request r =>
        cases hf : f r with
        | true =>
          rw [freeSelected_of_selected hf]
          exact ⟨(h r hf).symm, fun hg => absurd ((h r hf).symm.trans hg) Bool.false_ne_true⟩
        | false =>
          rw [freeSelected_of_not fun q hq => by cases hq; exact hf]
          exact ⟨rfl, fun _ => ⟨hf, rfl⟩⟩
      | recallLine l => exact ⟨rfl, fun hn => absurd hn Bool.false_ne_true⟩
      | clearPoison l => exact ⟨rfl, fun hn => absurd hn Bool.false_ne_true⟩
  unfold State.selectedWaiters
  refine congrArg (fun F => allEntries.flatMap F) (funext fun e => ?_)
  rw [hwaiters, List.filter_filter]
  have hfilter : (s.entry e).waiters.filter (fun i => t.poolSelects g i && !s.poolSelects f i)
      = (s.entry e).waiters.filter (s.poolSelects g) := by
    refine List.filter_congr fun i _ => ?_
    rw [(hselects i).1]
    cases hg : s.poolSelects g i with
    | true => rw [((hselects i).2 hg).1]; rfl
    | false => rfl
  rw [hfilter]
  refine List.filterMap_congr fun i hi => ?_
  rw [((hselects i).2 (List.mem_filter.1 hi).2).2]

/-! ### What the probe engine reads of a port -/

/-- What sending probes reads of a port: whether it is in the domain, its probe queue and its outstanding sends (R72). -/
def Port.probing (q : Port) : Bool × List EntryIdx × List Send := (q.state.member, q.probeQueue, q.sends)

theorem State.pumped_of_probing {s t : State} (h : ∀ p, (t.port p).probing = (s.port p).probing)
    (hc : t.cfg.probeCredits = s.cfg.probeCredits) (g : s.pumped) : t.pumped := by
  intro p hm hq
  have hp := h p
  simp only [Port.probing, Prod.mk.injEq] at hp
  obtain ⟨hstate, hqueue, hsends⟩ := hp
  have hfull := g p (hstate.symm.trans hm) (by rw [← hqueue]; exact hq)
  unfold State.probeCredit at hfull ⊢
  rw [hsends, hc]
  exact hfull

theorem State.probing_takeLeave (s : State) (p q : Agent) : ((s.takeLeave p).port q).probing = (s.port q).probing := by
  by_cases ha : (s.port p).state = .active
  · have h := LeaveTaken.takeLeave ha
    by_cases hq : q = p
    · rw [hq, h.port]
      unfold Port.probing
      rw [ha]
      rfl
    · rw [h.other q hq]
  · rw [State.takeLeave_leaving ha, State.port_returnCredit]
    split
    · next hq => rw [hq]; rfl
    · rfl

theorem State.probing_enterWalk (s : State) (q : Agent) : (s.enterWalk.port q).probing = (s.port q).probing := by
  unfold State.enterWalk
  split
  · next p rest _ =>
    split
    · next h =>
      rw [State.port_updLeave, State.port_updPort]
      split
      · next hq =>
        unfold Port.probing
        rw [hq, h.2.1]
        rfl
      · rfl
    · rfl
  · rfl

end Sys2Proof.Machine
end

section
/-! PROOF. O8: a LEAVE waits its turn in the intake queue, or is taken (R25, R112, R122, R124). -/

namespace Sys2Proof.Machine

/-! ### The end of an event that takes a LEAVE -/

/-- The one LEAVE of a served queue is taken at the end of its event, and the event ends as if it began after that. -/
theorem State.finish_takesLeave {u : State} {r : Request} (hr : u.part = .run) (hp : u.pause = false)
    (hi : u.intake = [r]) (hk : r.kind = .leave) (hn : ((u.setIntake []).takeLeave r.port).intake = []) :
    u.finish = ((u.setIntake []).takeLeave r.port).finish := by
  have htake : State.takeLeaves u.intake.length u = (u.setIntake []).takeLeave r.port := by
    rw [hi]
    show State.takeLeaves 1 u = _
    unfold State.takeLeaves
    rw [hi]
    dsimp only
    rw [if_pos ⟨hk, by rw [hp]; rfl⟩]
    rfl
  have hpart : ((u.setIntake []).takeLeave r.port).part = .run := (Settles.takeLeave _ _).part.trans hr
  unfold State.finish
  rw [State.settle_run hr, State.settle_run hpart]
  unfold State.beforeListing
  rw [htake, hn]
  rfl

/-- What the end of an event has of the state `x` in which the leave walker has begun what it may. -/
structure EndsAs (x t : State) : Prop where
  ports : t.ports = x.ports
  pool : t.pool = x.pool
  intake : t.intake = x.intake
  leave : t.leave = x.leave
  outbox : t.outbox = x.outbox

theorem EndsAs.finish {w : State} (hr : w.part = .run) (hi : w.intake = []) (hd : w.sendLeaveDone = w)
    (hp : w.pumped) : EndsAs w.enterWalk w.finish := by
  have hpumped : w.enterWalk.pumped :=
    State.pumped_of_probing w.probing_enterWalk (congrArg Settings.probeCredits (Settles.enterWalk w).cfg) hp
  have hsettle : w.settle = w.enterWalk.listAccesses.refreshClaims := by
    rw [State.settle_run hr]
    unfold State.beforeListing
    rw [hi]
    show (State.pump (State.enterWalk (State.sendLeaveDone w))).listAccesses.refreshClaims = _
    rw [hd, State.pump_pumped hpumped]
  have hu := State.unreported_takeReports w.settle
  unfold State.finish
  rw [hsettle] at hu ⊢
  simp only [State.unreported, Prod.mk.injEq] at hu
  obtain ⟨⟨-, -, -, -, -, -, hpool, -, hports⟩, hintake, -, -, hleave, -, hbox, -⟩ := hu
  exact ⟨hports, hpool, hintake, hleave, hbox⟩

/-- The walk of a port in DRAIN that begins moves no message, request or waiter. -/
theorem State.enterWalk_frame (s : State) :
    s.enterWalk.outbox = s.outbox ∧ s.enterWalk.pool = s.pool ∧ s.enterWalk.intake = s.intake := by
  unfold State.enterWalk
  split
  · split <;> exact ⟨rfl, rfl, rfl⟩
  · exact ⟨rfl, rfl, rfl⟩

/-- A port in LEAVING stays there, all but its phase as it was. -/
theorem State.port_enterWalk {s : State} {p : Agent} {ph : LeavePhase} (h : (s.port p).state = .leaving ph) :
    ∃ ph', s.enterWalk.port p = { s.port p with state := .leaving ph' } := by
  have hself : s.port p = { s.port p with state := .leaving ph } := by rw [← h]
  unfold State.enterWalk
  split
  · next q rest _ =>
    split
    · rw [State.port_updLeave, State.port_updPort]
      split
      · next hq => exact ⟨.walk, by rw [hq]⟩
      · exact ⟨ph, hself⟩
    · exact ⟨ph, hself⟩
  · exact ⟨ph, hself⟩

theorem State.enterWalk_begins {s : State} {p : Agent} {rest : List Agent} (ho : s.leave.order = p :: rest)
    (hn : s.leave.port = none) (hs : (s.port p).state = .leaving .drain) (ht : s.hasTransaction p = false) :
    s.enterWalk = (s.updPort p fun q => { q with state := .leaving .walk }).updLeave
      fun _ => ⟨some p, 0, false, 0, .ready, rest⟩ := by
  unfold State.enterWalk
  rw [ho]
  dsimp only
  rw [if_pos ⟨hn, hs, by rw [ht]; rfl⟩]

/-! ### A LEAVE taken at an empty queue, from a calm state -/

/-- A LEAVE of port `p`. -/
def leaveRequest (p : Agent) (tag : ReqTag) (line : Line) : Request := ⟨p, .leave, tag, line, false⟩

/-- The state in which an arriving LEAVE is taken: it has joined an empty queue and left it. -/
def State.leaveServed (s : State) (p : Agent) (tag : ReqTag) (line : Line) : State :=
  (s.joined (leaveRequest p tag line)).setIntake []

theorem State.port_leaveServed (s : State) (p q : Agent) (tag : ReqTag) (line : Line) :
    (s.leaveServed p tag line).port q = if q = p then (s.port p).joined tag else s.port q :=
  s.port_joined (leaveRequest p tag line) q

theorem State.exec_leave {s : State} {p : Agent} {tag : ReqTag} (line : Line) (hp : s.pwrok = true) (hr : s.part = .run)
    (hm : s.member p = true) (hc : (s.port p).credits ≠ 0) (ht : has (s.port p).tags tag = false) :
    exec (.leave p tag line) s = .next (s.joined (leaveRequest p tag line)).finish := by
  have htake : s.clearOutputs.takeRequest (leaveRequest p tag line) = s.joined (leaveRequest p tag line) :=
    State.takeRequest_joins hc ht (by rw [hr]; decide) (fun h => absurd h Bool.false_ne_true) (.inl rfl)
  exact (exec_request (r := leaveRequest p tag line) (fun _ => rfl) hp hm).trans
    (congrArg (fun u : State => Host.Outcome.next u.finish) htake)

/-- A LEAVE taken removes waiters of an entry and no more. -/
theorem LeaveTaken.entry {p : Agent} {s t : State} (h : LeaveTaken p s t) (e : EntryIdx) : t.entry e =
    { s.entry e with waiters := (s.entry e).waiters.filter fun i => !s.poolSelects (grantOf p) i } := by
  unfold State.entry
  rw [h.tt]
  exact get_mapVec _ s.tt e

/-- A LEAVE of another port leaves the walker's readiness for its LEAVE_DONE as it was. -/
theorem LeaveTaken.leaveDoneReady {p q : Agent} {s t : State} (h : LeaveTaken p s t) (hi : s.intake = []) (hq : q ≠ p) :
    t.leaveDoneReady q = s.leaveDoneReady q := by
  have hpending (e : EntryIdx) : (t.entry e).pendingSet = (s.entry e).pendingSet := by rw [h.entry]
  have hwaiting := State.selectedWaiters_removeWaiters (g := fun r => decide (r.port = q)) h.tt h.pool
    fun r hr => decide_eq_false fun hrq => hq (hrq.symm.trans (grantOf_port hr))
  have hintake : t.intake = s.intake := by
    rw [h.intake, hi]
    rfl
  unfold State.leaveDoneReady
  rw [h.leave, hintake, hwaiting]
  simp only [hpending]

theorem LeaveTaken.hasTransaction {p : Agent} {s t : State} (h : LeaveTaken p s t) (q : Agent) :
    t.hasTransaction q = s.hasTransaction q :=
  State.hasTransaction_congr (fun e => by rw [h.entry]) (fun e => by rw [h.entry]) q

/-- What the event of a LEAVE that is taken at once from ACTIVE port `p` leaves. -/
structure LeaveBegun (p : Agent) (s t : State) : Prop where
  intake : t.intake = []
  port : ∃ ph, t.port p = { s.port p with
    state := .leaving ph, credits := (s.port p).credits + 1
    tags := releaseTags (s.port p).tags ((s.selectedWaiters (grantOf p)).map Request.tag) }
  outbox : t.outbox = s.outbox
    ++ ⟨p, .credit⟩ :: (s.selectedWaiters (grantOf p)).map fun r => ⟨p, .nack r.tag r.line .leaving⟩
  waiter : ∀ i, t.waiter i = freeSelected (grantOf p) (s.waiter i)
  walks : s.leave.order = [] → s.leave.port = none → s.hasTransaction p = false →
    t.leave = ⟨some p, 0, false, 0, .ready, []⟩ ∧ (t.port p).state = .leaving .walk
  drains : s.leave.port ≠ none ∨ s.hasTransaction p = true ∨ (∃ q, s.leave.order.head? = some q ∧ q ≠ p) →
    t.leave = { s.leave with order := s.leave.order ++ [p] } ∧ (t.port p).state = .leaving .drain

theorem LeaveBegun.finish {p : Agent} {s : State} (hr : s.part = .run) (hcalm : s.calm) (hi : s.intake = [])
    (ha : (s.port p).state = .active) (hl : s.leave.port ≠ some p) : LeaveBegun p s (s.takeLeave p).finish := by
  have h := LeaveTaken.takeLeave ha
  obtain ⟨hpumped, -, hdone, hwalk⟩ := hcalm hr
  have hS := Settles.takeLeave s p
  have hprobing := s.probing_takeLeave p
  generalize s.takeLeave p = w at h hS hprobing
  have hwi : w.intake = [] := by
    rw [h.intake, hi]
    rfl
  have hqueued : s.intake.filter (grantOf p) = [] := by
    rw [hi]
    rfl
  have hwport := h.port
  have hwbox := h.outbox
  rw [hqueued] at hwport hwbox
  rw [List.append_assoc] at hwbox
  have hwstate : (w.port p).state = .leaving .drain := by rw [hwport]
  have hwdone : w.sendLeaveDone = w := State.sendLeaveDone_calm w fun q hq => by
    rw [h.leave] at hq
    rw [h.leaveDoneReady hi fun hqp => hl (by rw [← hqp]; exact hq)]
    exact hdone q hq
  have hwpumped : w.pumped := State.pumped_of_probing hprobing (congrArg Settings.probeCredits hS.cfg) hpumped
  have g := EndsAs.finish (hS.part.trans hr) hwi hwdone hwpumped
  obtain ⟨hxbox, hxpool, hxintake⟩ := w.enterWalk_frame
  have hport : w.finish.port p = w.enterWalk.port p := by
    unfold State.port
    rw [g.ports]
  refine ⟨g.intake.trans (hxintake.trans hwi), ?_, g.outbox.trans (hxbox.trans hwbox), fun i => ?_, fun ho hn ht => ?_,
    fun hstay => ?_⟩
  · obtain ⟨ph, hph⟩ := State.port_enterWalk hwstate
    refine ⟨ph, ?_⟩
    rw [hport, hph, hwport]
    rfl
  · unfold State.waiter
    rw [g.pool, hxpool]
    exact h.waiter i
  · have hbegins := State.enterWalk_begins (s := w) (p := p) (rest := [])
      (by rw [h.leave, ho]; rfl) (by rw [h.leave]; exact hn) hwstate ((h.hasTransaction p).trans ht)
    rw [hport, g.leave, hbegins]
    refine ⟨rfl, ?_⟩
    rw [State.port_updLeave, State.port_updPort_same]
  · have hstays : w.enterWalk = w := State.enterWalk_calm w fun q hq hn hs => by
      rw [h.leave] at hq hn
      rw [h.hasTransaction]
      by_cases hqp : q = p
      · rw [hqp]
        rcases hstay with hne | ht | ⟨q', hq', hne⟩
        · exact absurd hn hne
        · exact ht
        · have hhead : (s.leave.order ++ [p]).head? = some q' := by
            rw [List.head?_append, hq']
            rfl
          exact absurd ((Option.some.inj (hhead.symm.trans hq)).trans hqp) hne
      · rw [h.other q hqp] at hs
        refine hwalk q ?_ hn hs
        cases ho : s.leave.order with
        | nil =>
          rw [ho] at hq
          exact absurd (Option.some.inj hq).symm hqp
        | cons b rest =>
          rw [ho] at hq
          exact hq
    rw [hport, g.leave, hstays]
    exact ⟨h.leave, hwstate⟩

/-! ### The arrival of a LEAVE -/

section Arrival

variable {s : State} {p : Agent} {tag : ReqTag} {line : Line}

theorem State.port_joined_leave : (s.joined (leaveRequest p tag line)).port p = (s.port p).joined tag :=
  (s.port_joined (leaveRequest p tag line) p).trans (if_pos rfl)

theorem State.port_leaveServed_same : (s.leaveServed p tag line).port p = (s.port p).joined tag :=
  State.port_joined_leave

/-- The event of a LEAVE that waits its turn. -/
theorem CalmEnd.leaveWaits (hcalm : s.calm) (hwait : s.intake ≠ [] ∨ s.pause = true) :
    CalmEnd (s.joined (leaveRequest p tag line)) (s.joined (leaveRequest p tag line)).finish :=
  .finish (State.calm_joined (fun _ => hwait) hcalm)

theorem CalmEnd.port_eq {t u : State} (g : CalmEnd u t) (q : Agent) : t.port q = u.port q := by
  unfold State.port
  rw [g.ports]

theorem State.finish_leaveServed (hr : s.part = .run) (hi : s.intake = []) (hpause : s.pause = false)
    (hn : ((s.leaveServed p tag line).takeLeave p).intake = []) :
    (s.joined (leaveRequest p tag line)).finish = ((s.leaveServed p tag line).takeLeave p).finish := by
  have hqueue : (s.joined (leaveRequest p tag line)).intake = [leaveRequest p tag line] := by
    show s.intake ++ [leaveRequest p tag line] = _
    rw [hi]
    rfl
  exact State.finish_takesLeave (r := leaveRequest p tag line) hr hpause hqueue rfl hn

theorem State.calm_leaveServed (hi : s.intake = []) (hcalm : s.calm) : (s.leaveServed p tag line).calm := by
  refine State.calm_congr (s := s) rfl hi.symm rfl rfl rfl rfl rfl (fun q => ?_) hcalm
  rw [State.port_leaveServed]
  split
  · next hq => rw [hq]; exact ⟨rfl, rfl, rfl⟩
  · exact ⟨rfl, rfl, rfl⟩

/-- The event of a LEAVE taken at once from an ACTIVE port. -/
theorem LeaveBegun.arrival (hr : s.part = .run) (hcalm : s.calm) (hi : s.intake = []) (hpause : s.pause = false)
    (ha : (s.port p).state = .active) (hl : s.leave.port ≠ some p) :
    LeaveBegun p (s.leaveServed p tag line) (s.joined (leaveRequest p tag line)).finish := by
  have hactive : ((s.leaveServed p tag line).port p).state = .active := by
    rw [State.port_leaveServed_same]
    exact ha
  rw [State.finish_leaveServed hr hi hpause (LeaveTaken.takeLeave hactive).intake]
  exact .finish hr (State.calm_leaveServed hi hcalm) rfl hactive hl

/-- The state that the LEAVE of a port in LEAVING leaves: its tag outstanding, its credit spent and returned. -/
def State.leaveReturned (s : State) (p : Agent) (tag : ReqTag) (line : Line) : State :=
  (s.leaveServed p tag line).returnCredit p

theorem State.port_leaveReturned (hc : (s.port p).credits ≠ 0) (q : Agent) : (s.leaveReturned p tag line).port q =
    if q = p then { s.port p with tags := addTo (s.port p).tags tag } else s.port q := by
  unfold State.leaveReturned
  rw [State.port_returnCredit, State.port_leaveServed_same]
  unfold Port.joined
  dsimp only
  rw [Nat.sub_add_cancel (Nat.pos_of_ne_zero hc)]
  split
  · rfl
  · next hq => rw [State.port_leaveServed, if_neg hq]

theorem State.offReplies_leaveReturned :
    (s.leaveReturned p tag line).offReplies = (s.leaveServed p tag line).offReplies :=
  (Replies.returnCredit _ p).off

/-- The event of a LEAVE taken at once from a port in LEAVING. -/
theorem CalmEnd.leaveReturned (hr : s.part = .run) (hcalm : s.calm) (hi : s.intake = []) (hpause : s.pause = false)
    (hs : (s.port p).state ≠ .active) (hc : (s.port p).credits ≠ 0) :
    CalmEnd (s.leaveReturned p tag line) (s.joined (leaveRequest p tag line)).finish := by
  have of {α : Type} (f : State → α) (hf : ∀ z : State, f z.offReplies = f z) :
      f (s.leaveReturned p tag line) = f (s.leaveServed p tag line) :=
    State.of_offReplies f hf State.offReplies_leaveReturned
  have htake : (s.leaveServed p tag line).takeLeave p = s.leaveReturned p tag line :=
    State.takeLeave_leaving (by rw [State.port_leaveServed_same]; exact hs)
  rw [State.finish_leaveServed hr hi hpause (by rw [htake]; exact of State.intake fun _ => rfl), htake]
  refine .finish (State.calm_congr (s := s.leaveServed p tag line) (of State.part fun _ => rfl)
    (of State.intake fun _ => rfl) (of State.pause fun _ => rfl) (of State.leave fun _ => rfl) (of State.tt fun _ => rfl)
    (of State.pool fun _ => rfl) (of (fun z => z.cfg.probeCredits) fun _ => rfl) (fun q => ?_)
    (State.calm_leaveServed hi hcalm))
  rw [State.port_leaveReturned hc, State.port_leaveServed]
  split <;> exact ⟨rfl, rfl, rfl⟩

end Arrival

/-- Settles O8: the LEAVE waits in the queue, is taken from an ACTIVE port, or from one that leaves already; and what
`State.takeLeave` does of itself. -/
theorem leaveJoinsOrIsTaken : Obligations.LeaveJoinsOrIsTaken := by
  refine ⟨fun s p tag line hp hr hcalm hm hc ht => ⟨_, State.exec_leave line hp hr hm hc ht, ?_⟩, fun s p ha => ?_,
    fun s p ph hs => State.takeLeave_leaving (by rw [hs]; nofun)⟩
  · have hF := Finishes.finish (s.joined (leaveRequest p tag line))
    refine ⟨hF.dir, hF.cfg, hF.reports, fun hwait => ?_, fun hi hpause ha hl => ?_, fun ph hi hpause hs => ?_⟩
    · have g := CalmEnd.leaveWaits (p := p) (tag := tag) (line := line) hcalm hwait
      rw [g.port_eq, State.port_joined_leave]
      exact ⟨g.intake, g.outbox, rfl, rfl, rfl⟩
    · have g := LeaveBegun.arrival (tag := tag) (line := line) hr hcalm hi hpause ha hl
      obtain ⟨ph, hport⟩ := g.port
      rw [State.port_leaveServed_same] at hport
      refine ⟨g.intake, ?_, ⟨ph, by rw [hport]⟩, g.outbox, fun r hmem => ?_, fun i r hw hg => ?_, fun i hw => ?_, g.walks,
        g.drains⟩
      · rw [hport]
        exact Nat.sub_add_cancel (Nat.pos_of_ne_zero hc)
      · rw [hport]
        exact has_releaseTags (.inr (List.mem_map_of_mem hmem))
      · rw [g.waiter]
        exact (congrArg (freeSelected _) hw).trans (freeSelected_of_selected hg)
      · rw [g.waiter]
        exact freeSelected_of_not hw
    · have g := CalmEnd.leaveReturned (tag := tag) (line := line) hr hcalm hi hpause (by rw [hs]; nofun) hc
      have hR := Replies.returnCredit (s.leaveServed p tag line) p
      have of {α : Type} (f : State → α) (hf : ∀ z : State, f z.offReplies = f z) := State.of_offReplies f hf hR.off
      refine ⟨g.intake.trans (of State.intake fun _ => rfl), ?_, g.pool.trans (of State.pool fun _ => rfl),
        g.table.trans (of State.tt fun _ => rfl), g.leave.trans (of State.leave fun _ => rfl), ?_⟩
      · exact g.outbox.trans (hR.outbox (by unfold State.member; rw [State.port_leaveServed_same]; exact hm))
      · rw [g.port_eq, State.port_leaveReturned hc, if_pos rfl]
  · have h := LeaveTaken.takeLeave ha
    refine ⟨by rw [h.port], h.intake, h.leave, by rw [h.port], fun r hr => ?_, h.outbox⟩
    rw [h.port]
    exact has_releaseTags (.inr (List.mem_map_of_mem hr))

end Sys2Proof.Machine
end

section
/-! PROOF. O17: the probes that a request needs and the record that its grant leaves (R29 to R33). -/

namespace Sys2Proof.Machine

/-! ### Sets of one agent -/

theorem has_only (o a : Agent) : has (only o.val : AgentSet) a = decide (a = o) := by
  have h := has_addTo 0 o a
  rw [has_zero, Bool.false_or] at h
  exact (congrArg (has · a.val) (BitVec.zero_or (x := BitVec.twoPow 8 o.val))).symm.trans h

theorem only_injective {o a : Agent} (h : (only o.val : AgentSet) = only a.val) : o = a := by
  have ho := has_only a o
  rw [← h, has_only, decide_eq_true rfl] at ho
  exact of_decide_eq_true ho.symm

theorem lowestAgent_only : ∀ o : Agent, lowestAgent (only o.val) = some o := by decide

theorem addTo_zero (a : Agent) : addTo (0 : AgentSet) a.val = only a.val := BitVec.zero_or

theorem agentSet_ext {x y : AgentSet} (h : ∀ a : Agent, has x a = has y a) : x = y :=
  BitVec.eq_of_getLsbD_eq fun i hi => h ⟨i, hi⟩

/-! ### An OWNED record of one agent -/

section Owned

variable {r : Record} {x : Entry} {o : Agent}

theorem Record.owner_of_only (hh : r.holders = only o.val) : r.owner = some o := by
  unfold Record.owner
  rw [hh, lowestAgent_only]

theorem Record.lostOwner_of_only (hs : r.state = .owned) (hh : r.holders = only o.val) :
    r.lostOwner x = if x.answers.get o = some .fenceGone then some o else none := by
  unfold Record.lostOwner
  rw [hs]
  dsimp only
  rw [Record.owner_of_only hh]
  show (if decide (x.answers.get o = some Answer.fenceGone) = true then some o else none) = _
  exact if_congr decide_eq_true_iff rfl rfl

/-- The holders that keep their copy: the owner, when it answered that it keeps one. -/
theorem keepers_of_only (hh : r.holders = only o.val) :
    agentSet (fun b => has r.holders b && x.keepsCopy b) = if x.keepsCopy o then only o.val else 0 := by
  refine agentSet_ext fun b => ?_
  rw [has_agentSet, hh, has_only]
  by_cases hb : b = o
  · subst hb
    rw [decide_eq_true rfl, Bool.true_and]
    cases x.keepsCopy b
    · exact (has_zero b).symm
    · exact ((has_only b b).trans (decide_eq_true rfl)).symm
  · rw [decide_eq_false hb]
    cases x.keepsCopy o
    · exact (has_zero b).symm
    · exact ((has_only o b).trans (decide_eq_false hb)).symm

end Owned

/-! ### The tables, by the state of the record -/

section Tables

variable {a : Agent} {r : Record} {x : Entry} {full : Bool}

/-- The grants on an OWNED record of another agent, by what its owner answered. -/
theorem grantShared_owned {o : Agent} (hs : r.state = .owned) (hh : r.holders = only o.val) (ho : o ≠ a) :
    grantShared a r x = ⟨⟨r.tag, .shared, addTo (if x.keepsCopy o then only o.val else 0) a.val,
      r.poison || (r.lostOwner x).isSome⟩, .shared, true, false, r.lostOwner x⟩ := by
  have hne : r.holders ≠ only a.val := fun h => ho (only_injective (hh.symm.trans h))
  unfold grantShared
  rw [hs]
  dsimp only
  rw [if_neg hne, keepers_of_only hh]

/-- The record that RD_OWN gives to a requester that is not the line's owner. -/
theorem grantOwn_other (h : ¬(r.state = .owned ∧ r.holders = only a.val)) :
    grantOwn a full r x = ⟨⟨r.tag, .owned, only a.val,
      !full && (r.poison || (if full then none else r.lostOwner x).isSome)⟩,
      .own, !full, false, if full then none else r.lostOwner x⟩ := by
  unfold grantOwn
  rw [if_neg h]

theorem grantUpgrade_other (h : ¬(r.state = .shared ∧ has r.holders a = true)) :
    grantUpgrade a r x = grantOwn a false r x := by
  unfold grantUpgrade
  dsimp only
  rw [if_neg h]

theorem Record.lostOwner_of_ne (h : r.state ≠ .owned) : r.lostOwner x = none := by
  unfold Record.lostOwner
  split
  · next hs => exact absurd hs h
  all_goals rfl

/-- The grant of ownership on a record without an owner: nobody is lost. -/
theorem grantOwn_of_ne (h : r.state ≠ .owned) :
    grantOwn a full r x = ⟨⟨r.tag, .owned, only a.val, !full && r.poison⟩, .own, !full, false, none⟩ := by
  rw [grantOwn_other fun hc => h hc.1, Record.lostOwner_of_ne h, ite_self, Option.isSome_none, Bool.or_false]

theorem grantUpgrade_shared (hs : r.state = .shared) :
    grantUpgrade a r x = ⟨⟨r.tag, .owned, only a.val, r.poison⟩, .own, !has r.holders a, false, none⟩ := by
  have hne : r.state ≠ .owned := by rw [hs]; nofun
  unfold grantUpgrade
  dsimp only
  rw [grantOwn_of_ne hne]
  cases hh : has r.holders a
  · rw [if_neg fun hc => Bool.false_ne_true hc.2]
    rfl
  · rw [if_pos ⟨hs, rfl⟩]
    rfl

theorem grantUpgrade_of_ne (hs : r.state ≠ .shared) (ho : r.state ≠ .owned) :
    grantUpgrade a r x = ⟨⟨r.tag, .owned, only a.val, r.poison⟩, .own, true, false, none⟩ :=
  (grantUpgrade_other fun hc => hs hc.1).trans (grantOwn_of_ne ho)

theorem grantOn_owner (hs : r.state = .owned) (hh : r.holders = only a.val) {k : ReqKind}
    (hk : k = .rdShared ∨ k = .rdOwn ∨ k = .upgrade) : grantOn k a full r x = ⟨r, .own, false, true, none⟩ := by
  have hown (b : Bool) : grantOwn a b r x = ⟨r, .own, false, true, none⟩ := if_pos ⟨hs, hh⟩
  rcases hk with rfl | rfl | rfl
  · show grantShared a r x = _
    unfold grantShared
    rw [hs]
    exact if_pos hh
  · exact hown full
  · exact (grantUpgrade_other fun hc => by rw [hs] at hc; nomatch hc.1).trans (hown false)

end Tables

/-- The grants on an OWNED record of another agent that was not lost with its fence. -/
theorem grants_ownerAnswered {a o : Agent} {r : Record} {x : Entry} {full : Bool} (hs : r.state = .owned)
    (hh : r.holders = only o.val) (ho : o ≠ a) (hx : x.answers.get o ≠ some .fenceGone) :
    grantOn .rdShared a full r x = ⟨⟨r.tag, .shared, addTo (if x.keepsCopy o then only o.val else 0) a.val, r.poison⟩,
        .shared, true, false, none⟩
    ∧ grantOn .rdOwn a full r x = ⟨⟨r.tag, .owned, only a.val, !full && r.poison⟩, .own, !full, false, none⟩
    ∧ grantOn .upgrade a full r x = ⟨⟨r.tag, .owned, only a.val, r.poison⟩, .own, true, false, none⟩ := by
  have hlost : r.lostOwner x = none := (Record.lostOwner_of_only hs hh).trans (if_neg hx)
  have hown (b : Bool) : grantOwn a b r x = ⟨⟨r.tag, .owned, only a.val, !b && r.poison⟩, .own, !b, false, none⟩ := by
    rw [grantOwn_other fun hc => ho (only_injective (hh.symm.trans hc.2)), hlost, ite_self, Option.isSome_none,
      Bool.or_false]
  refine ⟨?_, hown full, (grantUpgrade_other fun hc => by rw [hs] at hc; nomatch hc.1).trans (hown false)⟩
  show grantShared a r x = _
  rw [grantShared_owned hs hh ho, hlost, Option.isSome_none, Bool.or_false]

/-- The grants on an OWNED record whose owner was lost with its fence. -/
theorem grants_ownerLost {a o : Agent} {r : Record} {x : Entry} {full : Bool} (hs : r.state = .owned)
    (hh : r.holders = only o.val) (ho : o ≠ a) (hx : x.answers.get o = some .fenceGone) :
    grantOn .rdShared a full r x = ⟨⟨r.tag, .shared, only a.val, true⟩, .shared, true, false, some o⟩
    ∧ grantOn .rdOwn a false r x = ⟨⟨r.tag, .owned, only a.val, true⟩, .own, true, false, some o⟩
    ∧ grantOn .rdOwn a true r x = ⟨⟨r.tag, .owned, only a.val, false⟩, .own, false, false, none⟩
    ∧ grantOn .upgrade a full r x = ⟨⟨r.tag, .owned, only a.val, true⟩, .own, true, false, some o⟩ := by
  have hlost : r.lostOwner x = some o := (Record.lostOwner_of_only hs hh).trans (if_pos hx)
  have hother : ¬(r.state = .owned ∧ r.holders = only a.val) := fun hc => ho (only_injective (hh.symm.trans hc.2))
  have hown : grantOwn a false r x = ⟨⟨r.tag, .owned, only a.val, true⟩, .own, true, false, some o⟩ := by
    rw [grantOwn_other hother, hlost]
    simp
  have hkeep : x.keepsCopy o = false := by
    unfold Entry.keepsCopy
    rw [hx]
    rfl
  refine ⟨?_, hown, ?_, (grantUpgrade_other fun hc => by rw [hs] at hc; nomatch hc.1).trans hown⟩
  · show grantShared a r x = _
    rw [grantShared_owned hs hh ho, hlost, hkeep, if_neg Bool.false_ne_true, addTo_zero]
    simp
  · show grantOwn a true r x = _
    rw [grantOwn_other hother]
    simp

/-- Settles O17: the tables case by case, by the record's state, its owner, and what the owner answered. -/
theorem grantTable : Obligations.GrantTable := by
  refine ⟨fun a r x full => ⟨fun hs => ?_, fun hs => ?_, fun hs hh => ⟨fun k => ?_, fun k => grantOn_owner hs hh⟩,
    fun o hs hh ho => ?_⟩, fun a full t => ⟨rfl, rfl, rfl⟩⟩
  · refine ⟨by simp [probesNeeded, hs], fun k hk => ?_, by simp [grantOn, grantShared, hs],
      grantOwn_of_ne (by rw [hs]; nofun), grantUpgrade_shared hs⟩
    rcases hk with rfl | rfl <;> simp [probesNeeded, hs]
  · exact ⟨fun k => by simp [probesNeeded, hs], by simp [grantOn, grantShared, hs],
      grantOwn_of_ne (by rw [hs]; nofun), grantUpgrade_of_ne (by rw [hs]; nofun) (by rw [hs]; nofun)⟩
  · simp [probesNeeded, hs, hh]
  · have hne : (only o.val : AgentSet) ≠ only a.val := fun h => ho (only_injective h)
    refine ⟨by simp [probesNeeded, hs, hh, hne], by simp [probesNeeded, hs, hh, hne], by simp [probesNeeded, hs, hh, hne],
      fun hx => ?_, fun hx => ?_, fun hx => ?_, grants_ownerLost hs hh ho⟩
    · have hk : x.keepsCopy o = true := by
        unfold Entry.keepsCopy
        rcases hx with hx | hx <;> rw [hx] <;> rfl
      have g := (grants_ownerAnswered (full := full) hs hh ho (by rcases hx with hx | hx <;> rw [hx] <;> nofun)).1
      rwa [if_pos hk] at g
    · have hk : x.keepsCopy o = false := by
        unfold Entry.keepsCopy
        rw [hx]
        rfl
      have g := (grants_ownerAnswered (full := full) hs hh ho (by rw [hx]; nofun)).1
      rwa [hk, if_neg Bool.false_ne_true, addTo_zero] at g
    · exact (grants_ownerAnswered hs hh ho (by rcases hx with hx | hx | hx <;> rw [hx] <;> nofun)).2

end Sys2Proof.Machine
end

section
/-! PROOF. O20: a request granted on the record of its line, without a probe round (R26, R34). -/

namespace Sys2Proof.Machine

/-! ### The end of an access, with the state that it settles -/

/-- A command whose access is due ends by settling the state that its claimant leaves, with the late reports and the starts
wanted. -/
theorem State.exec_ended {s : State} {d : Due} {k : SetIdx} {f : List CellFault} {c : Instr} {u : State}
    (hc : d.command f = some c) (hd : s.due = some d) (ha : s.dueAfter d = id) (hk : s.dueSet d = k)
    (hu : s.undisturbed k f) (hout : s.dueOutcome d (s.takeClaim.beginAccess k f) = u)
    (hi : u.integ = (s.checked k f).integ) : ∃ late starts, exec c s = .next (u.ended late starts).finish := by
  obtain ⟨late, starts, h⟩ := State.access_ended hu hout
    (.of_unlisted (State.unlistedSet_checked hu (congrArg IntegrityUnit.retireList hi)))
  refine ⟨late, starts, (exec_due hc hd).trans ?_⟩
  unfold State.accessed
  rw [hk, h, ha]
  rfl

/-! ### A record written in place (R34) -/

theorem State.dirSet_written {s : State} (h : s.dir.wf = true) (k : SetIdx) (w : Way) (e : EntryIdx) (r : Record) :
    (s.written k w e r).dirSet k = (((s.dirSet k).writeRec w r).toFront w).setBound w (some e) := by
  have h1 : (s.writeRec k w r).dir.wf = true := State.wf_updSet s k _ h
  have h2 : ((s.writeRec k w r).updSet k fun d => d.toFront w).dir.wf = true := State.wf_updSet _ k _ h1
  refine (State.dirSet_updSet_same ((s.writeRec k w r).updSet k fun d => d.toFront w) k
    (fun d => d.setBound w (some e)) h2).trans ?_
  rw [State.dirSet_updSet_same (s.writeRec k w r) k (fun d => d.toFront w) h1]
  exact congrArg (fun d : DirSet => (d.toFront w).setBound w (some e))
    (State.dirSet_updSet_same s k (fun d => d.writeRec w r) h)

theorem State.wf_written {s : State} (h : s.dir.wf = true) (k : SetIdx) (w : Way) (e : EntryIdx) (r : Record) :
    (s.written k w e r).dir.wf = true :=
  State.wf_updSet ((s.writeRec k w r).updSet k fun d => d.toFront w) k (fun d => d.setBound w (some e))
    (State.wf_updSet (s.writeRec k w r) k (fun d => d.toFront w) (State.wf_updSet s k (fun d => d.writeRec w r) h))

theorem State.slot_written {s : State} (h : s.dir.wf = true) (k : SetIdx) (w v : Way) (e : EntryIdx) (r : Record) :
    ((s.written k w e r).dirSet k).slot v = if v = w then
      { (s.dirSet k).slot w with content := some r, tagEcc := .good, holderEcc := .good, bound := some e }
    else (s.dirSet k).slot v := by
  rw [State.dirSet_written h, DirSet.slot_setBound, DirSet.slot_toFront, DirSet.slot_toFront, DirSet.slot_writeRec,
    DirSet.slot_writeRec, if_pos rfl]
  split <;> rfl

theorem State.recordAt_written_ne {s : State} (h : s.dir.wf = true) (k : SetIdx) {w v : Way} (hv : v ≠ w) (e : EntryIdx)
    (r : Record) : (s.written k w e r).recordAt k v = s.recordAt k v := by
  unfold State.recordAt DirSet.record
  rw [State.slot_written h, if_neg hv]

/-- An entry that has sent GRANT `g` for the record at way `w`, with its DONE timer at `timer`. -/
def Entry.granted (w : Way) (g : Grant) (timer : Nat) (x : Entry) : Entry :=
  { x with
    way := some w, phase := .awaitDone, grantSent := some g.kind, closePending := false, slotClaim := false
    repairRound := false, doneTimer := some timer }

/-! ### The reports of a grant (R28, R31) -/

theorem State.rerequest_reported {s : State} {k : SetIdx} {w : Way} {e : EntryIdx} {r : Request} {g : Grant}
    (h : g.rerequest = true) : s.rerequestReport k w e r ∈ (s.grantReports k w e r g).reports := by
  have hmem : s.rerequestReport k w e r ∈ (s.report (s.rerequestReport k w e r)).reports :=
    List.mem_append_right _ (List.mem_singleton.2 rfl)
  unfold State.grantReports
  dsimp only
  rw [if_pos h]
  split
  · exact List.mem_append_left _ hmem
  · exact hmem

/-- The report of a line poisoned because its owner `o` was lost. -/
def State.lostReport (s : State) (k : SetIdx) (w : Way) (e : EntryIdx) (r : Request) (o : Agent) : Report :=
  { kind := .poisonCreated, line := some r.line, set := some k, way := some w, agent := some o, txn := some (s.txn e) }

theorem State.lostOwner_reported {s : State} {k : SetIdx} {w : Way} {e : EntryIdx} {r : Request} {g : Grant} {o : Agent}
    (h : g.lostOwner = some o) : s.lostReport k w e r o ∈ (s.grantReports k w e r g).reports := by
  unfold State.grantReports
  dsimp only
  rw [h]
  dsimp only
  refine List.mem_append_right _ (List.mem_singleton.2 ?_)
  rfl

/-! ### A grant in place -/

theorem State.finishGrant_of_not_fenced {s : State} {r : Request} (h : s.fenced r.port = false) (k : SetIdx)
    (e : EntryIdx) (g : Grant) : s.finishGrant k e r g = (s.updEntry e fun x => { x with
      phase := .awaitDone, grantSent := some g.kind, closePending := false, slotClaim := false, repairRound := false
      doneTimer := some (Config.doneStep * s.cfg.doneTmo) }).reply r.port r.tag
        (.grant r.tag r.line (s.txn e) g.kind g.reread g.record.poison) := by
  unfold State.finishGrant
  rw [h]
  rfl

/-- What a grant on the record at way `w` of set `k` leaves, beside `GrantsAt`. -/
structure InPlace (k : SetIdx) (w : Way) (e : EntryIdx) (r : Request) (g : Grant) (s t : State) : Prop where
  dir : t.dir = (s.written k w e g.record).dir
  pause : t.pause = s.pause
  self : t.entry e = (s.entry e).granted w g (Config.doneStep * s.cfg.doneTmo)
  rerequest : g.rerequest = true → s.rerequestReport k w e r ∈ t.reports
  lost : ∀ o, g.lostOwner = some o → s.lostReport k w e r o ∈ t.reports

theorem State.txn_written (s : State) (k : SetIdx) (w : Way) (e : EntryIdx) (r : Record) :
    (s.written k w e r).txn e = s.txn e := by
  unfold State.txn
  rw [State.entry_written, if_pos rfl]

theorem InPlace.grantInPlace {s : State} {r : Request} (hf : s.fenced r.port = false) (k : SetIdx) (w : Way)
    (e : EntryIdx) (g : Grant) : InPlace k w e r g s (s.grantInPlace k w e r g) := by
  have htxn := s.txn_written k w e g.record
  have hself := s.entry_written k w e e g.record
  rw [if_pos rfl] at hself
  have hpause : (s.written k w e g.record).pause = s.pause := rfl
  have hcfg : (s.written k w e g.record).cfg = s.cfg := rfl
  have hfenced : (s.written k w e g.record).fenced r.port = false := hf
  have hrerequest : (s.written k w e g.record).rerequestReport k w e r = s.rerequestReport k w e r := by
    unfold State.rerequestReport
    rw [htxn]
  have hloss (o : Agent) : (s.written k w e g.record).lostReport k w e r o = s.lostReport k w e r o := by
    unfold State.lostReport
    rw [htxn]
  show InPlace k w e r g s (((s.written k w e g.record).grantReports k w e r g).finishGrant k e r g)
  suffices h : ∀ a : State, a = s.written k w e g.record →
      InPlace k w e r g s ((a.grantReports k w e r g).finishGrant k e r g)
    from h _ rfl
  intro a ha
  rw [← ha] at htxn hself hpause hcfg hfenced hrerequest hloss
  obtain ⟨hoff, -⟩ := a.offReports_grantReports k w e r g
  have hre (h : g.rerequest = true) := State.rerequest_reported (s := a) (k := k) (w := w) (e := e) (r := r) h
  have hlost (o : Agent) (h : g.lostOwner = some o) :=
    State.lostOwner_reported (s := a) (k := k) (w := w) (e := e) (r := r) h
  generalize a.grantReports k w e r g = b at *
  have of {α : Type} (f : State → α) (hf : ∀ z : State, f z.offReports = f z) : f b = f a := State.of_offReports f hf hoff
  have hentry : b.entry e = { s.entry e with way := some w } := (of (fun z => z.entry e) fun _ => rfl).trans hself
  rw [State.finishGrant_of_not_fenced ((of (fun z => z.fenced r.port) fun _ => rfl).trans hfenced),
    of State.cfg fun _ => rfl, hcfg]
  refine ⟨?_, ?_, ?_, fun h => ?_, fun o h => ?_⟩
  · rw [State.dir_reply, State.dir_updEntry]
    exact (of State.dir fun _ => rfl).trans (congrArg State.dir ha)
  · rw [State.pause_reply, State.pause_updEntry, of State.pause fun _ => rfl, hpause]
  · rw [State.entry_reply, State.entry_updEntry_same, hentry]
    rfl
  · rw [State.reports_reply, State.reports_updEntry, ← hrerequest]
    exact hre h
  · rw [State.reports_reply, State.reports_updEntry, ← hloss]
    exact hlost o h

/-! ### A request that begins on a record (R26, R27) -/

/-- An unbound line with a record: the request takes the free entry and is decided on the record. -/
theorem intakeOutcome_present {a : Access} {r : Request} {e : EntryIdx} {w : Way} (hb : a.s.boundEntry r.line = none)
    (hn : r.kind.needsGrant = true) (he : a.s.freeEntry = some e) (hw : a.s.findLine r.line = some w) :
    intakeOutcome r a = (a.s.begun r e).decideRequest e r false := by
  unfold intakeOutcome
  dsimp only
  rw [hb]
  dsimp only
  rw [if_neg (fun h => by rw [hw] at h; exact Bool.noConfusion h.1), if_pos hn, he]
  rfl

theorem State.cfg_begun (s : State) (r : Request) (e : EntryIdx) : (s.begun r e).cfg = s.cfg := State.cfg_returnCredit _ _

theorem State.probing_begun (s : State) (r : Request) (e : EntryIdx) (p : Agent) :
    ((s.begun r e).port p).probing = (s.port p).probing := by
  show ((s.leaveIntake r).port p).probing = _
  unfold State.leaveIntake
  rw [State.port_returnCredit]
  split
  · next h =>
    rw [h]
    rfl
  · rfl

theorem State.pause_begun {s : State} {e : EntryIdx} (r : Request) (h : (s.entry e).phase = .free) :
    (s.begun r e).pause = (s.pause || decide (s.cfg.admitHigh ≤ s.inUseCount + 1)) := by
  have hphase : ((s.leaveIntake r).entry e).phase = .free := by rw [State.entry_leaveIntake]; exact h
  have hpause : (s.leaveIntake r).pause = s.pause := State.pause_returnCredit _ _
  have hcfg : (s.leaveIntake r).cfg = s.cfg := State.cfg_returnCredit _ _
  have hcount : (s.leaveIntake r).inUseCount = s.inUseCount := State.inUseCount_congr (State.tt_returnCredit _ _)
  unfold State.begun
  rw [State.pause_takeEntry, State.inUseCount_takeEntry _ _ _ _ hphase, hpause, hcfg, hcount]

/-- A grant reads an entry's answers alone. -/
theorem grantOn_congr {x y : Entry} (h : x.answers = y.answers) (k : ReqKind) (a : Agent) (full : Bool) (r : Record) :
    grantOn k a full r x = grantOn k a full r y := by
  unfold grantOn grantShared grantUpgrade grantOwn Record.lostOwner Entry.fenceGoneOf Entry.keepsCopy
  rw [h]

/-- The state `c` in which the access decides the request of the intake's head, entry `e` taken for it. -/
structure Opens (f : List CellFault) (r : Request) (e : EntryIdx) (s c : State) : Prop where
  dir : c.dir = (s.checked (setOf r.line) f).dir
  integ : c.integ = (s.checked (setOf r.line) f).integ
  self : c.entry e =
    Entry.begin (s.entry e).gen r.line none .request (.agent r.port) (some (.agent r.kind r.tag r.fullWrite)) []
  other : ∀ i, i ≠ e → c.entry i = s.entry i
  member : ∀ p, c.member p = s.member p
  part : c.part = s.part
  probing : ∀ p, (c.port p).probing = (s.port p).probing
  cfg : c.cfg = s.cfg
  pause : c.pause = (s.pause || decide (s.cfg.admitHigh ≤ s.inUseCount + 1))
  outbox : s.member r.port = true → c.outbox = [⟨r.port, .credit⟩]

theorem Opens.begun {s : State} {e : EntryIdx} (f : List CellFault) (r : Request) (h : (s.entry e).phase = .free) :
    Opens f r e s ((s.checked (setOf r.line) f).begun r e) := by
  have same := SameOutside.checked s (setOf r.line) f
  have hentry (i : EntryIdx) := s.checked_entry (setOf r.line) f i
  have hmember (p : Agent) := s.checked_member (setOf r.line) f p
  have hcount : (s.checked (setOf r.line) f).inUseCount = s.inUseCount := State.inUseCount_congr same.tt
  have hport (p : Agent) := s.checked_port (setOf r.line) f p
  have hpart : (s.checked (setOf r.line) f).part = s.part := same.part
  have hcfg : (s.checked (setOf r.line) f).cfg = s.cfg := same.cfg
  have hpause : (s.checked (setOf r.line) f).pause = s.pause := same.pause
  have hnil := s.checked_outbox (setOf r.line) f
  refine ⟨State.dir_begun _ r e, State.integ_begun _ r e, ?_, fun i hi => ?_,
    fun p => (State.member_begun _ r e p).trans (hmember p), (State.part_returnCredit _ _).trans hpart,
    fun p => (State.probing_begun _ r e p).trans (congrArg Port.probing (hport p)),
    (State.cfg_begun _ r e).trans hcfg, ?_, fun hm => ?_⟩
  · rw [State.entry_begun, if_pos rfl, hentry]
  · rw [State.entry_begun, if_neg hi, hentry]
  · rw [State.pause_begun r (by rw [hentry]; exact h), hpause, hcfg, hcount]
  · rw [State.outbox_begun ((hmember _).trans hm), hnil]
    rfl

section Opens

variable {s c : State} {f : List CellFault} {r : Request} {e : EntryIdx}

theorem Opens.recordAt (h : Opens f r e s c) (w : Way) :
    c.recordAt (setOf r.line) w = (s.checked (setOf r.line) f).recordAt (setOf r.line) w := State.recordAt_congr h.dir _ w

theorem Opens.txn (h : Opens f r e s c) : c.txn e = txnOf e ((s.entry e).gen + 1) := by
  unfold State.txn
  rw [h.self]
  rfl

theorem Opens.wf (h : Opens f r e s c) (hl : s.lawful) : c.dir.wf = true := by
  rw [h.dir]
  exact (State.checked_lawful hl _ f).1

/-- The request decided on the record of its line. -/
theorem Opens.decides (h : Opens f r e s c) {w : Way} {old : Record}
    (hon : (s.checked (setOf r.line) f).onLine r.line w old) : c.decideRequest e r false =
      if old.state = .damaged then (c.bind (setOf r.line) w e).startRepair e none
      else match probesNeeded r.kind r.port old with
        | some (kind, set) => (c.bind (setOf r.line) w e).startRound e kind set false
        | none => c.grantInPlace (setOf r.line) w e r (grantOn r.kind r.port r.fullWrite old (Entry.freeOf 0)) := by
  have hanswers : (c.entry e).answers = (Entry.freeOf 0).answers := by
    rw [h.self]
    rfl
  rw [← grantOn_congr hanswers, State.decideRequest_present ((State.findLine_congr h.dir _).trans hon.1)
    ((h.recordAt w).trans hon.2.1)] <;> rfl

end Opens

/-- Settles O20: the free entry is taken for the request and granted in place. -/
theorem lookupGrantsRecord : Obligations.LookupGrantsRecord := by
  intro s f r e w old hd hl hu hm hn hb he hon hdam hprobes
  have hout := intakeOutcome_present (a := s.takeClaim.beginAccess (setOf r.line) f)
    ((s.checked_boundEntry _ f _).trans hb) hn ((s.checked_freeEntry _ f).trans he) hon.1
  have hopen := Opens.begun f r ((Entry.inUse_false_iff _).1 (State.freeEntry_some he))
  change intakeOutcome r _ = ((s.checked (setOf r.line) f).begun r e).decideRequest e r false at hout
  rw [hopen.decides hon, if_neg hdam, hprobes] at hout
  dsimp only at hout ⊢
  generalize (s.checked (setOf r.line) f).begun r e = c at hout hopen
  generalize grantOn r.kind r.port r.fullWrite old (Entry.freeOf 0) = g at *
  have hcm := (hopen.member r.port).trans hm
  have hwf := hopen.wf hl
  have p := GrantsAt.grantInPlace (State.not_fenced_of_member hcm) (setOf r.line) w e g
  have q := InPlace.grantInPlace (State.not_fenced_of_member hcm) (setOf r.line) w e g
  obtain ⟨late, starts, ht⟩ := State.exec_ended (d := .intake r) (f := f) rfl hd rfl rfl hu hout
    (p.integ.trans hopen.integ)
  generalize c.grantInPlace (setOf r.line) w e r g = u at *
  have fin := Finishes.finish (u.ended late starts)
  have con := Concludes.finish u late starts
  generalize (u.ended late starts).finish = t at *
  have hset : t.dirSet (setOf r.line) = (c.written (setOf r.line) w e g.record).dirSet (setOf r.line) :=
    State.dirSet_congr (con.dir.trans q.dir) _
  have hbase : c.dirSet (setOf r.line) = (s.checked (setOf r.line) f).dirSet (setOf r.line) :=
    State.dirSet_congr hopen.dir _
  obtain ⟨more, hmore⟩ := con.outbox
  refine ⟨t, ht, fin.pause.trans (q.pause.trans hopen.pause), ?_, fun v hv => ?_, ?_, ?_, ?_, fun i hi => ?_, ⟨more, ?_⟩,
    fun hre => con.reports _ ?_⟩
  · exact (State.recordAt_congr con.dir _ _).trans (p.record hwf)
  · rw [← hopen.recordAt, ← State.recordAt_written_ne hwf _ hv e g.record]
    exact congrArg (DirSet.record · v) hset
  · rw [hset, State.dirSet_written hwf, hbase]
    rfl
  · rw [hset, State.slot_written hwf, if_pos rfl]
  · rw [con.entry, q.self, hopen.self, hopen.cfg]
    rfl
  · rw [con.entry, p.other i hi, hopen.other i hi]
  · rw [hmore, p.outbox hcm, hopen.outbox hm, hopen.txn]
    rfl
  · rw [← hopen.txn]
    exact q.rerequest hre

end Sys2Proof.Machine
end

section
/-! PROOF. A port outside the domain is sent nothing at the end of an event (R105). -/

namespace Sys2Proof.Machine

/-- A port outside the domain stays there, and `t` holds no message to it that `s` did not hold. -/
def Silent (p : Agent) (s t : State) : Prop :=
  s.member p = false → t.member p = false ∧ ∀ m, ⟨p, m⟩ ∈ t.outbox → ⟨p, m⟩ ∈ s.outbox

section Silent

variable {p : Agent}

theorem Silent.refl (s : State) : Silent p s s := fun h => ⟨h, fun _ hm => hm⟩

theorem Silent.trans {s t u : State} (h : Silent p s t) (g : Silent p t u) : Silent p s u := fun hs => by
  obtain ⟨ht, htm⟩ := h hs
  obtain ⟨hu, hum⟩ := g ht
  exact ⟨hu, fun m hm => htm m (hum m hm)⟩

theorem Silent.of_eq {s t : State} (hp : t.ports = s.ports) (ho : t.outbox = s.outbox) : Silent p s t := fun h =>
  ⟨by unfold State.member State.port at h ⊢; rw [hp]; exact h, fun m hm => ho ▸ hm⟩

theorem Silent.foldl {α : Type} (g : State → α → State) (h : ∀ s a, Silent p s (g s a)) (l : List α) (s : State) :
    Silent p s (l.foldl g s) := by
  induction l generalizing s with
  | nil => exact .refl s
  | cons a l ih => exact (h s a).trans (ih _)

theorem Silent.send (s : State) (q : Agent) (m : OutMsg) : Silent p s (s.send q m) := fun h => by
  refine ⟨by rw [State.member_send]; exact h, fun m' hm => ?_⟩
  rw [State.outbox_send] at hm
  rcases List.mem_append.1 hm with hm | hm
  · exact hm
  · split at hm
    · next hq =>
      cases List.mem_singleton.1 hm
      rw [h] at hq
      cases hq
    · cases hm

/-- A port written anew is outside when it was. -/
theorem Silent.updPort {s : State} {q : Agent} {f : Port → Port}
    (hf : s.member p = false → q = p → (f (s.port p)).state.member = false) : Silent p s (s.updPort q f) := fun h => by
  refine ⟨?_, fun m hm => hm⟩
  unfold State.member
  rw [State.port_updPort]
  split
  · next hq =>
    rw [← hq]
    exact hf h hq.symm
  · exact h

theorem Silent.reply (s : State) (q : Agent) (tag : ReqTag) (m : OutMsg) : Silent p s (s.reply q tag m) :=
  (Silent.send s q m).trans (.updPort fun h _ => h)

theorem Silent.returnCredit (s : State) (q : Agent) : Silent p s (s.returnCredit q) :=
  (Silent.updPort (f := fun x => { x with credits := x.credits + 1 }) fun h _ => h).trans (.send _ q .credit)

theorem Silent.setIntake (s : State) (l : List Request) : Silent p s (s.setIntake l) := .of_eq rfl rfl

theorem Silent.updLeave (s : State) (f : LeaveWalker → LeaveWalker) : Silent p s (s.updLeave f) := .of_eq rfl rfl

theorem Silent.nackLeaving (s : State) (r : Request) : Silent p s (s.nackLeaving r) := .reply s _ _ _

theorem Silent.refuseQueued (s : State) (q : Agent) : Silent p s (s.refuseQueued q) :=
  (Silent.setIntake s _).trans
    (.foldl _ (fun s r => (Silent.nackLeaving s r).trans (.returnCredit (s.nackLeaving r) r.port)) _ _)

theorem Silent.refuseWaiting (s : State) (q : Agent) : Silent p s (s.refuseWaiting q) :=
  (Silent.of_eq (t := s.removeWaiters (grantOf q)) rfl rfl).trans (.foldl _ (fun s r => Silent.nackLeaving s r) _ _)

/-- A port outside the domain begins no leave. -/
theorem Silent.startDrain {s : State} {q : Agent} (h : (s.port q).state = .active) : Silent p s (s.startDrain q) := by
  refine (Silent.updPort (f := fun x => { x with state := .leaving .drain }) fun hm hq => ?_).trans (.updLeave _ _)
  unfold State.member at hm
  rw [← hq, h] at hm
  cases hm

theorem Silent.takeLeave (s : State) (q : Agent) : Silent p s (s.takeLeave q) := by
  unfold State.takeLeave
  dsimp only
  split
  · next ha =>
    have hactive : ((s.returnCredit q).port q).state = .active := by
      rw [State.port_returnCredit, if_pos rfl]
      exact ha
    exact (((Silent.returnCredit s q).trans (.startDrain hactive)).trans (.refuseQueued _ q)).trans (.refuseWaiting _ q)
  · exact .returnCredit s q

theorem Silent.takeLeaves (n : Nat) (s : State) : Silent p s (State.takeLeaves n s) := by
  induction n generalizing s with
  | zero => exact .refl s
  | succ n ih =>
    unfold State.takeLeaves
    split
    · next r rest _ =>
      split
      · exact ((Silent.setIntake s rest).trans (.takeLeave (s.setIntake rest) r.port)).trans (ih _)
      · exact .refl s
    · exact .refl s

theorem Silent.portLeft (s : State) (q : Agent) : Silent p s (s.portLeft q) :=
  (Silent.updPort (q := q) (f := fun x => { x with
    state := .off, rejoinHold := true, tags := 0, credits := 0, probeQueue := [], sends := [] }) fun _ _ => rfl).trans
    (.updLeave _ _)

theorem Silent.sendLeaveDone (s : State) : Silent p s s.sendLeaveDone := by
  unfold State.sendLeaveDone
  split
  · next q _ =>
    split
    · exact (Silent.send s q .leaveDone).trans (.portLeft (s.send q .leaveDone) q)
    · exact .refl s
  · exact .refl s

theorem Silent.enterWalk (s : State) : Silent p s s.enterWalk := by
  unfold State.enterWalk
  split
  · next q _ _ =>
    split
    · next h =>
      obtain ⟨-, hdrain, -⟩ := h
      refine (Silent.updPort (q := q) (f := fun x => { x with state := .leaving .walk }) fun hm hq => ?_).trans
        (.updLeave _ _)
      unfold State.member at hm
      rw [← hq, hdrain] at hm
      cases hm
    · exact .refl s
  · exact .refl s

theorem Silent.sendProbe (s : State) (q : Agent) (e : EntryIdx) : Silent p s (s.sendProbe q e) :=
  ((Silent.send s q (s.probeMsg e)).trans (.of_eq (t := (s.send q (s.probeMsg e)).updEntry e fun x =>
    match x.probes.get q with
    | some b => { x with probes := x.probes.set q.val (some { b with status := .sent }) }
    | none => x) rfl rfl)).trans
    (.updPort (f := fun x => { x with sends := x.sends ++ [⟨s.txn e, false⟩] }) fun h _ => h)

theorem Silent.setQueue (s : State) (q : Agent) (l : List EntryIdx) :
    Silent p s (s.updPort q fun x => { x with probeQueue := l }) := .updPort fun h _ => h

theorem Silent.pumpQueue (q : Agent) (l : List EntryIdx) (s : State) : Silent p s (State.pumpQueue q l s) := by
  induction l generalizing s with
  | nil => exact .setQueue s q []
  | cons e l ih =>
    unfold State.pumpQueue
    split
    · exact (Silent.sendProbe s q e).trans (ih _)
    · exact .setQueue s q (e :: l)

theorem Silent.pump (s : State) : Silent p s s.pump := by
  refine Silent.foldl State.pumpPort (fun s q => ?_) allAgents s
  unfold State.pumpPort
  split
  · exact .pumpQueue q _ s
  · exact .refl s

theorem Silent.refreshService (s : State) : Silent p s s.refreshService := by
  unfold State.refreshService
  split
  · split
    · exact .refl s
    · exact .of_eq rfl rfl
  · exact .of_eq rfl rfl

theorem Silent.listAccesses (s : State) : Silent p s s.listAccesses := .of_eq rfl rfl

theorem Silent.refreshClaims (s : State) : Silent p s s.refreshClaims := .of_eq rfl rfl

theorem Silent.settle (s : State) : Silent p s s.settle := by
  unfold State.settle
  split
  · exact (((((Silent.takeLeaves _ s).trans (Silent.sendLeaveDone _)).trans (Silent.enterWalk _)).trans
      (Silent.pump _)).trans (Silent.listAccesses _)).trans (Silent.refreshClaims _)
  · exact .refreshService s
  · exact .of_eq rfl rfl

theorem Silent.finish (s : State) : Silent p s s.finish := by
  have h := State.unreported_takeReports s.settle
  simp only [State.unreported, Prod.mk.injEq] at h
  obtain ⟨⟨-, -, -, -, -, -, -, -, hports⟩, -, -, -, -, -, hbox, -, -, -⟩ := h
  exact (Silent.settle s).trans (.of_eq hports hbox)

/-- Nothing is sent to a port outside the domain in an event that holds no message yet. -/
theorem Silent.nothing {s t : State} (h : Silent p s t) (hm : s.member p = false) (ho : s.outbox = []) (m : OutMsg) :
    ⟨p, m⟩ ∉ t.outbox := fun ht => by
  obtain ⟨-, hmem⟩ := h hm
  have := hmem m ht
  rw [ho] at this
  cases this

end Silent

end Sys2Proof.Machine
end

section
/-! PROOF. O24: the resolution of a request on the record of its line, and the close of a fenced requester's (R34, R58). -/

namespace Sys2Proof.Machine

/-! ### A record that loses holders (R3) -/

theorem State.recordAt_writeRec_any {s : State} (h : s.dir.wf = true) (k : SetIdx) (w v : Way) (r : Record) :
    (s.writeRec k w r).recordAt k v = if v = w then some r else s.recordAt k v := by
  refine (State.recordAt_updSet_same s k (fun d => d.writeRec w r) v h).trans ?_
  unfold DirSet.record
  rw [DirSet.slot_writeRec]
  split <;> rfl

/-- A record that lost its last holder is freed, or POISONED. -/
theorem State.recordAt_freeOrPoison {s : State} (h : s.dir.wf = true) (k : SetIdx) (w v : Way) (r : Record) :
    (s.freeOrPoison k w r).recordAt k v = if v = w then r.leftWith 0 else s.recordAt k v := by
  unfold State.freeOrPoison Record.leftWith
  rw [if_neg (not_not_intro rfl)]
  cases r.poison with
  | true => exact State.recordAt_writeRec_any h k w v (poisonedRecord r.tag)
  | false =>
    rw [if_neg Bool.false_ne_true, if_neg Bool.false_ne_true]
    split
    · next hv => rw [hv, State.recordAt_freeRec_self h]
    · next hv => exact State.recordAt_freeRec_ne h hv

theorem Frees.refl (s : State) : Frees s s := ⟨fun _ => rfl, fun _ => rfl, rfl, rfl, id⟩

theorem Frees.writeRec (s : State) (k : SetIdx) (w : Way) (r : Record) : Frees s (s.writeRec k w r) :=
  ⟨fun _ => rfl, fun _ => rfl, rfl, rfl, State.wf_updSet s k fun d => d.writeRec w r⟩

theorem Frees.report {s t : State} (h : Frees s t) (x : Report) : Frees s (t.report x) :=
  ⟨h.member, h.txn, h.outbox, h.integ, h.wf⟩

theorem Frees.freeOrPoison (s : State) (k : SetIdx) (w : Way) (r : Record) : Frees s (s.freeOrPoison k w r) := by
  unfold State.freeOrPoison
  split
  · exact .writeRec s k w _
  · exact .freeRec s k w

/-! ### The filter of a close, by its table (R58) -/

section Filter

variable {s : State} {k : SetIdx} {w : Way} {e : EntryIdx} {r : Record}

theorem State.recordAt_filterRecord (h : s.dir.wf = true) (hr : s.recordAt k w = some r) (n : Txn) (v : Way) :
    (s.filterRecord k w r n).recordAt k v = if v = w then closeTable s.fencedSet r else s.recordAt k v := by
  have kept : s.recordAt k v = if v = w then some r else s.recordAt k v := by
    split
    · next hv => rw [hv, hr]
    · rfl
  unfold State.filterRecord closeTable
  cases hs : r.state with
  | shared =>
    dsimp only
    by_cases hn : r.holders &&& ~~~s.fencedSet = 0
    · rw [if_pos hn, hn]
      exact State.recordAt_freeOrPoison h k w v r
    · rw [if_neg hn]
      unfold Record.leftWith
      rw [if_pos hn, hs]
      exact State.recordAt_writeRec_any h k w v _
  | owned =>
    dsimp only
    cases r.owner with
    | none => exact kept
    | some a =>
      show _ = if v = w then (if has s.fencedSet a = true then some (poisonedRecord r.tag) else some r) else _
      dsimp only
      cases has s.fencedSet a with
      | true => exact State.recordAt_writeRec_any h k w v (poisonedRecord r.tag)
      | false => exact kept
  | poisoned => exact kept
  | damaged => exact kept

theorem Frees.filterRecord (s : State) (k : SetIdx) (w : Way) (r : Record) (n : Txn) : Frees s (s.filterRecord k w r n) := by
  unfold State.filterRecord
  split
  · dsimp only
    split
    · exact .freeOrPoison s k w r
    · exact .writeRec s k w _
  · split
    · split
      · exact (Frees.writeRec s k w _).report _
      · exact .refl s
    · exact .refl s
  · exact .refl s
  · exact .refl s

theorem State.filterRecord_poisons {a : Agent} (hs : r.state = .owned) (ho : r.owner = some a)
    (ha : has s.fencedSet a = true) (n : Txn) :
    poisonReport k w r.tag (some a) (some n) ∈ (s.filterRecord k w r n).reports := by
  unfold State.filterRecord
  rw [hs]
  dsimp only
  rw [ho]
  dsimp only
  rw [if_pos ha]
  exact List.mem_append_right _ (List.mem_singleton.2 rfl)

theorem State.closeFilter_on (hf : (s.dirSet k).findTag (tagOf (s.lineOfEntry e)) = some w)
    (hr : s.recordAt k w = some r) : s.closeFilter k e = s.filterRecord k w r (s.txn e) := by
  unfold State.recordAt at hr
  unfold State.closeFilter
  rw [hf]
  dsimp only
  rw [hr]

/-! ### The close on the record at way `w` -/

theorem State.recordAt_closeEntry (h : s.dir.wf = true) (hf : (s.dirSet k).findTag (tagOf (s.lineOfEntry e)) = some w)
    (hr : s.recordAt k w = some r) (v : Way) :
    (s.closeEntry k e).recordAt k v = if v = w then closeTable s.fencedSet r else s.recordAt k v := by
  have heq := State.closeFilter_on hf hr
  have c := Closes.closeEntry s k e
  rw [heq] at c
  rw [c.record ((Frees.filterRecord s k w r _).wf h), State.recordAt_filterRecord h hr]

theorem State.outbox_closeEntry (hf : (s.dirSet k).findTag (tagOf (s.lineOfEntry e)) = some w)
    (hr : s.recordAt k w = some r) : (s.closeEntry k e).outbox = s.outbox := by
  have c := (Closes.closeEntry s k e).off
  rw [State.closeFilter_on hf hr] at c
  exact (congrArg (fun x => x.2.1) c).trans (Frees.filterRecord s k w r _).outbox

theorem State.closeEntry_poisons (hf : (s.dirSet k).findTag (tagOf (s.lineOfEntry e)) = some w)
    (hr : s.recordAt k w = some r) {a : Agent} (hs : r.state = .owned) (ho : r.owner = some a)
    (ha : has s.fencedSet a = true) : poisonReport k w r.tag (some a) (some (s.txn e)) ∈ (s.closeEntry k e).reports := by
  have c := (Closes.closeEntry s k e).off
  rw [State.closeFilter_on hf hr] at c
  have hreports : (s.closeEntry k e).reports = (s.filterRecord k w r (s.txn e)).reports := congrArg (fun x => x.2.2.1) c
  rw [hreports]
  exact State.filterRecord_poisons hs ho ha _

theorem Silent.closeEntry (p : Agent) (hf : (s.dirSet k).findTag (tagOf (s.lineOfEntry e)) = some w)
    (hr : s.recordAt k w = some r) : Silent p s (s.closeEntry k e) := fun h => by
  refine ⟨?_, fun m hm => State.outbox_closeEntry hf hr ▸ hm⟩
  unfold State.member at h ⊢
  rw [((Keeps.closeEntry (k := k) s e).ports p).state]
  exact h

end Filter

/-! ### The resolution of a request on its record (R34) -/

theorem resolutionOutcome_present {a : Access} {e : EntryIdx} {r : Request} {w : Way} {old : Record}
    (hr : a.s.requestOf e = some r) (hw : a.s.findLine r.line = some w) (ho : a.s.recordAt (setOf r.line) w = some old)
    (hdam : old.state ≠ .damaged) : resolutionOutcome e a =
      a.s.grantInPlace (setOf r.line) w e r (grantOn r.kind r.port r.fullWrite old (a.s.entry e)) := by
  have hres := State.resolve_present hw ho e none false
  unfold State.recordAt at ho
  unfold resolutionOutcome
  rw [hr]
  dsimp only
  unfold State.resolveHeld
  rw [hw]
  dsimp only
  rw [ho]
  dsimp only
  rw [if_neg hdam, hres]

/-- The state in which a resolution with GRANT `g` closes or sends: the record written, the reports made. -/
def State.resolved (s : State) (k : SetIdx) (w : Way) (e : EntryIdx) (r : Request) (g : Grant) : State :=
  (s.written k w e g.record).grantReports k w e r g

theorem State.of_resolved {α : Type} (f : State → α) (hf : ∀ z : State, f z.offReports = f z) (s : State) (k : SetIdx)
    (w : Way) (e : EntryIdx) (r : Request) (g : Grant) : f (s.resolved k w e r g) = f (s.written k w e g.record) :=
  State.of_offReports f hf (State.offReports_grantReports _ k w e r g).1

/-- A resolution for a fenced requester is the close of its entry. -/
theorem State.grantInPlace_fenced {s : State} {r : Request} (h : s.fenced r.port = true) (k : SetIdx) (w : Way)
    (e : EntryIdx) (g : Grant) : s.grantInPlace k w e r g = (s.resolved k w e r g).closeEntry k e := by
  have hf : (s.resolved k w e r g).fenced r.port = true :=
    (State.of_resolved (fun z => z.fenced r.port) (fun _ => rfl) s k w e r g).trans h
  show (s.resolved k w e r g).finishGrant k e r g = _
  unfold State.finishGrant
  rw [if_pos hf]

/-- What the resolution of entry `e` finds: its set, its request, and its line's record. -/
theorem resolutionOutcome_checked {s : State} {f : List CellFault} {e : EntryIdx} {r : Request} {w : Way} {old : Record}
    (hr : s.requestOf e = some r) (hon : (s.checked (setOf r.line) f).onLine r.line w old) (hdam : old.state ≠ .damaged) :
    resolutionOutcome e (s.takeClaim.beginAccess (setOf r.line) f) = (s.checked (setOf r.line) f).grantInPlace
      (setOf r.line) w e r (grantOn r.kind r.port r.fullWrite old (s.entry e)) := by
  rw [← s.checked_entry (setOf r.line) f e]
  exact resolutionOutcome_present ((s.checked_requestOf _ f e).trans hr) hon.1 hon.2.1 hdam

/-- The resolution of a requester in the domain sends its GRANT. -/
theorem resolution_grants {s : State} {f : List CellFault} {e : EntryIdx} {r : Request} {w : Way} {old : Record}
    {g : Grant} (hd : s.due = some (.resolution e)) (hu : s.undisturbed (setOf r.line) f)
    (hr : s.requestOf e = some r) (hm : s.member r.port = true)
    (hon : (s.checked (setOf r.line) f).onLine r.line w old) (hdam : old.state ≠ .damaged)
    (hg : grantOn r.kind r.port r.fullWrite old (s.entry e) = g) :
    ∃ u t, exec (.resolutionAccess f) s = .next t ∧ Concludes u t
      ∧ GrantsAt (setOf r.line) w e r g (s.checked (setOf r.line) f) u
      ∧ InPlace (setOf r.line) w e r g (s.checked (setOf r.line) f) u := by
  have hset : setOf (s.lineOfEntry e) = setOf r.line := by rw [State.lineOfEntry_of_requestOf hr]
  have hfenced := (s.checked_fenced (setOf r.line) f r.port).trans (State.not_fenced_of_member hm)
  have hout := resolutionOutcome_checked hr hon hdam
  rw [hg] at hout
  have p := GrantsAt.grantInPlace hfenced (setOf r.line) w e g
  obtain ⟨t, ht, con⟩ := State.exec_undisturbed (d := .resolution e) (f := f) rfl hd rfl hset hu hout p.integ
  exact ⟨_, t, ht, con, p, .grantInPlace hfenced _ w e g⟩

/-- The record written, its reports made: what the close of a fenced requester's entry finds. -/
theorem State.findTag_resolved {s : State} {e : EntryIdx} {r : Request} {w : Way} {old : Record} {g : Grant}
    (h : s.dir.wf = true) (hr : s.requestOf e = some r) (hon : s.onLine r.line w old) (ht : g.record.tag = old.tag) :
    (((s.resolved (setOf r.line) w e r g).dirSet (setOf r.line)).findTag
      (tagOf ((s.resolved (setOf r.line) w e r g).lineOfEntry e))) = some w := by
  have hline : (s.resolved (setOf r.line) w e r g).lineOfEntry e = r.line := by
    rw [State.of_resolved (fun z => z.lineOfEntry e) fun _ => rfl]
    refine Eq.trans ?_ (State.lineOfEntry_of_requestOf hr)
    unfold State.lineOfEntry
    rw [State.entry_written, if_pos rfl]
  have hrec (v : Way) : (s.resolved (setOf r.line) w e r g).recordAt (setOf r.line) v
      = (s.written (setOf r.line) w e g.record).recordAt (setOf r.line) v :=
    State.of_resolved (fun z => z.recordAt (setOf r.line) v) (fun _ => rfl) s _ w e r g
  rw [hline]
  refine DirSet.findTag_of_record ((hrec w).trans (State.recordAt_written h _ w e g.record)) (ht.trans hon.tag_eq)
    fun v q hq hqt => ?_
  by_cases hv : v = w
  · exact hv
  · exact hon.2.2 v q (((hrec v).trans (State.recordAt_written_ne h _ hv e _)).symm.trans hq) hqt

/-- What the close of a fenced requester's entry leaves of the state `s` of the resolution. -/
structure Refuses (k : SetIdx) (w : Way) (e : EntryIdx) (r : Request) (g : Grant) (s t : State) : Prop where
  record : t.recordAt k w = closeTable s.fencedSet g.record
  others : ∀ v, v ≠ w → t.recordAt k v = s.recordAt k v
  poisons : ∀ a, g.record.state = .owned → g.record.owner = some a → has s.fencedSet a = true →
    poisonReport k w g.record.tag (some a) (some (s.txn e)) ∈ t.reports
  silent : s.outbox = [] → ∀ p, s.member p = false → ∀ m, ⟨p, m⟩ ∉ t.outbox
  ends : Leaves e s t

theorem Refuses.concludes {s : State} {e : EntryIdx} {r : Request} {w : Way} {old : Record} {g : Grant}
    (h : s.dir.wf = true) (hr : s.requestOf e = some r) (hon : s.onLine r.line w old) (ht : g.record.tag = old.tag)
    (late : List Report) (starts : List StartItem) : Refuses (setOf r.line) w e r g s
      ((((s.resolved (setOf r.line) w e r g).closeEntry (setOf r.line) e).ended late starts).finish) := by
  have of {α : Type} (f : State → α) (hf : ∀ z : State, f z.offReports = f z) :=
    State.of_resolved f hf s (setOf r.line) w e r g
  have hfind := State.findTag_resolved h hr hon ht
  have hrec (v : Way) := of (fun z => z.recordAt (setOf r.line) v) fun _ => rfl
  have hrecw := (hrec w).trans (State.recordAt_written h (setOf r.line) w e g.record)
  have hwf : (s.resolved (setOf r.line) w e r g).dir.wf = true := by
    rw [of State.dir fun _ => rfl]
    exact State.wf_written h _ w e g.record
  have hfenced : (s.resolved (setOf r.line) w e r g).fencedSet = s.fencedSet := of State.fencedSet fun _ => rfl
  have htxn := (of (fun z => z.txn e) fun _ => rfl).trans (s.txn_written (setOf r.line) w e g.record)
  have hentry (i : EntryIdx) := (of (fun z => z.entry i) fun _ => rfl).trans
    (s.entry_written (setOf r.line) w e i g.record)
  have hbound : ((s.resolved (setOf r.line) w e r g).slot (setOf r.line) w).bound = some e := by
    rw [of (fun z => z.slot (setOf r.line) w) fun _ => rfl]
    exact (congrArg Slot.bound (State.slot_written h _ w w e g.record)).trans (by rw [if_pos rfl])
  have hmember (p : Agent) : (s.resolved (setOf r.line) w e r g).member p = s.member p :=
    of (fun z => z.member p) fun _ => rfl
  have houtbox : (s.resolved (setOf r.line) w e r g).outbox = s.outbox := of State.outbox fun _ => rfl
  generalize s.resolved (setOf r.line) w e r g = b at *
  have con := Concludes.finish (b.closeEntry (setOf r.line) e) late starts
  have hclosed (v : Way) := State.recordAt_closeEntry hwf hfind hrecw v
  have hleaves : Leaves e b _ := Leaves.concludes (fun v hv => by
    rw [← Option.some.inj (hfind.symm.trans hv)]
    exact hbound) con
  have hsilent (p : Agent) : Silent p b _ := (Silent.closeEntry p hfind hrecw).trans
    ((Silent.of_eq rfl rfl).trans (.finish ((b.closeEntry (setOf r.line) e).ended late starts)))
  generalize ((b.closeEntry (setOf r.line) e).ended late starts).finish = t at *
  refine ⟨?_, fun v hv => ?_, fun a hs ho ha => con.reports _ ?_, fun hnil p hp => ?_, fun hn => ?_, fun i hi => ?_⟩
  · rw [State.recordAt_congr con.dir, hclosed, if_pos rfl, hfenced]
  · rw [State.recordAt_congr con.dir, hclosed, if_neg hv, hrec, State.recordAt_written_ne h _ hv]
  · rw [← htxn]
    exact State.closeEntry_poisons hfind hrecw hs ho (hfenced ▸ ha)
  · exact (hsilent p).nothing ((hmember p).trans hp) (houtbox.trans hnil)
  · rw [hleaves.freed (by rw [hentry, if_pos rfl]; exact hn), hentry, if_pos rfl]
  · rw [hleaves.other i hi, hentry, if_neg hi]

/-- Settles O24: the GRANT of a requester in the domain, the close of a fenced one's entry. -/
theorem resolutionGrants : Obligations.ResolutionGrants := by
  refine ⟨fun s f e r w old hd hl hu hr hm hon hdam => ?_, fun s f e r w old hd hl hu hr hf hon hdam hn => ?_⟩
  · dsimp only
    generalize hg : grantOn r.kind r.port r.fullWrite old (s.entry e) = g
    obtain ⟨u, t, ht, con, p, q⟩ := resolution_grants hd hu hr hm hon hdam hg
    have hwf := (State.checked_lawful hl (setOf r.line) f).1
    have hentry (i : EntryIdx) := s.checked_entry (setOf r.line) f i
    have htxn := s.checked_txn (setOf r.line) f e
    have hcfg : (s.checked (setOf r.line) f).cfg = s.cfg := (SameOutside.checked s (setOf r.line) f).cfg
    have hself : (t.entry e).core = ((s.entry e).granted w g (Config.doneStep * s.cfg.doneTmo)).core := by
      rw [con.entry, q.self, hentry, hcfg]
    have hset : t.dirSet (setOf r.line) = _ := State.dirSet_congr (con.dir.trans q.dir) _
    obtain ⟨more, hmore⟩ := con.outbox
    refine ⟨t, ht, ?_, fun v hv => ?_, ?_, Entry.of_core Entry.phase (fun _ => rfl) hself,
      Entry.of_core Entry.grantSent (fun _ => rfl) hself, Entry.of_core Entry.closePending (fun _ => rfl) hself,
      Entry.of_core Entry.doneTimer (fun _ => rfl) hself, (Entry.of_core Entry.gen (fun _ => rfl) hself).trans rfl,
      ⟨more, ?_⟩, fun o ho => con.reports _ ?_, fun hre => con.reports _ ?_, fun i hi => ?_⟩
    · exact (State.recordAt_congr con.dir _ _).trans (p.record hwf)
    · rw [← State.recordAt_written_ne hwf _ hv e g.record]
      exact congrArg (DirSet.record · v) hset
    · rw [hset, State.dirSet_written hwf]
      rfl
    · rw [hmore, p.outbox ((s.checked_member _ f _).trans hm), State.checked_outbox, htxn]
      rfl
    · rw [← htxn]
      exact q.lost o ho
    · rw [← htxn]
      exact q.rerequest hre
    · rw [con.entry, p.other i hi, hentry]
  · have hset : setOf (s.lineOfEntry e) = setOf r.line := by rw [State.lineOfEntry_of_requestOf hr]
    have hwf := (State.checked_lawful hl (setOf r.line) f).1
    have hentry (i : EntryIdx) := s.checked_entry (setOf r.line) f i
    have hfset : (s.checked (setOf r.line) f).fencedSet = s.fencedSet := by
      unfold State.fencedSet
      rw [funext (s.checked_port (setOf r.line) f)]
    have hout := (resolutionOutcome_checked hr hon hdam).trans
      (State.grantInPlace_fenced ((s.checked_fenced _ f _).trans hf) _ w e _)
    dsimp only
    have htag := grantOn_tag r.kind r.port r.fullWrite old (s.entry e)
    generalize grantOn r.kind r.port r.fullWrite old (s.entry e) = g at *
    obtain ⟨late, starts, ht⟩ := State.exec_ended (d := .resolution e) (f := f) rfl hd rfl hset hu hout
      ((State.integ_closeEntry_any _ _ e).trans (State.of_resolved State.integ (fun _ => rfl) _ _ w e r g))
    have q := Refuses.concludes hwf ((s.checked_requestOf _ f e).trans hr) hon htag late starts
    have hmember : (s.checked (setOf r.line) f).member r.port = false := by
      rw [State.checked_member]
      exact Bool.eq_false_iff.2 fun hm => by rw [State.not_fenced_of_member hm] at hf; cases hf
    refine ⟨_, ht, ?_, q.others, q.silent (s.checked_outbox _ f) r.port hmember, ?_, fun a hs ho ha => ?_, fun i hi => ?_⟩
    · rw [q.record, hfset]
    · rw [q.ends.freed (by rw [hentry]; exact hn), hentry]
    · rw [← htag, ← s.checked_txn (setOf r.line) f e]
      exact q.poisons a hs ho (by rw [hfset]; exact ha)
    · rw [q.ends.other i hi, hentry]

end Sys2Proof.Machine
end

section
/-! PROOF. O23: the lookup of a notice (R36 to R39). -/

namespace Sys2Proof.Machine

/-! ### A record written, freed or left (R3, R15) -/

/-- What is left when the record at way `w` of set `k` becomes `o`. -/
structure Rewrites (k : SetIdx) (w : Way) (o : Option Record) (s t : State) : Prop where
  record : s.dir.wf = true → ∀ v, t.recordAt k v = if v = w then o else s.recordAt k v
  wf : s.dir.wf = true → t.dir.wf = true
  entry : ∀ i, t.entry i = s.entry i ∨ t.entry i = { s.entry i with way := none } ∧ (s.slot k w).bound = some i
  off : { t with dir := s.dir, tt := s.tt } = s

section Rewrites

variable {k : SetIdx} {w : Way} {o : Option Record} {s t : State}

/-- A field beside directory and table. -/
theorem Rewrites.of {α : Type} (h : Rewrites k w o s t) (f : State → α)
    (hf : ∀ z : State, f { z with dir := s.dir, tt := s.tt } = f z) : f t = f s :=
  (hf t).symm.trans (congrArg f h.off)

theorem Rewrites.kept (h : s.recordAt k w = o) : Rewrites k w o s s := by
  refine ⟨fun _ v => ?_, id, fun i => .inl rfl, rfl⟩
  split
  · next hv => rw [hv, h]
  · rfl

theorem Rewrites.writeRec (s : State) (k : SetIdx) (w : Way) (r : Record) : Rewrites k w (some r) s (s.writeRec k w r) :=
  ⟨fun h v => State.recordAt_writeRec_any h k w v r, State.wf_updSet s k fun d => d.writeRec w r, fun _ => .inl rfl, rfl⟩

theorem Rewrites.freeRec (s : State) (k : SetIdx) (w : Way) : Rewrites k w none s (s.freeRec k w) := by
  refine ⟨fun h v => ?_, (Frees.freeRec s k w).wf, fun i => ?_, ?_⟩
  · split
    · next hv => rw [hv, State.recordAt_freeRec_self h]
    · next hv => exact State.recordAt_freeRec_ne h hv
  · rw [State.entry_freeRec]
    split
    · next hb => exact .inr ⟨rfl, hb⟩
    · exact .inl rfl
  · unfold State.freeRec
    dsimp only
    split <;> rfl

theorem Rewrites.freeOrPoison (s : State) (k : SetIdx) (w : Way) (r : Record) :
    Rewrites k w (r.leftWith 0) s (s.freeOrPoison k w r) := by
  unfold State.freeOrPoison Record.leftWith
  rw [if_neg (not_not_intro rfl)]
  cases r.poison with
  | true => exact .writeRec s k w (poisonedRecord r.tag)
  | false => exact .freeRec s k w

theorem Rewrites.removeHolder (s : State) (k : SetIdx) (w : Way) (r : Record) (a : Agent) :
    Rewrites k w (r.leftWith (without r.holders a)) s (s.removeHolder k w r a) := by
  unfold State.removeHolder
  by_cases h : without r.holders a = 0
  · rw [if_pos h, h]
    exact .freeOrPoison s k w r
  · rw [if_neg h]
    unfold Record.leftWith
    rw [if_pos h]
    exact .writeRec s k w _

/-- An entry not bound to the record is left as it is. -/
theorem Rewrites.entry_of_bound (h : Rewrites k w o s t) {i : EntryIdx} (hb : (s.slot k w).bound ≠ some i) :
    t.entry i = s.entry i :=
  (h.entry i).resolve_right fun hi => hb hi.2

end Rewrites

/-! ### The tables of notices (R37 to R39) -/

/-- A notice on a record is acknowledged as its table says, and leaves the record that it says. -/
theorem State.noticeOn_table {s : State} {k : SetIdx} {w : Way} {old : Record} (r : Request)
    (hr : s.recordAt k w = some old) : ∃ u, Rewrites k w (noticeTable r.kind r.port (some old)).2 s u
      ∧ s.noticeOn k w old r = u.ack r (noticeTable r.kind r.port (some old)).1 := by
  unfold State.noticeOn noticeTable
  dsimp only
  cases old.state with
  | shared =>
    dsimp only
    by_cases h : r.kind = .drop ∧ has old.holders r.port = true
    · rw [if_pos h, if_pos h]
      exact ⟨_, .removeHolder s k w old r.port, rfl⟩
    · rw [if_neg h, if_neg h]
      exact ⟨s, .kept hr, rfl⟩
  | owned =>
    dsimp only
    by_cases h : old.holders = only r.port.val
    · rw [if_pos h, if_pos h]
      exact ⟨_, .freeOrPoison s k w old, rfl⟩
    · rw [if_neg h, if_neg h]
      exact ⟨s, .kept hr, rfl⟩
  | poisoned => exact ⟨s, .kept hr, rfl⟩
  | damaged => exact ⟨s, .kept hr, rfl⟩

theorem State.decideNotice_present {s : State} {r : Request} {w : Way} {old : Record} (hw : s.findLine r.line = some w)
    (hr : s.recordAt (setOf r.line) w = some old) : s.decideNotice r = s.noticeOn (setOf r.line) w old r := by
  unfold State.recordAt at hr
  unfold State.decideNotice
  rw [hw]
  dsimp only
  rw [hr]

theorem State.decideNotice_absent {s : State} {r : Request} (h : s.findLine r.line = none) :
    s.decideNotice r = s.ack r true := by
  unfold State.decideNotice
  rw [h]

/-! ### The lookup of a notice (R26) -/

theorem intakeOutcome_notice {a : Access} {r : Request} (hb : a.s.boundEntry r.line = none)
    (hn : r.kind.needsGrant = false) (hl : a.s.findLine r.line = none → (a.s.dirSet (setOf r.line)).lost = false) :
    intakeOutcome r a = (a.s.leaveIntake r).decideNotice r := by
  unfold intakeOutcome
  dsimp only
  rw [hb]
  dsimp only
  rw [if_neg (fun h => by rw [hl (Option.isNone_iff_eq_none.1 h.1)] at h; exact Bool.noConfusion h.2),
    if_neg (by rw [hn]; exact Bool.false_ne_true)]

/-- Settles O23: a miss answered STALE, or refused in a LOST set, and a hit by the table of notices. -/
theorem lookupAnswersNotice : Obligations.LookupAnswersNotice := by
  intro s f r hd hl hu hm hk hb hbound
  dsimp only
  have hn : r.kind.needsGrant = false := by rcases hk with h | h <;> rw [h] <;> rfl
  have hwf := (State.checked_lawful hl (setOf r.line) f).1
  have hentry (i : EntryIdx) := s.checked_entry (setOf r.line) f i
  have hmember : (s.checked (setOf r.line) f).member r.port = true := (s.checked_member _ f _).trans hm
  have hnil := s.checked_outbox (setOf r.line) f
  have hbc : (s.takeClaim.beginAccess (setOf r.line) f).s.boundEntry r.line = none := (s.checked_boundEntry _ f _).trans hb
  have hexec {u : State} := State.exec_undisturbed (s := s) (d := .intake r) (k := setOf r.line) (f := f) (u := u)
    rfl hd rfl rfl hu
  have hnotice : ((s.checked (setOf r.line) f).findLine r.line = none →
      ((s.checked (setOf r.line) f).dirSet (setOf r.line)).lost = false) →
      intakeOutcome r (s.takeClaim.beginAccess (setOf r.line) f)
        = ((s.checked (setOf r.line) f).leaveIntake r).decideNotice r := intakeOutcome_notice hbc hn
  have hlost : (s.checked (setOf r.line) f).findLine r.line = none →
      ((s.checked (setOf r.line) f).dirSet (setOf r.line)).lost = true →
      intakeOutcome r (s.takeClaim.beginAccess (setOf r.line) f)
        = ((s.checked (setOf r.line) f).leaveIntake r).refuseLost r := intakeOutcome_lost hbc
  generalize s.checked (setOf r.line) f = c at *
  have hdir := c.dir_leaveIntake r
  have hcm : (c.leaveIntake r).member r.port = true := (c.member_leaveIntake r _).trans hmember
  have hbox : (c.leaveIntake r).outbox = [⟨r.port, .credit⟩] := by
    rw [State.outbox_leaveIntake hmember, hnil]
    rfl
  have hcentry (i : EntryIdx) : (c.leaveIntake r).entry i = s.entry i := (c.entry_leaveIntake r i).trans (hentry i)
  have hinteg := c.integ_leaveIntake r
  cases hw : c.findLine r.line with
  | none =>
    have hfind : (c.leaveIntake r).findLine r.line = none := (State.findLine_congr hdir _).trans hw
    cases hls : (c.dirSet (setOf r.line)).lost with
    | true =>
      have hout := hlost hw hls
      obtain ⟨t, ht, con⟩ := hexec hout ((State.integ_reply _ r.port r.tag _).trans hinteg)
      refine ⟨t, ht, fun i => ?_, fun _ h => (by cases h), fun w old hon => absurd hw hon.present⟩
      rw [con.entry, State.refuseLost, State.entry_report, State.entry_reply, hcentry]
    | false =>
      have hout := (hnotice fun _ => hls).trans (State.decideNotice_absent hfind)
      obtain ⟨t, ht, con⟩ := hexec hout ((State.integ_reply _ r.port r.tag _).trans hinteg)
      obtain ⟨more, hmore⟩ := con.outbox
      refine ⟨t, ht, fun i => ?_, fun _ _ => ⟨?_, more, ?_⟩, fun w old hon => absurd hw hon.present⟩
      · rw [con.entry, State.ack, State.entry_reply, hcentry]
      · exact con.dir.trans ((State.dir_reply _ _ _ _).trans hdir)
      · rw [hmore, State.ack, State.outbox_reply hcm, hbox]
        rfl
  | some w =>
    have hfind : (c.leaveIntake r).findLine r.line = some w := (State.findLine_congr hdir _).trans hw
    obtain ⟨old, hold, -⟩ := State.findLine_some hw
    have hrec (v : Way) : (c.leaveIntake r).recordAt (setOf r.line) v = c.recordAt (setOf r.line) v :=
      State.recordAt_congr hdir _ v
    obtain ⟨u, q, hack⟩ := State.noticeOn_table (s := c.leaveIntake r) r ((hrec w).trans hold)
    have hout := ((hnotice fun h => nomatch hw.symm.trans h).trans
      (State.decideNotice_present hfind ((hrec w).trans hold))).trans hack
    obtain ⟨t, ht, con⟩ := hexec hout ((State.integ_reply _ _ _ _).trans ((q.of State.integ fun _ => rfl).trans hinteg))
    obtain ⟨more, hmore⟩ := con.outbox
    have hubox : (u.ack r (noticeTable r.kind r.port (some old)).1).outbox = _ :=
      State.outbox_reply ((q.of (fun z => z.member r.port) fun _ => rfl).trans hcm) _ _
    have hslot : ((c.leaveIntake r).slot (setOf r.line) w).bound = none := by
      unfold State.slot
      rw [State.dirSet_congr hdir]
      exact hbound w hw
    have hat (v : Way) : t.recordAt (setOf r.line) v = _ :=
      (State.recordAt_congr (con.dir.trans (State.dir_reply _ _ _ _)) _ v).trans (q.record (by rw [hdir]; exact hwf) v)
    refine ⟨t, ht, fun i => ?_, fun h => (by cases h), fun v x hon => ?_⟩
    · rw [con.entry, State.ack, State.entry_reply, q.entry_of_bound (by rw [hslot]; nofun), hcentry]
    · obtain ⟨rfl, rfl⟩ := hon.unique hw hold
      refine ⟨by rw [hat, if_pos rfl], fun y hy => by rw [hat, if_neg hy, hrec], more, ?_⟩
      rw [hmore, hubox, q.of State.outbox fun _ => rfl, hbox]
      rfl

end Sys2Proof.Machine
end

section
/-! PROOF. O30: a RELEASING access decides the waiter at the front, and the hand-on step (R50, R60 to R62). -/

namespace Sys2Proof.Machine

/-! ### The hand-on step, case by case (R60, R62) -/

theorem ReqKind.needsGrant_of_isNotice {k : ReqKind} (h : k.isNotice = true) : k.needsGrant = false := by
  cases k with
  | rdShared | rdOwn | upgrade | leave => cases h
  | writeback | drop => rfl

section HandOn

variable {s : State} {k : SetIdx} {e : EntryIdx} {i : PoolIdx} {rest : List PoolIdx}

theorem State.handOn_request {q : Request} (h : (s.entry e).waiters = i :: rest) (hi : s.waiter i = some (.request q))
    (hn : q.kind.needsGrant = true) : s.handOn k e =
      s.handTo e i rest (.agent q.port) .request (.agent q.kind q.tag q.fullWrite) := by
  unfold State.handOn
  rw [h]
  dsimp only
  rw [hi]
  exact if_pos hn

theorem State.handOn_recallLine {m : Line} (h : (s.entry e).waiters = i :: rest) (hi : s.waiter i = some (.recallLine m)) :
    s.handOn k e = (s.handTo e i rest .service .service .recallLine).updSvc fun v => { v with waiting := .entry e } := by
  unfold State.handOn
  rw [h]
  dsimp only
  rw [hi]
  rfl

/-- A front slot without an entry waiter: the entry stays, or goes, into RELEASING. -/
theorem State.handOn_releasing (h : (s.entry e).waiters = i :: rest) (hi : ∀ x, s.waiter i = some x → x.oneAccess = true) :
    s.handOn k e = s.enterReleasing e := by
  unfold State.handOn
  rw [h]
  dsimp only
  split
  · next q hq =>
    rw [ReqKind.needsGrant_of_isNotice (hi _ hq), if_neg Bool.false_ne_true]
  · next m hm => cases hi _ hm
  · rfl
  · rfl

end HandOn

theorem State.pool_leaveSnapshots (s : State) (e : EntryIdx) : (s.leaveSnapshots e).pool = s.pool := by
  have fold (l : List Agent) (u : State) : (l.foldl (State.leaveSnapshot e) u).pool = u.pool := by
    induction l generalizing u with
    | nil => rfl
    | cons p l ih =>
      refine (ih _).trans ?_
      unfold State.leaveSnapshot
      dsimp only
      split
      · split <;> rfl
      · rfl
  exact fold allAgents s

/-- What the hand-on step leaves beside the table and the directory. -/
structure HandsOver (s t : State) : Prop where
  waiter : ∀ i x, t.waiter i = some x → s.waiter i = some x
  status : t.svc.status = s.svc.status
  result : t.svc.result = s.svc.result

theorem HandsOver.releaseEntry (s : State) (k : SetIdx) (e : EntryIdx) : HandsOver s (s.releaseEntry k e) := by
  generalize hu : ((s.updSet k fun d => d.dropBound e).setEntry e (Entry.freeOf (s.entry e).gen)).pauseDown = u
  have hpool : u.pool = s.pool := by rw [← hu]; rfl
  have hsvc : u.svc = s.svc := by rw [← hu]; rfl
  have hs := State.offSnapshots_leaveSnapshots u e
  simp only [State.offSnapshots, Prod.mk.injEq] at hs
  obtain ⟨-, -, hsnap, -⟩ := hs
  have heq : s.releaseEntry k e = u.announceFree e := by rw [← hu]; rfl
  rw [heq]
  refine ⟨fun i x h => ?_, ?_, ?_⟩
  · unfold State.waiter at h ⊢
    rw [← hpool, ← State.pool_leaveSnapshots u e]
    exact h
  · refine Eq.trans ?_ (congrArg ServicePort.status (hsnap.trans hsvc))
    show ServicePort.status (if _ then _ else _) = _
    split <;> rfl
  · refine Eq.trans ?_ (congrArg ServicePort.result (hsnap.trans hsvc))
    show ServicePort.result (if _ then _ else _) = _
    split <;> rfl

theorem State.waiter_freed {s : State} {i j : PoolIdx} {x : Waiter} (h : (s.setWaiter i none).waiter j = some x) :
    s.waiter j = some x := by
  by_cases hj : j = i
  · rw [hj, State.waiter_setWaiter_same] at h
    cases h
  · rwa [State.waiter_setWaiter_ne _ _ hj] at h

theorem HandsOver.handTo (s : State) (e : EntryIdx) (i : PoolIdx) (rest : List PoolIdx) (who : Party)
    (kind : EntryKind) (req : EntryRequest) : HandsOver s (s.handTo e i rest who kind req) :=
  ⟨fun _ _ h => State.waiter_freed h, rfl, rfl⟩

theorem HandsOver.handOn (s : State) (k : SetIdx) (e : EntryIdx) : HandsOver s (s.handOn k e) := by
  have hrel : HandsOver s (s.enterReleasing e) := ⟨fun _ _ h => h, rfl, rfl⟩
  unfold State.handOn
  split
  · exact .releaseEntry s k e
  · next i rest _ =>
    split
    · split
      · exact .handTo s e i rest _ _ _
      · exact hrel
    · have h := HandsOver.handTo s e i rest .service .service .recallLine
      exact ⟨h.waiter, h.status, h.result⟩
    · exact hrel
    · exact hrel

theorem State.recordAt_handOn {s : State} (h : s.dir.wf = true) (k : SetIdx) (e : EntryIdx) (v : Way) :
    (s.handOn k e).recordAt k v = s.recordAt k v := by
  rcases (HandsOn.handOn s k e).set with hd | hd
  · exact State.recordAt_congr hd k v
  · refine (State.recordAt_congr hd k v).trans ((State.recordAt_updSet_same s k (fun d => d.dropBound e) v h).trans ?_)
    exact DirSet.record_dropBound _ e v

/-! ### The hand-on step of an access, from the state before it -/

/-- The state `c` in which the hand-on step of entry `e` finds the waiters `l`, beside the state `s` before the access:
one-access waiters alone may have gone. -/
structure Awaits (s c : State) (e : EntryIdx) (l : List PoolIdx) : Prop where
  gen : (c.entry e).gen = (s.entry e).gen
  line : (c.entry e).line = (s.entry e).line
  waiters : (c.entry e).waiters = l
  intake : c.intake = s.intake
  waiter : ∀ j y, s.waiter j = some y → c.waiter j = some y ∨ c.waiter j = none ∧ y.oneAccess = true

section Awaits

variable {s c t : State} {k : SetIdx} {e : EntryIdx} {l : List PoolIdx}

/-- An entry handed on keeps the waiters behind the front, when no LEAVE waits at the end of the event. -/
theorem Awaits.kept (h : Awaits s c e l) (con : Concludes (c.handOn k e) t) (hs : s.noLeave) :
    (t.entry e).waiters = ((c.handOn k e).entry e).waiters := by
  have hi : (c.handOn k e).intake = s.intake := (Keeps.handOn (k := k) c e).intake.trans h.intake
  obtain ⟨-, -, hw⟩ := con.still fun r hr => hs r (hi ▸ hr)
  exact hw e

/-- An entry handed on to the waiter at the front of its list. -/
def Entry.handedTo (x : Entry) (rest : List PoolIdx) (who : Party) (kind : EntryKind) (req : EntryRequest) : Entry :=
  { Entry.begin x.gen (x.line.getD 0) x.way kind who (some req) rest with line := x.line }

theorem State.entry_handTo (s : State) (e : EntryIdx) (i : PoolIdx) (rest : List PoolIdx) (who : Party) (kind : EntryKind)
    (req : EntryRequest) : (s.handTo e i rest who kind req).entry e = (s.entry e).handedTo rest who kind req :=
  State.entry_setEntry_same _ e _

theorem Awaits.handOnStep (h : Awaits s c e l) (con : Concludes (c.handOn k e) t)
    (hw : ∀ i x, t.waiter i = some x → (c.handOn k e).waiter i = some x) : s.handOnStep t e l := by
  have gone (i : PoolIdx) (hi : (c.handOn k e).waiter i = none) : t.waiter i = none := by
    cases hx : t.waiter i with
    | none => rfl
    | some x => exact nomatch hi.symm.trans (hw i x hx)
  refine ⟨fun hl => ?_, fun i rest q hl hi hn => ?_, fun i rest m hl hi => ?_, fun i rest x hl hi hx => ?_⟩
  · rw [con.entry, (HandsOn.handOn c k e).freed (h.waiters.trans hl), h.gen]
  · have hci : c.waiter i = some (.request q) := (h.waiter i _ hi).resolve_right fun hq => by
      have := ReqKind.needsGrant_of_isNotice hq.2
      rw [hn] at this
      cases this
    have heq := State.handOn_request (k := k) (h.waiters.trans hl) hci hn
    have hself : (t.entry e).core = _ := (con.entry e).trans
      (congrArg Entry.core ((congrArg (State.entry · e) heq).trans (State.entry_handTo _ _ _ _ _ _ _)))
    have hkept := h.kept con
    rw [heq, State.entry_handTo] at hkept
    refine ⟨Entry.of_core Entry.phase (fun _ => rfl) hself,
      (Entry.of_core Entry.gen (fun _ => rfl) hself).trans (congrArg (· + 1) h.gen),
      Entry.of_core Entry.requester (fun _ => rfl) hself, Entry.of_core Entry.request (fun _ => rfl) hself,
      Entry.of_core Entry.kind (fun _ => rfl) hself, (Entry.of_core Entry.line (fun _ => rfl) hself).trans h.line,
      Entry.of_core Entry.grantSent (fun _ => rfl) hself, gone i ?_, hkept⟩
    rw [heq]
    exact State.waiter_setWaiter_same c i none
  · have hci : c.waiter i = some (.recallLine m) := (h.waiter i _ hi).resolve_right fun hq => by cases hq.2
    have heq := State.handOn_recallLine (k := k) (h.waiters.trans hl) hci
    have hself : (t.entry e).core = _ := (con.entry e).trans
      (congrArg Entry.core ((congrArg (State.entry · e) heq).trans
        (State.entry_handTo c e i rest .service .service .recallLine)))
    have hkept := h.kept con
    rw [heq] at hkept
    refine ⟨Entry.of_core Entry.phase (fun _ => rfl) hself,
      (Entry.of_core Entry.gen (fun _ => rfl) hself).trans (congrArg (· + 1) h.gen),
      Entry.of_core Entry.requester (fun _ => rfl) hself, Entry.of_core Entry.request (fun _ => rfl) hself,
      Entry.of_core Entry.kind (fun _ => rfl) hself, (Entry.of_core Entry.line (fun _ => rfl) hself).trans h.line, gone i ?_,
      fun hs => (hkept hs).trans (congrArg Entry.waiters (State.entry_handTo c e i rest .service .service .recallLine))⟩
    rw [heq]
    exact State.waiter_setWaiter_same c i none
  · have hci (y : Waiter) (hy : c.waiter i = some y) : y.oneAccess = true := by
      rcases h.waiter i x hi with hc | ⟨hc, -⟩
      · rw [← Option.some.inj (hc.symm.trans hy)]
        exact hx
      · exact nomatch hc.symm.trans hy
    have heq := State.handOn_releasing (k := k) (h.waiters.trans hl) hci
    have hentry : (c.enterReleasing e).entry e = _ := State.entry_updEntry_same c e _
    have hself : (t.entry e).core = _ := (con.entry e).trans
      (congrArg Entry.core ((congrArg (State.entry · e) heq).trans hentry))
    have hkept := h.kept con
    rw [heq, hentry] at hkept
    exact ⟨Entry.of_core Entry.phase (fun _ => rfl) hself, (Entry.of_core Entry.line (fun _ => rfl) hself).trans h.line,
      (Entry.of_core Entry.gen (fun _ => rfl) hself).trans h.gen, fun hs => (hkept hs).trans h.waiters⟩

end Awaits

end Sys2Proof.Machine
end

section
/-! PROOF. O30: the one-access waiter at the front is decided on its line, and the hand-on step follows (R36, R50, R61,
R186). -/

namespace Sys2Proof.Machine

/-! ### CLEAR_POISON on a record (R186) -/

theorem State.clearPoisonOn_table {s : State} {k : SetIdx} {w : Way} {old : Record} (hr : s.recordAt k w = some old) :
    ∃ u, Rewrites k w (clearPoisonTable (some old)).2 s u
      ∧ s.clearPoisonOn k w old = u.completeWith (clearPoisonTable (some old)).1 := by
  have held : ∃ u, Rewrites k w (if old.poison then (ResultOutcome.cleared, some { old with poison := false })
        else (.notPoisoned, some old)).2 s u
      ∧ (if old.poison then (s.writeRec k w { old with poison := false }).completeWith .cleared
        else s.completeWith .notPoisoned) = u.completeWith (if old.poison then (ResultOutcome.cleared,
          some { old with poison := false }) else (.notPoisoned, some old)).1 := by
    by_cases hp : old.poison = true
    · rw [if_pos hp, if_pos hp]
      exact ⟨_, .writeRec s k w _, rfl⟩
    · rw [if_neg hp, if_neg hp]
      exact ⟨s, .kept hr, rfl⟩
  unfold State.clearPoisonOn clearPoisonTable
  dsimp only
  cases hs : old.state with
  | poisoned => exact ⟨_, .freeRec s k w, rfl⟩
  | damaged => exact ⟨s, .kept hr, rfl⟩
  | shared => rw [hs] at held; exact held
  | owned => rw [hs] at held; exact held

theorem State.decideClearPoison_present {s : State} {l : Line} {w : Way} {old : Record} (hw : s.findLine l = some w)
    (hr : s.recordAt (setOf l) w = some old) : s.decideClearPoison l = s.clearPoisonOn (setOf l) w old := by
  unfold State.recordAt at hr
  unfold State.decideClearPoison
  rw [hw]
  dsimp only
  rw [hr]

theorem State.decideClearPoison_absent {s : State} {l : Line} (h : s.findLine l = none) :
    s.decideClearPoison l = s.completeWith .absent := by
  unfold State.decideClearPoison
  rw [h]

/-! ### A decision on a line -/

/-- What a decision on line `l` leaves: its record alone may change, and the way of the entry it is bound to. -/
structure Decides (l : Line) (s t : State) : Prop where
  wf : s.dir.wf = true → t.dir.wf = true
  record : s.dir.wf = true → ∀ v, s.findLine l ≠ some v → t.recordAt (setOf l) v = s.recordAt (setOf l) v
  entry : ∀ i, t.entry i = s.entry i ∨ t.entry i = { s.entry i with way := none }
    ∧ ∃ w, s.findLine l = some w ∧ (s.slot (setOf l) w).bound = some i
  pool : t.pool = s.pool
  intake : t.intake = s.intake
  integ : t.integ = s.integ

theorem Decides.refl (l : Line) (s : State) : Decides l s s := ⟨id, fun _ _ _ => rfl, fun _ => .inl rfl, rfl, rfl, rfl⟩

theorem Decides.of_rewrites {l : Line} {w : Way} {o : Option Record} {s u : State} (hw : s.findLine l = some w)
    (h : Rewrites (setOf l) w o s u) : Decides l s u := by
  refine ⟨h.wf, fun hwf v hv => ?_, fun i => ?_, h.of State.pool fun _ => rfl, h.of State.intake fun _ => rfl,
    h.of State.integ fun _ => rfl⟩
  · rw [h.record hwf, if_neg fun hvw : v = w => hv (hvw ▸ hw)]
  · exact (h.entry i).imp_right fun ⟨he, hb⟩ => ⟨he, w, hw, hb⟩

theorem Decides.ack {l : Line} {s u : State} (h : Decides l s u) (r : Request) (stale : Bool) :
    Decides l s (u.ack r stale) := by
  have hdir : (u.ack r stale).dir = u.dir := State.dir_reply u r.port r.tag _
  refine ⟨fun hwf => ?_, fun hwf v hv => ?_, fun i => ?_, (State.pool_reply u r.port r.tag _).trans h.pool,
    (State.intake_reply u r.port r.tag _).trans h.intake, (State.integ_reply u r.port r.tag _).trans h.integ⟩
  · rw [hdir]
    exact h.wf hwf
  · rw [State.recordAt_congr hdir, h.record hwf v hv]
  · have he : (u.ack r stale).entry i = u.entry i := State.entry_reply u r.port r.tag _ i
    rw [he]
    exact h.entry i

theorem Decides.completeWith {l : Line} {s u : State} (h : Decides l s u) (o : ResultOutcome) :
    Decides l s (u.completeWith o) := ⟨h.wf, h.record, h.entry, h.pool, h.intake, h.integ⟩

/-- What a notice does on its line, by the tables of notices. -/
structure NoticeDone (r : Request) (s t : State) : Prop extends Decides r.line s t where
  present : ∀ w old, s.findLine r.line = some w → s.recordAt (setOf r.line) w = some old →
    (s.dir.wf = true → t.recordAt (setOf r.line) w = (noticeTable r.kind r.port (some old)).2)
      ∧ (s.member r.port = true →
        t.outbox = s.outbox ++ [⟨r.port, .ack r.tag r.line (noticeTable r.kind r.port (some old)).1⟩])
  absent : s.findLine r.line = none → s.member r.port = true → t.outbox = s.outbox ++ [⟨r.port, .ack r.tag r.line true⟩]

theorem NoticeDone.decideNotice (s : State) (r : Request) : NoticeDone r s (s.decideNotice r) := by
  cases hw : s.findLine r.line with
  | none =>
    rw [State.decideNotice_absent hw]
    exact ⟨(Decides.refl _ s).ack r true, fun w _ h => (nomatch hw.symm.trans h), fun _ hm => State.outbox_reply hm _ _⟩
  | some w =>
    obtain ⟨old, hold, -⟩ := State.findLine_some hw
    obtain ⟨u, q, hack⟩ := State.noticeOn_table r hold
    rw [State.decideNotice_present hw hold, hack]
    refine ⟨(Decides.of_rewrites hw q).ack r _, fun v x hv hx => ?_, fun h => nomatch hw.symm.trans h⟩
    obtain rfl := Option.some.inj (hw.symm.trans hv)
    obtain rfl := Option.some.inj (hold.symm.trans hx)
    refine ⟨fun hwf => ?_, fun hm => ?_⟩
    · refine (State.recordAt_congr (State.dir_reply u r.port r.tag _) _ _).trans ?_
      rw [q.record hwf, if_pos rfl]
    · have hum : u.member r.port = true := (q.of (fun z => z.member r.port) fun _ => rfl).trans hm
      exact (State.outbox_reply hum r.tag _).trans (by rw [q.of State.outbox fun _ => rfl])

/-- What CLEAR_POISON does on its line, by its table. -/
structure PoisonDone (l : Line) (s t : State) : Prop extends Decides l s t where
  status : t.svc.status = .done
  present : ∀ w old, s.findLine l = some w → s.recordAt (setOf l) w = some old →
    (s.dir.wf = true → t.recordAt (setOf l) w = (clearPoisonTable (some old)).2)
      ∧ t.svc.result = { Result.clear with outcome := (clearPoisonTable (some old)).1 }
  absent : s.findLine l = none → t.svc.result = { Result.clear with outcome := (clearPoisonTable none).1 }

theorem PoisonDone.decideClearPoison (s : State) (l : Line) : PoisonDone l s (s.decideClearPoison l) := by
  cases hw : s.findLine l with
  | none =>
    rw [State.decideClearPoison_absent hw]
    exact ⟨(Decides.refl _ s).completeWith .absent, rfl, fun w _ h => (nomatch hw.symm.trans h), fun _ => rfl⟩
  | some w =>
    obtain ⟨old, hold, -⟩ := State.findLine_some hw
    obtain ⟨u, q, hdone⟩ := State.clearPoisonOn_table hold
    rw [State.decideClearPoison_present hw hold, hdone]
    refine ⟨(Decides.of_rewrites hw q).completeWith _, rfl, fun v x hv hx => ?_, fun h => nomatch hw.symm.trans h⟩
    obtain rfl := Option.some.inj (hw.symm.trans hv)
    obtain rfl := Option.some.inj (hold.symm.trans hx)
    refine ⟨fun hwf => ?_, rfl⟩
    show u.recordAt (setOf l) w = _
    rw [q.record hwf, if_pos rfl]

/-! ### The waiter at the front (R50, R61) -/

/-- The state in which the waiter in slot `i` is decided: its slot free, the rest of the list the entry's. -/
def State.unqueued (s : State) (e : EntryIdx) (i : PoolIdx) (rest : List PoolIdx) : State :=
  (s.setWaiter i none).updEntry e fun x => { x with waiters := rest }

theorem State.entry_unqueued (s : State) (e i' : EntryIdx) (i : PoolIdx) (rest : List PoolIdx) :
    (s.unqueued e i rest).entry i' = if i' = e then { s.entry e with waiters := rest } else s.entry i' :=
  State.entry_updEntry _ e i' _

theorem State.decideWaiter_request (s : State) (e : EntryIdx) (i : PoolIdx) (rest : List PoolIdx) (q : Request) :
    s.decideWaiter e i rest (.request q) = (s.unqueued e i rest).decideNotice { q with line := s.lineOfEntry e } := rfl

theorem State.decideWaiter_clearPoison (s : State) (e : EntryIdx) (i : PoolIdx) (rest : List PoolIdx) (m : Line) :
    s.decideWaiter e i rest (.clearPoison m) = (s.unqueued e i rest).decideClearPoison (s.lineOfEntry e) := rfl

/-- A decision on the line of the entry leaves the hand-on step its entry and its waiters. -/
theorem Decides.awaits {l : Line} {s d : State} {e : EntryIdx} {i : PoolIdx} {rest : List PoolIdx} {x : Waiter}
    (h : Decides l (s.unqueued e i rest) d) (hi : s.waiter i = some x) (hx : x.oneAccess = true) :
    Awaits s d e rest := by
  have hself := s.entry_unqueued e e i rest
  rw [if_pos rfl] at hself
  have of {α : Type} (f : Entry → α) (hf : ∀ z : Entry, f { z with way := none } = f z) :
      f (d.entry e) = f { s.entry e with waiters := rest } := by
    rcases h.entry e with he | ⟨he, -⟩
    · rw [he, hself]
    · rw [he, hf, hself]
  have hpool (j : PoolIdx) : d.waiter j = (s.setWaiter i none).waiter j :=
    congrArg (fun p : Vector (Option Waiter) 64 => p.get j) h.pool
  refine ⟨of Entry.gen fun _ => rfl, of Entry.line fun _ => rfl, of Entry.waiters fun _ => rfl, h.intake, fun j y hj => ?_⟩
  rw [hpool]
  by_cases hji : j = i
  · subst hji
    rw [State.waiter_setWaiter_same, ← Option.some.inj (hi.symm.trans hj)]
    exact .inr ⟨rfl, hx⟩
  · rw [State.waiter_setWaiter_ne _ _ hji]
    exact .inl hj

/-- A decision on a line bound to the entry leaves the other entries. -/
theorem Decides.others {l : Line} {s d : State} {e : EntryIdx} {i : PoolIdx} {rest : List PoolIdx}
    (h : Decides l (s.unqueued e i rest) d) (hb : s.lineBound l (some e)) {j : EntryIdx} (hj : j ≠ e) :
    d.entry j = s.entry j := by
  rcases h.entry j with he | ⟨-, w, hw, hwj⟩
  · rw [he, State.entry_unqueued, if_neg hj]
  · exact absurd (Option.some.inj (hwj.symm.trans (hb w hw))) hj

theorem releasingOutcome_oneAccess {a : Access} {e : EntryIdx} {i : PoolIdx} {rest : List PoolIdx} {x : Waiter}
    (h : (a.s.entry e).waiters = i :: rest) (hi : a.s.waiter i = some x) (hx : x.oneAccess = true) :
    releasingOutcome e a = (a.s.decideWaiter e i rest x).handOn (setOf (a.s.lineOfEntry e)) e := by
  unfold releasingOutcome
  dsimp only
  rw [h]
  dsimp only
  rw [hi]
  dsimp only
  rw [if_pos hx]

theorem releasingOutcome_handOn {a : Access} {e : EntryIdx}
    (h : ∀ i rest x, (a.s.entry e).waiters = i :: rest → a.s.waiter i = some x → x.oneAccess = false) :
    releasingOutcome e a = a.s.handOn (setOf (a.s.lineOfEntry e)) e := by
  unfold releasingOutcome
  dsimp only
  split
  · next i rest hw =>
    split
    · next x hx => rw [h i rest x hw hx, if_neg Bool.false_ne_true]
    · rfl
  · rfl

/-- The access of a RELEASING entry whose front waiter is decided, `d` being the state in which the hand-on follows. -/
theorem releasing_decides {s d : State} {f : List CellFault} {e : EntryIdx} {i : PoolIdx} {rest : List PoolIdx}
    {x : Waiter} {l : Line} (hd : s.due = some (.releasing e)) (hu : s.undisturbed (setOf (s.lineOfEntry e)) f)
    (hw : (s.entry e).waiters = i :: rest) (hi : s.waiter i = some x) (hx : x.oneAccess = true)
    (hdec : (s.checked (setOf (s.lineOfEntry e)) f).decideWaiter e i rest x = d)
    (h : Decides l ((s.checked (setOf (s.lineOfEntry e)) f).unqueued e i rest) d) :
    ∃ late starts, exec (.releasingAccess f) s
      = .next ((d.handOn (setOf (s.lineOfEntry e)) e).ended late starts).finish := by
  have hentry (j : EntryIdx) := s.checked_entry (setOf (s.lineOfEntry e)) f j
  have hline := s.checked_lineOfEntry (setOf (s.lineOfEntry e)) f e
  have hpool : (s.checked (setOf (s.lineOfEntry e)) f).waiter i = some x := by
    unfold State.waiter
    rw [(SameOutside.checked s _ f).pool]
    exact hi
  have hout : releasingOutcome e (s.takeClaim.beginAccess (setOf (s.lineOfEntry e)) f)
      = d.handOn (setOf (s.lineOfEntry e)) e := by
    refine (releasingOutcome_oneAccess ((congrArg Entry.waiters (hentry e)).trans hw) hpool hx).trans ?_
    rw [← hdec]
    exact congrArg (fun k => State.handOn _ (setOf k) e) hline
  exact State.exec_ended (d := .releasing e) rfl hd rfl rfl hu hout
    ((congrArg Prod.fst (HandsOn.handOn d (setOf (s.lineOfEntry e)) e).off).trans h.integ)

/-- What the end of the access has of the hand-on step of entry `e` on the waiters `l`, taken in the state `d`. -/
structure Released (k : SetIdx) (e : EntryIdx) (l : List PoolIdx) (s d t : State) : Prop where
  step : s.handOnStep t e l
  other : ∀ j, j ≠ e → (t.entry j).core = (d.entry j).core
  record : d.dir.wf = true → ∀ v, t.recordAt k v = d.recordAt k v
  waiter : ∀ j x, t.waiter j = some x → d.waiter j = some x
  outbox : ∃ more, t.outbox = d.outbox ++ more
  svc : d.svc.status = .done → t.svc.status = .done ∧ t.svc.result = d.svc.result

theorem Released.finish {s d : State} {e : EntryIdx} {l : List PoolIdx} (h : Awaits s d e l) (k : SetIdx)
    (late : List Report) (starts : List StartItem) :
    Released k e l s d ((d.handOn k e).ended late starts).finish := by
  have con := Concludes.finish (d.handOn k e) late starts
  have hw : ∀ i x, ((d.handOn k e).ended late starts).finish.waiter i = some x → (d.handOn k e).waiter i = some x :=
    (Finishes.finish ((d.handOn k e).ended late starts)).waiter
  have hand := HandsOn.handOn d k e
  have hover := HandsOver.handOn d k e
  have hrec (hwf : d.dir.wf = true) := State.recordAt_handOn hwf k e
  have hstep := h.handOnStep con hw
  have hbox : (d.handOn k e).outbox = d.outbox := congrArg (fun x => x.2.1) hand.off
  generalize ((d.handOn k e).ended late starts).finish = t at *
  generalize d.handOn k e = u at *
  refine ⟨hstep, fun j hj => ?_, fun hwf v => ?_, fun j x hx => hover.waiter j x (hw j x hx), ?_, fun hs => ?_⟩
  · rw [con.entry, hand.other j hj]
  · rw [State.recordAt_congr con.dir, hrec hwf]
  · rw [← hbox]
    exact con.outbox
  · have hsvc : t.svc = u.svc := con.svc (by rw [hover.status, hs]; nofun)
    rw [hsvc, hover.status, hover.result]
    exact ⟨hs, rfl⟩

/-- The access of a RELEASING entry whose front waiter is decided on a line bound to the entry. -/
theorem releasing_ends {s d : State} {f : List CellFault} {e : EntryIdx} {i : PoolIdx} {rest : List PoolIdx}
    {x : Waiter} {l : Line} (hd : s.due = some (.releasing e)) (hl : s.lawful)
    (hu : s.undisturbed (setOf (s.lineOfEntry e)) f) (hw : (s.entry e).waiters = i :: rest)
    (hi : s.waiter i = some x) (hx : x.oneAccess = true)
    (hb : (s.checked (setOf (s.lineOfEntry e)) f).lineBound l (some e)) (hline : s.lineOfEntry e = l)
    (hdec : (s.checked (setOf (s.lineOfEntry e)) f).decideWaiter e i rest x = d)
    (h : Decides l ((s.checked (setOf (s.lineOfEntry e)) f).unqueued e i rest) d) :
    ∃ t, exec (.releasingAccess f) s = .next t ∧ Released (setOf l) e rest s d t ∧ t.waiter i = none
      ∧ (∀ j, j ≠ e → (t.entry j).core = (s.entry j).core)
      ∧ ∀ v, (s.checked (setOf (s.lineOfEntry e)) f).findLine l ≠ some v →
        t.recordAt (setOf l) v = (s.checked (setOf (s.lineOfEntry e)) f).recordAt (setOf l) v := by
  obtain ⟨late, starts, ht⟩ := releasing_decides hd hu hw hi hx hdec h
  have hentry (j : EntryIdx) := s.checked_entry (setOf (s.lineOfEntry e)) f j
  have hwf := (State.checked_lawful hl (setOf (s.lineOfEntry e)) f).1
  have hpool : (s.checked (setOf (s.lineOfEntry e)) f).pool = s.pool := (SameOutside.checked s _ f).pool
  have hintake : (s.checked (setOf (s.lineOfEntry e)) f).intake = s.intake := (SameOutside.checked s _ f).intake
  have hci : (s.checked (setOf (s.lineOfEntry e)) f).waiter i = some x := by
    unfold State.waiter
    rw [hpool]
    exact hi
  have ha := h.awaits hci hx
  have hfree : d.waiter i = none :=
    (congrArg (fun p : Vector (Option Waiter) 64 => p.get i) h.pool).trans (State.waiter_setWaiter_same _ i none)
  have hs : Awaits s d e rest := by
    refine ⟨ha.gen.trans (congrArg Entry.gen (hentry e)), ha.line.trans (congrArg Entry.line (hentry e)), ha.waiters,
      ha.intake.trans hintake, fun j y hj => ha.waiter j y ?_⟩
    unfold State.waiter
    rw [hpool]
    exact hj
  rw [hline] at ht
  have q := Released.finish hs (setOf l) late starts
  refine ⟨_, ht, q, ?_, fun j hj => ?_, fun v hv => ?_⟩
  · generalize ((d.handOn (setOf l) e).ended late starts).finish = t at q ⊢
    cases hx : t.waiter i with
    | none => rfl
    | some y => exact nomatch hfree.symm.trans (q.waiter i y hx)
  · rw [q.other j hj, h.others hb hj, hentry]
  · rw [q.record (h.wf hwf), h.record hwf v hv]
    rfl

/-- Settles O30: the front waiter decided by its table, then the hand-on step; or the hand-on step alone. -/
theorem releasingDecidesWaiter : Obligations.ReleasingDecidesWaiter := by
  refine ⟨fun s f e i rest x hd hl hu hw hi hx hb => ?_, fun s f e hd hl hu hw => ?_⟩
  · dsimp only
    have hline := s.checked_lineOfEntry (setOf (s.lineOfEntry e)) f e
    have hwf := (State.checked_lawful hl (setOf (s.lineOfEntry e)) f).1
    have hnil := s.checked_outbox (setOf (s.lineOfEntry e)) f
    cases x with
    | recallLine m => cases hx
    | request q =>
      have hdec : (s.checked (setOf (s.lineOfEntry e)) f).decideWaiter e i rest (.request q)
          = ((s.checked (setOf (s.lineOfEntry e)) f).unqueued e i rest).decideNotice { q with line := s.lineOfEntry e } :=
        (State.decideWaiter_request _ e i rest q).trans
          (congrArg (fun l => State.decideNotice _ { q with line := l }) hline)
      have n := NoticeDone.decideNotice ((s.checked (setOf (s.lineOfEntry e)) f).unqueued e i rest)
        { q with line := s.lineOfEntry e }
      obtain ⟨t, ht, g, hfree, hother, hrec⟩ := releasing_ends hd hl hu hw hi hx hb rfl hdec n.toDecides
      have hm := s.checked_member (setOf (s.lineOfEntry e)) f q.port
      obtain ⟨more, hmore⟩ := g.outbox
      refine ⟨t, ht, hfree, g.step, hother, hrec, fun q' hq => ?_, fun m hm => by cases hm⟩
      cases hq
      refine ⟨fun w old hon => ?_, fun hmem => ⟨fun w old hon => ⟨more, ?_⟩, fun ha => ⟨more, ?_⟩⟩⟩
      · obtain ⟨hpr, -⟩ := n.present w old hon.1 hon.2.1
        rw [g.record (n.wf hwf)]
        exact hpr hwf
      · obtain ⟨-, hack⟩ := n.present w old hon.1 hon.2.1
        rw [hmore, hack (hm.trans hmem)]
        exact congrArg (· ++ _ ++ more) hnil
      · rw [hmore, n.absent ha (hm.trans hmem)]
        exact congrArg (· ++ _ ++ more) hnil
    | clearPoison m =>
      have hdec : (s.checked (setOf (s.lineOfEntry e)) f).decideWaiter e i rest (.clearPoison m)
          = ((s.checked (setOf (s.lineOfEntry e)) f).unqueued e i rest).decideClearPoison (s.lineOfEntry e) :=
        (State.decideWaiter_clearPoison _ e i rest m).trans (congrArg (State.decideClearPoison _) hline)
      have n := PoisonDone.decideClearPoison ((s.checked (setOf (s.lineOfEntry e)) f).unqueued e i rest)
        (s.lineOfEntry e)
      obtain ⟨t, ht, g, hfree, hother, hrec⟩ := releasing_ends hd hl hu hw hi hx hb rfl hdec n.toDecides
      obtain ⟨hdone, hresult⟩ := g.svc n.status
      refine ⟨t, ht, hfree, g.step, hother, hrec, fun q hq => (by cases hq), fun m' hm => ⟨hdone, fun w old hon => ?_,
        fun ha => hresult.trans (n.absent ha)⟩⟩
      obtain ⟨hpr, hres⟩ := n.present w old hon.1 hon.2.1
      exact ⟨(g.record (n.wf hwf) w).trans (hpr hwf), hresult.trans hres⟩
  · have hentry (j : EntryIdx) := s.checked_entry (setOf (s.lineOfEntry e)) f j
    have hwf := (State.checked_lawful hl (setOf (s.lineOfEntry e)) f).1
    have hline := s.checked_lineOfEntry (setOf (s.lineOfEntry e)) f e
    have hpool (j : PoolIdx) : (s.checked (setOf (s.lineOfEntry e)) f).waiter j = s.waiter j := by
      unfold State.waiter
      rw [(SameOutside.checked s _ f).pool]
    have ha : Awaits s (s.checked (setOf (s.lineOfEntry e)) f) e (s.entry e).waiters :=
      ⟨congrArg Entry.gen (hentry e), congrArg Entry.line (hentry e), congrArg Entry.waiters (hentry e),
        (SameOutside.checked s _ f).intake, fun j y hj => .inl ((hpool j).trans hj)⟩
    have hout : releasingOutcome e (s.takeClaim.beginAccess (setOf (s.lineOfEntry e)) f)
        = (s.checked (setOf (s.lineOfEntry e)) f).handOn (setOf (s.lineOfEntry e)) e :=
      (releasingOutcome_handOn fun i rest x hwi hi => hw i rest x ((congrArg Entry.waiters (hentry e)).symm.trans hwi)
        ((hpool i).symm.trans hi)).trans (congrArg (fun k => State.handOn _ (setOf k) e) hline)
    obtain ⟨late, starts, ht⟩ := State.exec_ended (d := .releasing e) (f := f) rfl hd rfl rfl hu hout
      (congrArg Prod.fst (HandsOn.handOn _ _ e).off)
    have g := Released.finish ha (setOf (s.lineOfEntry e)) late starts
    exact ⟨_, ht, g.step, fun j hj => (g.other j hj).trans (congrArg Entry.core (hentry j)), g.record hwf⟩

end Sys2Proof.Machine
end

section
/-! PROOF. What the end of an event makes of a probe that waits at its port: the sends of a calm state's next event
(R71, R72). -/

namespace Sys2Proof.Machine

/-! ### What leaves one agent's probes alone -/

/-- `t` comes from `s` by settling, without a send to agent `a`. -/
structure Spares (a : Agent) (s t : State) : Prop where
  settles : Settles s t
  port : (t.port a).probing = (s.port a).probing
  probe : ∀ i, (t.entry i).probes.get a = (s.entry i).probes.get a

section Spares

variable {a : Agent}

theorem Spares.refl (s : State) : Spares a s s := ⟨.refl s, rfl, fun _ => rfl⟩

theorem Spares.trans {s t u : State} (h : Spares a s t) (g : Spares a t u) : Spares a s u :=
  ⟨h.settles.trans g.settles, g.port.trans h.port, fun i => (g.probe i).trans (h.probe i)⟩

theorem Spares.setIntake (s : State) (l : List Request) : Spares a s (s.setIntake l) := ⟨.setIntake s l, rfl, fun _ => rfl⟩

theorem Spares.probe_of_tt {s t : State} (h : t.tt = s.tt) (i : EntryIdx) :
    (t.entry i).probes.get a = (s.entry i).probes.get a := by
  unfold State.entry
  rw [h]

theorem Spares.takeLeave (s : State) (p : Agent) : Spares a s (s.takeLeave p) := by
  refine ⟨.takeLeave s p, s.probing_takeLeave p a, fun i => ?_⟩
  rcases s.tt_takeLeave p with h | ⟨h, hq⟩
  · exact Spares.probe_of_tt h i
  · rw [Spares.probe_of_tt h, ← Spares.probe_of_tt hq]
    generalize ((s.returnCredit p).startDrain p).refuseQueued p = u
    show ((mapVec _ u.tt).get i).probes.get a = (u.tt.get i).probes.get a
    rw [get_mapVec]

theorem Spares.takeLeaves (n : Nat) (s : State) : Spares a s (State.takeLeaves n s) := by
  induction n generalizing s with
  | zero => exact .refl s
  | succ n ih =>
    unfold State.takeLeaves
    split
    · next r rest _ =>
      split
      · exact ((Spares.setIntake s rest).trans (.takeLeave (s.setIntake rest) r.port)).trans (ih _)
      · exact .refl s
    · exact .refl s

/-- A port that a probe is pending at does not leave. -/
theorem Spares.sendLeaveDone {s : State} {e : EntryIdx} (h : has (s.entry e).pendingSet a = true) :
    Spares a s s.sendLeaveDone := by
  refine ⟨.sendLeaveDone s, ?_, Spares.probe_of_tt (State.tt_sendLeaveDone s)⟩
  unfold State.sendLeaveDone
  split
  · next q _ =>
    split
    · next hready =>
      have hne : a ≠ q := fun hq => by
        subst hq
        unfold State.leaveDoneReady at hready
        rw [Bool.and_eq_true] at hready
        have := List.all_eq_true.1 hready.2 e (mem_allEntries e)
        rw [h] at this
        cases this
      unfold State.portLeft
      rw [State.port_updLeave, State.port_updPort_ne _ _ hne, State.port_send]
    · rfl
  · rfl

theorem Spares.enterWalk (s : State) : Spares a s s.enterWalk :=
  ⟨.enterWalk s, s.probing_enterWalk a, Spares.probe_of_tt (State.tt_enterWalk s)⟩

theorem Spares.sendProbe (s : State) {p : Agent} (e : EntryIdx) (h : a ≠ p) : Spares a s (s.sendProbe p e) := by
  refine ⟨.sendProbe s p e, congrArg Port.probing (State.port_sendProbe_ne s e h), fun i => ?_⟩
  unfold State.sendProbe
  dsimp only
  rw [State.entry_updPort, State.entry_updEntry]
  split
  · next hi =>
    rw [State.entry_send, hi]
    split
    · exact Vector.get_set_other _ _ h
    · rfl
  · rw [State.entry_send]

theorem Spares.setQueue (s : State) {p : Agent} (l : List EntryIdx) (h : a ≠ p) :
    Spares a s (s.updPort p fun x => { x with probeQueue := l }) :=
  ⟨.updPort s p _ fun _ => ⟨rfl, rfl, rfl, rfl, rfl, rfl⟩, congrArg Port.probing (State.port_updPort_ne s _ h),
    fun _ => rfl⟩

theorem Spares.pumpQueue {p : Agent} (h : a ≠ p) (l : List EntryIdx) (s : State) : Spares a s (State.pumpQueue p l s) := by
  induction l generalizing s with
  | nil => exact .setQueue s [] h
  | cons e l ih =>
    unfold State.pumpQueue
    split
    · exact (Spares.sendProbe s e h).trans (ih _)
    · exact .setQueue s (e :: l) h

theorem Spares.pumpPort {p : Agent} (h : a ≠ p) (s : State) : Spares a s (s.pumpPort p) := by
  unfold State.pumpPort
  split
  · exact .pumpQueue h _ s
  · exact .refl s

theorem Spares.pumpPorts {l : List Agent} (h : a ∉ l) (s : State) : Spares a s (l.foldl State.pumpPort s) := by
  induction l generalizing s with
  | nil => exact .refl s
  | cons p l ih =>
    rw [List.mem_cons, not_or] at h
    exact (Spares.pumpPort h.1 s).trans (ih h.2 _)

theorem Spares.listAccesses (s : State) : Spares a s s.listAccesses := ⟨.listAccesses s, rfl, fun _ => rfl⟩

theorem Spares.refreshClaims (s : State) : Spares a s s.refreshClaims := ⟨.refreshClaims s, rfl, fun _ => rfl⟩

theorem Spares.takeReports (s : State) : (s.takeReports.port a).probing = (s.port a).probing
    ∧ (∀ i, (s.takeReports.entry i).probes.get a = (s.entry i).probes.get a) ∧ s.takeReports.outbox = s.outbox := by
  have hr := State.unreported_takeReports s
  simp only [State.unreported, Prod.mk.injEq] at hr
  obtain ⟨⟨-, -, -, -, -, htt, -, -, hports⟩, -, -, -, -, -, hbox, -, -, -⟩ := hr
  refine ⟨?_, Spares.probe_of_tt htt, hbox⟩
  unfold State.port
  rw [hports]

end Spares

/-! ### The sends of one port (R72) -/

/-- A send to agent `a` from a queue that holds entry `e` alone. -/
theorem State.pumpPort_sends {s : State} {a : Agent} {e : EntryIdx} (hm : s.member a = true)
    (hq : (s.port a).probeQueue = [e]) (hc : s.probeCredit a = true) :
    s.pumpPort a = (s.sendProbe a e).updPort a fun x => { x with probeQueue := [] } := by
  unfold State.pumpPort
  rw [if_pos hm, hq]
  unfold State.pumpQueue
  rw [if_pos hc]
  rfl

theorem State.port_sendProbe (s : State) (a : Agent) (e : EntryIdx) :
    (s.sendProbe a e).port a = { s.port a with sends := (s.port a).sends ++ [⟨s.txn e, false⟩] } := by
  unfold State.sendProbe
  dsimp only
  rw [State.port_updPort_same]
  exact congrArg (fun q : Port => { q with sends := q.sends ++ [(⟨s.txn e, false⟩ : Send)] }) (State.port_send s a _ a)

theorem State.probe_sendProbe {s : State} {a : Agent} {e : EntryIdx} {b : Probe}
    (h : (s.entry e).probes.get a = some b) :
    ((s.sendProbe a e).entry e).probes.get a = some { b with status := .sent } := by
  unfold State.sendProbe
  dsimp only
  rw [State.entry_updPort, State.entry_updEntry_same, State.entry_send, h]
  exact Vector.get_set_self _ _ _

theorem State.mem_sendProbe {s : State} {a : Agent} (e : EntryIdx) (hm : s.member a = true) :
    (⟨a, s.probeMsg e⟩ : Sent) ∈ (s.sendProbe a e).outbox := by
  show _ ∈ (s.send a (s.probeMsg e)).outbox
  rw [State.outbox_send, if_pos hm]
  exact List.mem_append_right _ (List.mem_singleton.2 rfl)

/-- The pump's turn of agent `a`, between those of the others. -/
theorem State.pump_split (s : State) (a : Agent) : ∃ l₁ l₂ : List Agent, a ∉ l₁ ∧ a ∉ l₂
    ∧ s.pump = l₂.foldl State.pumpPort ((l₁.foldl State.pumpPort s).pumpPort a) := by
  obtain ⟨l₁, l₂, hl⟩ := List.append_of_mem (mem_allAgents a)
  have hn : allAgents.Nodup := List.nodup_finRange 8
  rw [hl] at hn
  refine ⟨l₁, l₂, fun h => ?_, (List.nodup_cons.1 (List.nodup_append.1 hn).2.1).1, ?_⟩
  · exact (List.nodup_append.1 hn).2.2 a h a (List.mem_cons_self ..) rfl
  · unfold State.pump
    rw [hl, List.foldl_append]
    rfl

/-- The end of an event: the turn of agent `a`, and what leaves its probes alone before it and after it. -/
theorem Spares.finish {u : State} {a : Agent} {e : EntryIdx} (hr : u.part = .run)
    (hp : has (u.entry e).pendingSet a = true) : ∃ v x, Spares a u v ∧ Spares a (v.pumpPort a) x
      ∧ (u.finish.port a).probing = (x.port a).probing
      ∧ (∀ i, (u.finish.entry i).probes.get a = (x.entry i).probes.get a) ∧ u.finish.outbox = x.outbox := by
  have htake := Spares.takeLeaves (a := a) u.intake.length u
  have hpending : has ((State.takeLeaves u.intake.length u).entry e).pendingSet a = true := by
    rw [Entry.of_core Entry.pendingSet (fun _ => rfl) (htake.settles.entry e)]
    exact hp
  have hbefore := (htake.trans (Spares.sendLeaveDone hpending)).trans (Spares.enterWalk _)
  have hsettle : u.settle =
      (((State.takeLeaves u.intake.length u).sendLeaveDone.enterWalk).pump).listAccesses.refreshClaims :=
    State.settle_run hr
  generalize (State.takeLeaves u.intake.length u).sendLeaveDone.enterWalk = w at hbefore hsettle
  obtain ⟨l₁, l₂, h₁, h₂, hpump⟩ := w.pump_split a
  have hafter := ((Spares.pumpPorts h₂ ((l₁.foldl State.pumpPort w).pumpPort a)).trans (Spares.listAccesses _)).trans
    (Spares.refreshClaims _)
  rw [hpump] at hsettle
  rw [← hsettle] at hafter
  obtain ⟨hport, hprobe, hbox⟩ := Spares.takeReports (a := a) u.settle
  exact ⟨_, u.settle, hbefore.trans (.pumpPorts h₁ w), hafter, hport, hprobe, hbox⟩

/-- What the end of an event makes of entry `e`'s new probe `b` at the end of agent `a`'s queue, when a port with a free
credit has no other. -/
theorem State.finish_probe {u : State} {a : Agent} {e : EntryIdx} {q : List EntryIdx} {b : Probe} (hr : u.part = .run)
    (hp : has (u.entry e).pendingSet a = true) (hm : u.member a = true) (hq : (u.port a).probeQueue = q ++ [e])
    (hb : (u.entry e).probes.get a = some b) (hcalm : u.probeCredit a = true → q = []) :
    (u.probeCredit a = true → (u.finish.entry e).probes.get a = some { b with status := .sent }
      ∧ ⟨a, u.probeMsg e⟩ ∈ u.finish.outbox ∧ (u.finish.port a).sends = (u.port a).sends ++ [⟨u.txn e, false⟩]
      ∧ (u.finish.port a).probeQueue = [])
    ∧ (u.probeCredit a = false → (u.finish.entry e).probes.get a = some b
      ∧ (u.finish.port a).sends = (u.port a).sends ∧ (u.finish.port a).probeQueue = q ++ [e]) := by
  obtain ⟨v, x, hv, hx, hport, hprobe, hbox⟩ := Spares.finish hr hp
  have hvport := hv.port
  simp only [Port.probing, Prod.mk.injEq] at hvport
  obtain ⟨hvm, hvq, hvs⟩ := hvport
  have hvmember : v.member a = true := hvm.trans hm
  have hvcredit : v.probeCredit a = u.probeCredit a := by
    unfold State.probeCredit
    rw [hvs, hv.settles.cfg]
  have hcore := hv.settles.entry e
  have hvtxn : v.txn e = u.txn e := congrArg (txnOf e) (Entry.of_core Entry.gen (fun _ => rfl) hcore)
  have hvmsg : v.probeMsg e = u.probeMsg e := by
    unfold State.probeMsg State.lineOfEntry
    rw [hvtxn, Entry.of_core Entry.line (fun _ => rfl) hcore, Entry.of_core Entry.probeKind (fun _ => rfl) hcore]
  have hend := hport.trans hx.port
  have hprobes := (hprobe e).trans (hx.probe e)
  refine ⟨fun hc => ?_, fun hc => ?_⟩
  · have hsends := State.pumpPort_sends hvmember (by rw [hvq, hq, hcalm hc]; rfl) (hvcredit.trans hc)
    rw [hsends, State.port_updPort_same, State.port_sendProbe] at hend
    simp only [Port.probing, Prod.mk.injEq] at hend
    obtain ⟨-, hendq, hends⟩ := hend
    obtain ⟨more, hmore⟩ := hx.settles.outbox
    refine ⟨?_, ?_, ?_, hendq⟩
    · rw [hprobes, hsends, State.entry_updPort, State.probe_sendProbe ((hv.probe e).trans hb)]
    · rw [hbox, hmore, hsends, ← hvmsg]
      exact List.mem_append_left _ (State.mem_sendProbe e hvmember)
    · rw [hends, hvs, hvtxn]
  · have hkept : v.pumpPort a = v := State.pumpPort_pumped fun _ _ => hvcredit.trans hc
    rw [hkept] at hend hprobes
    simp only [Port.probing, Prod.mk.injEq] at hend
    obtain ⟨-, hendq, hends⟩ := hend
    exact ⟨hprobes.trans ((hv.probe e).trans hb), hends.trans hvs, hendq.trans (hvq.trans hq)⟩

end Sys2Proof.Machine
end

section
/-! PROOF. O22: the lookup that starts a probe round (R26, R27, R69, R71, R72). -/

namespace Sys2Proof.Machine

/-! ### The probes of a round (R69) -/

section Round

variable {e : EntryIdx} {a : Agent}

theorem State.startProbe_other (s : State) {b : Agent} (h : a ≠ b) : (State.startProbe e s b).port a = s.port a
    ∧ ((State.startProbe e s b).entry e).probes.get a = (s.entry e).probes.get a
    ∧ (State.startProbe e s b).cfg = s.cfg := by
  unfold State.startProbe
  split
  · refine ⟨State.port_updPort_ne _ _ h, ?_, rfl⟩
    rw [State.entry_updPort, State.entry_updEntry_same]
    exact Vector.get_set_other _ _ h
  · refine ⟨rfl, ?_, rfl⟩
    rw [State.entry_updEntry_same]

theorem State.startProbe_same {s : State} (h : s.member a = true) :
    (State.startProbe e s a).port a = { s.port a with probeQueue := (s.port a).probeQueue ++ [e] }
    ∧ ((State.startProbe e s a).entry e).probes.get a = some s.newProbe := by
  unfold State.startProbe
  rw [if_pos h]
  refine ⟨State.port_updPort_same _ a _, ?_⟩
  rw [State.entry_updPort, State.entry_updEntry_same]
  exact Vector.get_set_self _ _ _

theorem State.startProbes_other {l : List Agent} (h : a ∉ l) (s : State) :
    (l.foldl (State.startProbe e) s).port a = s.port a
    ∧ ((l.foldl (State.startProbe e) s).entry e).probes.get a = (s.entry e).probes.get a := by
  induction l generalizing s with
  | nil => exact ⟨rfl, rfl⟩
  | cons b l ih =>
    rw [List.mem_cons, not_or] at h
    obtain ⟨hport, hprobe, -⟩ := s.startProbe_other (e := e) h.1
    obtain ⟨iport, iprobe⟩ := ih h.2 (State.startProbe e s b)
    exact ⟨iport.trans hport, iprobe.trans hprobe⟩

/-- Each member of the probe set takes its turn once: the entry joins its queue, with a new probe. -/
theorem State.startProbes_same {l : List Agent} (hn : l.Nodup) (ha : a ∈ l) {s : State} (hm : s.member a = true) :
    (l.foldl (State.startProbe e) s).port a = { s.port a with probeQueue := (s.port a).probeQueue ++ [e] }
    ∧ ((l.foldl (State.startProbe e) s).entry e).probes.get a = some s.newProbe := by
  induction l generalizing s with
  | nil => cases ha
  | cons b l ih =>
    obtain ⟨hb, hn⟩ := List.nodup_cons.1 hn
    rw [List.foldl_cons]
    by_cases hab : a = b
    · subst hab
      obtain ⟨hport, hprobe⟩ := State.startProbe_same (e := e) hm
      obtain ⟨iport, iprobe⟩ := State.startProbes_other (e := e) hb (State.startProbe e s a)
      exact ⟨iport.trans hport, iprobe.trans hprobe⟩
    · obtain ⟨hport, -, hcfg⟩ := s.startProbe_other (e := e) hab
      have hm' : (State.startProbe e s b).member a = true := by
        unfold State.member
        rw [hport]
        exact hm
      obtain ⟨iport, iprobe⟩ := ih hn ((List.mem_cons.1 ha).resolve_left hab) hm'
      refine ⟨iport.trans (by rw [hport]), iprobe.trans ?_⟩
      unfold State.newProbe
      rw [hcfg]

theorem nodup_agentsOf (h : AgentSet) : (agentsOf h).Nodup := (List.nodup_finRange 8).filter _

/-- The round of entry `e` at a member of its probe set: the transaction's sends marked, the entry at the end of its
queue. -/
theorem State.startRound_probe {s : State} (kind : ProbeKind) {set : AgentSet} (repair : Bool) (ha : has set a = true)
    (hm : s.member a = true) : (s.startRound e kind set repair).port a = { s.port a with
        sends := markEarlier (s.txn e) (s.port a).sends, probeQueue := (s.port a).probeQueue ++ [e] }
      ∧ ((s.startRound e kind set repair).entry e).probes.get a = some s.newProbe := by
  unfold State.startRound
  dsimp only
  generalize hu : ({ (s.updEntry e _) with ports := _ } : State) = u
  have hport : u.port a = { s.port a with sends := markEarlier (s.txn e) (s.port a).sends } := by
    rw [← hu]
    exact get_mapVec _ _ _
  have hcfg : u.cfg = s.cfg := by rw [← hu]; rfl
  clear hu
  have hum : u.member a = true := by
    unfold State.member
    rw [hport]
    exact hm
  obtain ⟨iport, iprobe⟩ := State.startProbes_same (e := e) (nodup_agentsOf set) ((mem_agentsOf set a).2 ha) hum
  refine ⟨iport.trans (by rw [hport]), iprobe.trans ?_⟩
  unfold State.newProbe
  rw [hcfg]

end Round

/-! ### The round that a lookup starts -/

theorem State.part_of_intake {s : State} {r : Request} (h : s.due = some (.intake r)) : s.part = .run := by
  have granted : s.granted ≠ none := fun hg => by
    unfold State.due at h
    rw [hg] at h
    cases h
  cases hp : s.part with
  | run => rfl
  | init =>
    refine absurd ?_ granted
    unfold State.granted
    rw [hp]
  | halted =>
    obtain ⟨x, hx⟩ := Option.ne_none_iff_exists'.1 granted
    obtain ⟨rfl, -⟩ := State.granted_halted hp hx
    unfold State.due at h
    rw [hx] at h
    cases h

/-- A request decided on a record that needs a round, or a repair, starts it from a state `b` with the same ports. -/
theorem Opens.startsRound {f : List CellFault} {r : Request} {e : EntryIdx} {s c : State} (h : Opens f r e s c) {w : Way}
    {old : Record} {kind : ProbeKind} {set : AgentSet} (hon : (s.checked (setOf r.line) f).onLine r.line w old)
    (hcase : old.state = .damaged ∧ kind = .invalidate ∧ set = s.memberSet
      ∨ old.state ≠ .damaged ∧ probesNeeded r.kind r.port old = some (kind, set)) :
    ∃ b : State, c.decideRequest e r false = b.startRound e kind set (decide (old.state = .damaged))
      ∧ Probing (setOf r.line) w e kind set (decide (old.state = .damaged)) c
        (b.startRound e kind set (decide (old.state = .damaged)))
      ∧ b.ports = c.ports ∧ b.cfg = c.cfg ∧ b.part = c.part ∧ (b.entry e).requester = (c.entry e).requester
      ∧ (b.entry e).gen = (c.entry e).gen := by
  rw [h.decides hon]
  have hbind := State.entry_bind c (setOf r.line) w e e
  rw [if_pos rfl] at hbind
  rcases hcase with ⟨hdam, rfl, rfl⟩ | ⟨hdam, hprobes⟩
  · have hset : c.memberSet = s.memberSet := congrArg agentSet (funext h.member)
    rw [if_pos hdam, decide_eq_true hdam, ← hset]
    refine ⟨(c.bind (setOf r.line) w e).updEntry e fun x => { x with keep := none }, rfl,
      .startRepair c (setOf r.line) w e, rfl, rfl, rfl, ?_, ?_⟩
    all_goals rw [State.entry_updEntry_same, hbind]
  · rw [if_neg hdam, decide_eq_false hdam, hprobes]
    refine ⟨c.bind (setOf r.line) w e, rfl, .startRound c (setOf r.line) w e kind set, rfl, rfl, rfl, ?_, ?_⟩
    all_goals rw [hbind]

/-- The new probes of entry `e`'s round at the end of the lookup, from the calm state `s` before it. -/
theorem State.probesStarted_of {s u : State} {e : EntryIdx} {n : Txn} {l : Line} {kind : ProbeKind} {set : AgentSet}
    (hcalm : s.calm) (hr : s.part = .run) (hpart : u.part = s.part) (hcfg : u.cfg = s.cfg) (hn : u.txn e = n)
    (hl : (u.entry e).line = some l) (hk : (u.entry e).probeKind = some kind)
    (hpending : ∀ a : Agent, has set a = true → s.member a = true → has (u.entry e).pendingSet a = true)
    (h : ∀ a : Agent, has set a = true → s.member a = true → (u.entry e).probes.get a = some s.newProbe
      ∧ (u.port a).probing = (true, (s.port a).probeQueue ++ [e], markEarlier n (s.port a).sends)) :
    s.probesStarted u.finish e n l kind set := by
  intro a ha hm
  obtain ⟨hprobe, hport⟩ := h a ha hm
  simp only [Port.probing, Prod.mk.injEq] at hport
  obtain ⟨hum, huq, hus⟩ := hport
  have hcredit : u.probeCredit a = s.probeCredit a := by
    unfold State.probeCredit markEarlier at *
    rw [hus, hcfg, List.length_map]
  have hmsg : u.probeMsg e = .probe n l kind := by
    unfold State.probeMsg State.lineOfEntry
    rw [hn, hl, hk]
    rfl
  obtain ⟨hpumped, -⟩ := hcalm hr
  obtain ⟨hsent, hkept⟩ := State.finish_probe (hpart.trans hr) (hpending a ha hm) hum huq hprobe fun hc => by
    by_contra hq
    rw [hcredit, hpumped a hm hq] at hc
    cases hc
  rw [hcredit, hus, hmsg, hn] at hsent
  rw [hcredit, hus] at hkept
  cases hc : s.probeCredit a with
  | true =>
    obtain ⟨hp, hbox, hsends, hqueue⟩ := hsent hc
    exact ⟨hp, fun _ => ⟨hbox, hsends, hqueue⟩, fun hf => by cases hf⟩
  | false =>
    obtain ⟨hp, hsends, hqueue⟩ := hkept hc
    exact ⟨hp, fun hf => (by cases hf), fun _ => ⟨hsends, hqueue⟩⟩

/-- What a round started for the request has, in the state `u` at the end of the lookup's outcome, of the state `s` before
the access. -/
structure StartsFor (r : Request) (e : EntryIdx) (set : AgentSet) (s u : State) : Prop where
  part : u.part = s.part
  cfg : u.cfg = s.cfg
  line : (u.entry e).line = some r.line
  requester : (u.entry e).requester = .agent r.port
  txn : u.txn e = txnOf e ((s.entry e).gen + 1)
  probe : ∀ a : Agent, has set a = true → s.member a = true → (u.entry e).probes.get a = some s.newProbe
    ∧ (u.port a).probing =
      (true, (s.port a).probeQueue ++ [e], markEarlier (txnOf e ((s.entry e).gen + 1)) (s.port a).sends)

theorem Opens.startsFor {f : List CellFault} {r : Request} {e : EntryIdx} {s c : State} (h : Opens f r e s c) {w : Way}
    {old : Record} {kind : ProbeKind} {set : AgentSet} (hon : (s.checked (setOf r.line) f).onLine r.line w old)
    (hcase : old.state = .damaged ∧ kind = .invalidate ∧ set = s.memberSet
      ∨ old.state ≠ .damaged ∧ probesNeeded r.kind r.port old = some (kind, set)) :
    Probing (setOf r.line) w e kind set (decide (old.state = .damaged)) c (c.decideRequest e r false)
      ∧ StartsFor r e set s (c.decideRequest e r false) := by
  obtain ⟨b, hround, p, hports, hcfg, hpart, hwho, hgen⟩ := h.startsRound hon hcase
  rw [hround]
  generalize decide (old.state = .damaged) = repair at p ⊢
  have rounds := Rounds.startRound b e kind set repair
  have keeps := Keeps.startRound (k := setOf r.line) b e kind set repair
  have of {α : Type} (g : Entry → α) (hg : ∀ z : Entry, g z.unprobed = g z) :
      g ((b.startRound e kind set repair).entry e) = g ((b.entry e).roundBegun kind repair) := by
    rw [← hg, rounds.self, ← hg]
  have hbtxn : b.txn e = txnOf e ((s.entry e).gen + 1) := by
    unfold State.txn
    rw [hgen, h.self]
    rfl
  have hnew : b.newProbe = s.newProbe := by
    unfold State.newProbe
    rw [hcfg, h.cfg]
  refine ⟨p, keeps.part.trans (hpart.trans h.part), keeps.cfg.trans (hcfg.trans h.cfg),
    p.line.trans (congrArg Entry.line h.self), (of Entry.requester fun _ => rfl).trans
      (hwho.trans (congrArg Entry.requester h.self)), (congrArg (txnOf e) (of Entry.gen fun _ => rfl)).trans hbtxn,
    fun a ha hma => ?_⟩
  have hport : (b.port a).probing = (s.port a).probing :=
    (congrArg (fun x : Vector Port 8 => (x.get a).probing) hports).trans (h.probing a)
  simp only [Port.probing, Prod.mk.injEq] at hport
  obtain ⟨hbm, hbq, hbs⟩ := hport
  obtain ⟨hp, hx⟩ := State.startRound_probe (s := b) (e := e) kind repair ha (hbm.trans hma)
  refine ⟨hx.trans (by rw [hnew]), ?_⟩
  rw [hp, ← hbtxn, ← hbq, ← hbs]
  exact congrArg (fun m => (m, _, _)) (hbm.trans hma)

/-- Settles O22: the free entry is taken and its round started, a repair's for a DAMAGED record. -/
theorem lookupStartsProbeRound : Obligations.LookupStartsProbeRound := by
  intro s f r e w old kind set hd hl hu hm hn hb he hon hcase
  have hout := intakeOutcome_present (a := s.takeClaim.beginAccess (setOf r.line) f)
    ((s.checked_boundEntry _ f _).trans hb) hn ((s.checked_freeEntry _ f).trans he) hon.1
  have hopen := Opens.begun f r ((Entry.inUse_false_iff _).1 (State.freeEntry_some he))
  change intakeOutcome r _ = ((s.checked (setOf r.line) f).begun r e).decideRequest e r false at hout
  generalize (s.checked (setOf r.line) f).begun r e = c at hout hopen
  obtain ⟨p, g⟩ := hopen.startsFor hon hcase
  generalize c.decideRequest e r false = u at hout p g
  obtain ⟨late, starts, ht⟩ := State.exec_ended (d := .intake r) (f := f) rfl hd rfl rfl hu hout
    (p.integ.trans hopen.integ)
  have con := Concludes.finish u late starts
  have q := p.concludes con
  have hpending (a : Agent) : has (u.entry e).pendingSet a = (has set a && s.member a) := by
    rw [p.pending, hopen.member]
  refine ⟨_, ht, q.phase, q.probeKind, ?_, q.way, ?_, q.repairRound, fun a => ⟨?_, ?_⟩, fun hcalm => ?_,
    q.bound (hopen.wf hl), fun v => ?_, fun i hi => ?_⟩
  · exact (Entry.of_core Entry.line (fun _ => rfl) (con.entry e)).trans g.line
  · exact (Entry.of_core Entry.requester (fun _ => rfl) (con.entry e)).trans g.requester
  · rw [q.pending, hopen.member]
  · rw [q.answers, hopen.member]
  · exact State.probesStarted_of (u := u.ended late starts) hcalm (State.part_of_intake hd) g.part g.cfg g.txn g.line
      p.probeKind (fun a ha hma => (hpending a).trans (by rw [ha, hma]; rfl)) g.probe
  · rw [q.record (hopen.wf hl), hopen.recordAt]
  · rw [q.other i hi, hopen.other i hi]

end Sys2Proof.Machine
end

section
/-! SUPPORT. The end of an event whose writes left no LEAVE to take, no departure to answer and no walk to begin, though
probes may wait to be sent; and what the part state of a due access is. -/

namespace Sys2Proof.Machine

/-! ### A quiet end (R72, R112, R124, R127) -/

/-- An event in RUN that leaves the head of the intake queue and the leave walker nothing to do only sends probes, lists
accesses and raises claims. -/
theorem CalmRun.pumpsSettle {s : State} (h : CalmRun s) : Pumps s s.settle := by
  unfold State.settle
  split
  · unfold State.settleRun
    rw [State.takeLeaves_calm s h.head, State.sendLeaveDone_calm s h.done, State.enterWalk_calm s h.walk]
    exact ((Pumps.pump s).trans (Pumps.listAccesses _)).trans (Pumps.refreshClaims _)
  · exact Pumps.refreshService s
  · exact ⟨.of_eq rfl, rfl, rfl, rfl, fun _ => rfl, fun _ => rfl, fun _ _ => rfl⟩

/-- What such an event leaves alone to its end. -/
structure QuietEnd (s t : State) : Prop where
  ends : Finishes s t
  intake : t.intake = s.intake
  pool : t.pool = s.pool
  leave : t.leave = s.leave
  entry : ∀ e, (t.entry e).still = (s.entry e).still

theorem CalmRun.finish {s : State} (h : CalmRun s) : QuietEnd s s.finish := by
  have g := h.pumpsSettle
  have u := State.unreported_takeReports s.settle
  simp only [State.unreported, Prod.mk.injEq] at u
  obtain ⟨⟨-, -, -, -, -, htt, hpool, -, -⟩, hintake, -, -, hleave, -⟩ := u
  refine ⟨Finishes.finish s, hintake.trans g.intake, hpool.trans g.pool, hleave.trans g.leave, fun e => ?_⟩
  show ((State.takeReports s.settle).entry e).still = _
  unfold State.entry
  rw [htt]
  exact g.entry e

theorem State.calmRun {s : State} (h : s.calm) (hr : s.part = .run) : CalmRun s := by
  obtain ⟨-, hhead, hdone, hwalk⟩ := h hr
  exact ⟨hhead, hdone, hwalk⟩

/-- In HALTED the leave walker stands still (R163). -/
theorem State.leave_finish_halted {s : State} (h : s.part = .halted) : s.finish.leave = s.leave := by
  have u := State.unreported_finish_halted h
  simp only [State.unreported, Prod.mk.injEq] at u
  obtain ⟨-, -, -, -, hleave, -⟩ := u
  exact hleave

/-! ### The access that is due runs in RUN -/

/-- In HALTED the array serves the service port alone (R18, R163). -/
theorem State.part_run_of_due {s : State} {d : Due} (h : s.due = some d) (hs : ∀ c, d ≠ .service c) :
    s.part = .run := by
  cases hp : s.part with
  | run => rfl
  | init => exact absurd hp (State.part_of_due h)
  | halted =>
    unfold State.due at h
    cases hg : s.granted with
    | none =>
      rw [hg] at h
      cases h
    | some c =>
      obtain ⟨rfl, -⟩ := State.granted_halted hp hg
      rw [hg] at h
      exact absurd (Option.some.inj h).symm (hs _)

end Sys2Proof.Machine
end

section
/-! PROOF. The writable registers with rows of their own (O50). -/

namespace Sys2Proof.Machine

/-! ### A WRITE by its outcome (R178, R179) -/

theorem State.writeReg_refused {s : State} {r : Reg} {v : Word} {why : RefusalReason} (hp : s.pwrok = true)
    (h : s.clearOutputs.write r v = .refused why) : s.writeReg r v = s.refusedWrite why r.addr := by
  unfold State.writeReg
  rw [if_pos hp, h]
  rfl

theorem State.writeReg_quiet {s u : State} {r : Reg} {v : Word} (hp : s.pwrok = true)
    (h : s.clearOutputs.write r v = .quiet u) : s.writeReg r v = u.setFrame (some (.carried 56 sdoOk)) := by
  unfold State.writeReg
  rw [if_pos hp, h]
  rfl

theorem State.writeReg_live {s u : State} {r : Reg} {v : Word} (hp : s.pwrok = true)
    (h : s.clearOutputs.write r v = .live u) :
    s.writeReg r v = u.finish.setFrame (some (.carried 56 sdoOk)) := by
  unfold State.writeReg
  rw [if_pos hp, h]
  rfl

/-- What a WRITE that reported nothing keeps, to the end of its event, of the state `u` that it left. -/
structure Written (s u t : State) : Prop where
  svc : t.svc = u.svc
  dir : t.dir = u.dir
  cfg : t.cfg = u.cfg
  pause : t.pause = u.pause
  leave : t.leave = u.finish.leave
  spi : t.spi = s.writeAnswered sdoOk

theorem Written.finish {s u : State} (hspi : u.spi = s.spi) (hr : u.reports = []) :
    Written s u (u.finish.setFrame (some (.carried 56 sdoOk))) := by
  have g := Finishes.finish u
  obtain ⟨-, hsvc⟩ := g.calm (State.haltingKind_silent hr)
  refine ⟨hsvc, g.dir, g.cfg, g.pause, rfl, ?_⟩
  show { u.finish.spi with frame := some (.carried 56 sdoOk) } = s.writeAnswered sdoOk
  rw [g.spi, hspi]
  rfl

/-! ### The walker woken by a WRITE of RECALL_BUDGET (R125) -/

theorem LeaveWalker.wakeRoom_eq (w : LeaveWalker) :
    w.wakeRoom = { w with wait := if w.wait = .room then .ready else w.wait } := by
  unfold LeaveWalker.wakeRoom
  split
  · rfl
  · rfl

/-- Waking the walker finishes no departure and begins no walk. -/
theorem CalmRun.updWait {s : State} (w : LeaveWait) (h : CalmRun s) :
    CalmRun (s.updLeave fun l => { l with wait := w }) :=
  ⟨h.head, h.done, h.walk⟩


theorem CalmRun.updCfg {s : State} (f : Settings → Settings) (h : CalmRun s) : CalmRun (s.updCfg f) :=
  ⟨h.head, h.done, h.walk⟩

/-- A WRITE of RECALL_BUDGET to the end of its event. -/
theorem State.leave_finish_wakeLeave {s : State} (f : Settings → Settings) (hr : s.part = .run) (hcalm : s.calm) :
    (s.updCfg f).wakeLeave.finish.leave
      = { s.leave with wait := if s.leave.wait = .room then .ready else s.leave.wait } := by
  have hu : (s.updCfg f).wakeLeave
      = (s.updCfg f).updLeave fun l => { l with wait := if s.leave.wait = .room then .ready else s.leave.wait } := by
    unfold State.wakeLeave
    rw [if_neg (by rw [State.updCfg, hr]; decide), LeaveWalker.wakeRoom_eq]
    rfl
  rw [hu]
  exact ((State.calmRun hcalm hr).updCfg f).updWait _ |>.finish.leave

/-! ### The settings, register by register -/

section Registers

variable {s : State} (hp : s.pwrok = true) (v : Word)
include hp

/-- WINDOW_APPLY. -/
theorem State.exec_windowApply : exec (.windowApply v) s =
    if ∃ p, (s.port p).state ≠ .off then .next (s.refusedWrite .state 0x20)
    else if s.cfg.pendCount.toNat = 0 ∨ 2 ^ 38 < s.cfg.pendBase.toNat + s.cfg.pendCount.toNat then
      .next (s.refusedWrite .range 0x20)
    else .next (s.acceptedCfg { s.cfg with winBase := s.cfg.pendBase, winCount := s.cfg.pendCount }) := by
  have hoff : s.allOff = true ↔ ¬ ∃ p, (s.port p).state ≠ .off := by
    unfold State.allOff
    rw [List.all_eq_true]
    refine ⟨fun h ⟨p, hne⟩ => hne (of_decide_eq_true (h p (mem_allAgents p))), fun h p _ => decide_eq_true ?_⟩
    exact Decidable.not_not.1 fun hne => h ⟨p, hne⟩
  have hw : s.clearOutputs.write .windowApply v =
      if !s.allOff then .refused .state
      else if s.cfg.pendCount.toNat = 0 ∨ 2 ^ 38 < s.cfg.pendBase.toNat + s.cfg.pendCount.toNat then .refused .range
      else .quiet (s.clearOutputs.updCfg fun c => { c with winBase := c.pendBase, winCount := c.pendCount }) := rfl
  show Host.Outcome.next (s.writeReg .windowApply v) = _
  by_cases hany : ∃ p, (s.port p).state ≠ .off
  · have hall : (!s.allOff) = true := by
      rw [Bool.not_eq_true', ← Bool.not_eq_true]
      exact fun h => hoff.1 h hany
    rw [if_pos hall] at hw
    rw [if_pos hany, State.writeReg_refused hp hw]
    rfl
  · rw [if_neg (by rw [hoff.2 hany]; decide)] at hw
    rw [if_neg hany]
    split at hw
    · next hrange => rw [if_pos hrange, State.writeReg_refused hp hw]; rfl
    · next hrange => rw [if_neg hrange, State.writeReg_quiet hp hw]; rfl

/-- REQ_CREDITS: the value is in its range, the port is outside the domain, and the eight values fit their sum. -/
theorem State.exec_reqCreditsWrite (p : Agent) : exec (.reqCreditsWrite p v) s = .next (
    if v.toNat % 16 < 1 ∨ 8 < v.toNat % 16 then s.refusedWrite .range (Reg.reqCredits p).addr
    else if s.member p = true then s.refusedWrite .state (Reg.reqCredits p).addr
    else if s.creditSum p (v.toNat % 16) ≤ 48 then
      (s.clearOutputs.updPort p fun q => { q with reqCredits := v.toNat % 16 }).setFrame (some (.carried 56 sdoOk))
    else s.refusedWrite .sum (Reg.reqCredits p).addr) := by
  have hout : ((s.port p).state = .off ∨ (s.port p).state = .training ∨ (s.port p).state = .fenced
      ∨ (s.port p).state = .fencedClean) ↔ ¬ s.member p = true := by
    unfold State.member
    cases (s.port p).state <;> simp [PortState.member]
  have hw : s.clearOutputs.write (.reqCredits p) v =
      if v.toNat % 16 < 1 ∨ 8 < v.toNat % 16 then .refused .range
      else if (s.port p).state = .off ∨ (s.port p).state = .training ∨ (s.port p).state = .fenced
          ∨ (s.port p).state = .fencedClean then
        if s.creditSum p (v.toNat % 16) ≤ 48 then
          .quiet (s.clearOutputs.updPort p fun q => { q with reqCredits := v.toNat % 16 })
        else .refused .sum
      else .refused .state := rfl
  rw [if_congr hout rfl rfl] at hw
  show Host.Outcome.next (s.writeReg (.reqCredits p) v) = _
  split at hw
  · next h => rw [if_pos h, State.writeReg_refused hp hw]
  · next h =>
    rw [if_neg h]
    split at hw
    · next hm =>
      rw [if_neg hm]
      split at hw
      · next hsum => rw [if_pos hsum, State.writeReg_quiet hp hw]
      · next hsum => rw [if_neg hsum, State.writeReg_refused hp hw]
    · next hm => rw [if_pos (Decidable.not_not.1 hm), State.writeReg_refused hp hw]

/-- PROBE_CREDITS. -/
theorem State.exec_probeCreditsWrite : exec (.probeCreditsWrite v) s = .next (
    if 1 ≤ v.toNat % 65536 ∧ v.toNat % 65536 ≤ 16 then
      (s.clearOutputs.updCfg fun c => { c with probeCredits := v.toNat % 65536 }).finish.setFrame
        (some (.carried 56 sdoOk))
    else s.refusedWrite .range 0x68) := by
  have hw : s.clearOutputs.write .probeCredits v =
      if 1 ≤ v.toNat % 65536 ∧ v.toNat % 65536 ≤ 16 then
        .live (s.clearOutputs.updCfg fun c => { c with probeCredits := v.toNat % 65536 })
      else .refused .range := rfl
  show Host.Outcome.next (s.writeReg .probeCredits v) = _
  split at hw
  · next h => rw [if_pos h, State.writeReg_live hp hw]
  · next h => rw [if_neg h, State.writeReg_refused hp hw]; rfl

/-- RECALL_BUDGET. -/
theorem State.exec_recallBudgetWrite : exec (.recallBudgetWrite v) s = .next (
    if 1 ≤ v.toNat % 65536 ∧ v.toNat % 65536 ≤ 8 then
      (s.clearOutputs.updCfg fun c => { c with recallBudget := v.toNat % 65536 }).wakeLeave.finish.setFrame
        (some (.carried 56 sdoOk))
    else s.refusedWrite .range 0x80) := by
  have hw : s.clearOutputs.write .recallBudget v =
      if 1 ≤ v.toNat % 65536 ∧ v.toNat % 65536 ≤ 8 then
        .live (s.clearOutputs.updCfg fun c => { c with recallBudget := v.toNat % 65536 }).wakeLeave
      else .refused .range := rfl
  show Host.Outcome.next (s.writeReg .recallBudget v) = _
  split at hw
  · next h => rw [if_pos h, State.writeReg_live hp hw]
  · next h => rw [if_neg h, State.writeReg_refused hp hw]; rfl

/-- The marks after a WRITE of one of them. -/
def Settings.withMark (c : Settings) (m : AdmitMark) (x : Nat) : Settings :=
  { c with admitHigh := if m = .high then x else c.admitHigh, admitLow := if m = .high then c.admitLow else x }

/-- An admission mark: in its range, and the high mark stays above the low one. -/
theorem State.exec_admitWrite (m : AdmitMark) : exec (.admitWrite m v) s = .next (
    if v.toNat % 65536 < 1 ∨ 31 < v.toNat % 65536 then s.refusedWrite .range (Reg.admission m).addr
    else if (if m = .high then s.cfg.admitLow else v.toNat % 65536)
        < (if m = .high then v.toNat % 65536 else s.cfg.admitHigh) then
      (s.clearOutputs.updCfg fun c => c.withMark m (v.toNat % 65536)).pauseAgain.finish.setFrame
        (some (.carried 56 sdoOk))
    else s.refusedWrite .order (Reg.admission m).addr) := by
  have hw : s.clearOutputs.write (.admission m) v =
      if v.toNat % 65536 < 1 ∨ 31 < v.toNat % 65536 then .refused .range
      else if (if m = .high then s.cfg.admitLow else v.toNat % 65536)
        < (if m = .high then v.toNat % 65536 else s.cfg.admitHigh) then
        .live (s.clearOutputs.updCfg fun c => c.withMark m (v.toNat % 65536)).pauseAgain
      else .refused .order := by
    cases m <;> rfl
  show Host.Outcome.next (s.writeReg (.admission m) v) = _
  split at hw
  · next h => rw [if_pos h, State.writeReg_refused hp hw]
  · next h =>
    rw [if_neg h]
    by_cases ho : (if m = .high then s.cfg.admitLow else v.toNat % 65536)
        < (if m = .high then v.toNat % 65536 else s.cfg.admitHigh)
    · rw [if_pos ho] at hw ⊢
      rw [State.writeReg_live hp hw]
    · rw [if_neg ho] at hw ⊢
      rw [State.writeReg_refused hp hw]

/-- An error counter takes 0 alone. -/
theorem State.exec_counterWrite (k : ErrKind) : exec (.counterWrite k v) s = .next (
    if v.toNat % 256 = 0 then
      { s.acceptedWrite with err := { s.err with counters := s.err.counters.set (kindIdx k).val 0 } }
    else s.refusedWrite .range (Reg.counter (kindIdx k)).addr) := by
  have hw : s.clearOutputs.write (.counter (kindIdx k)) v =
      if v.toNat % 256 = 0 then
        .quiet { s.clearOutputs with err := { s.err with counters := s.err.counters.set (kindIdx k).val 0 } }
      else .refused .range := rfl
  show Host.Outcome.next (s.writeReg (.counter (kindIdx k)) v) = _
  split at hw
  · next h => rw [if_pos h, State.writeReg_quiet hp hw]; rfl
  · next h => rw [if_neg h, State.writeReg_refused hp hw]

/-- A discard counter takes 0 alone. -/
theorem State.exec_discardCounterWrite (p : Agent) : exec (.discardCounterWrite p v) s = .next (
    if v.toNat % 65536 = 0 then
      (s.clearOutputs.updPort p fun q => { q with discards := 0 }).setFrame (some (.carried 56 sdoOk))
    else s.refusedWrite .range (Reg.discards p).addr) := by
  have hw : s.clearOutputs.write (.discards p) v =
      if v.toNat % 65536 = 0 then .quiet (s.clearOutputs.updPort p fun q => { q with discards := 0 })
      else .refused .range := rfl
  show Host.Outcome.next (s.writeReg (.discards p) v) = _
  split at hw
  · next h => rw [if_pos h, State.writeReg_quiet hp hw]
  · next h => rw [if_neg h, State.writeReg_refused hp hw]

end Registers

/-! ### The two kinds of array written -/

theorem kindOf_kindIdx (k : ErrKind) : kindOf (kindIdx k) = k := by
  cases k <;> rfl

theorem kindIdx_injective {j k : ErrKind} (h : kindIdx j = kindIdx k) : j = k := by
  rw [← kindOf_kindIdx j, h, kindOf_kindIdx]

/-- The counter written reads 0, and every other as before. -/
theorem ErrorUnit.counter_cleared (u : ErrorUnit) (k j : ErrKind) :
    ErrorUnit.counter { u with counters := u.counters.set (kindIdx k).val 0 } j
      = if j = k then 0 else u.counter j := by
  show (u.counters.set (kindIdx k).val 0)[(kindIdx j).val] = _
  split
  · next h => rw [h, Vector.getElem_set_self]
  · next h =>
    exact Vector.getElem_set_ne _ _ fun hv => h (kindIdx_injective (Fin.ext hv)).symm

/-- A WRITE of one port's register changes that port alone. -/
theorem State.updPort_accepted (s : State) (p : Agent) (f : Port → Port) :
    let t := (s.clearOutputs.updPort p f).setFrame (some (.carried 56 sdoOk))
    t.port p = f (s.port p) ∧ (∀ q, q ≠ p → t.port q = s.port q) ∧ { t with ports := s.ports } = s.acceptedWrite :=
  ⟨State.port_updPort_same _ p f, fun _ hq => State.port_updPort_ne _ f hq, rfl⟩

/-- Settles O50: one WRITE after the other, by the register's own equation. -/
theorem settingWritesAreChecked : Obligations.SettingWritesAreChecked := by
  intro s v hp
  refine ⟨State.exec_windowApply hp v, fun p => ?_, ?_, fun m => ?_, ?_, fun k => ?_, fun p => ?_⟩
  · rw [State.exec_reqCreditsWrite hp]
    refine ⟨fun h => by rw [if_pos h]; rfl, fun h1 h8 hm => ?_, fun h1 h8 hm hsum => ?_, fun h1 h8 hm hsum => ?_⟩
    · rw [if_neg (by omega), if_pos hm]; rfl
    · rw [if_neg (by omega), if_neg (by rw [hm]; decide), if_neg (show ¬ s.creditSum p _ ≤ 48 from Nat.not_le.2 hsum)]
      rfl
    · rw [if_neg (by omega), if_neg (by rw [hm]; decide), if_pos (show s.creditSum p _ ≤ 48 from hsum)]
      exact ⟨_, rfl, State.updPort_accepted s p _⟩
  · rw [State.exec_probeCreditsWrite hp]
    split
    · next h =>
      have g := Written.finish (s := s) (u := s.clearOutputs.updCfg fun c => { c with probeCredits := v.toNat % 65536 })
        rfl rfl
      exact ⟨_, rfl, g.svc, g.dir, g.cfg, g.spi⟩
    · rfl
  · have ha : (Reg.admission m).addr = if m = .high then 0x78 else 0x7c := by cases m <;> rfl
    rw [State.exec_admitWrite hp, ha]
    refine ⟨fun h => by rw [if_pos h], fun h1 h31 ho => ?_, fun h1 h31 ho => ?_⟩
    · rw [if_neg (by omega), if_neg (Nat.not_lt.2 ho)]
    · have g := Written.finish (s := s) (u := (s.clearOutputs.updCfg fun c => c.withMark m (v.toNat % 65536)).pauseAgain)
        rfl rfl
      exact ⟨_, by rw [if_neg (by omega), if_pos ho], g.svc, g.dir, g.cfg, g.spi, g.pause⟩
  · rw [State.exec_recallBudgetWrite hp]
    split
    · next h =>
      have g := Written.finish (s := s)
        (u := (s.clearOutputs.updCfg fun c => { c with recallBudget := v.toNat % 65536 }).wakeLeave) rfl rfl
      refine ⟨_, rfl, g.svc, g.dir, g.cfg, g.spi, fun hr => g.leave.trans ?_, fun hr hcalm => g.leave.trans ?_⟩
      · rw [State.leave_finish_halted (by exact hr)]
        exact if_pos hr
      · exact State.leave_finish_wakeLeave _ hr hcalm
    · rfl
  · rw [State.exec_counterWrite hp]
    refine ⟨fun h => ?_, fun h => by rw [if_neg h]; rfl⟩
    rw [if_pos h]
    exact ⟨_, rfl, s.err.counter_cleared k, rfl⟩
  · rw [State.exec_discardCounterWrite hp]
    refine ⟨fun h => ?_, fun h => by rw [if_neg h]; rfl⟩
    rw [if_pos h]
    exact ⟨_, rfl, State.updPort_accepted s p _⟩

end Sys2Proof.Machine
end

section
/-! SUPPORT. A probe round to the end of its event (R68, R69, R71, R72): what it leaves of the entry that runs it and
beside it, the probes that it starts from a calm state, and the round that an access starts on a record in an entry that it
has taken from FREE (R49, R94, R125, R185). -/

namespace Sys2Proof.Machine

/-! ### What a round leaves alone -/

theorem State.startProbe_eq (e : EntryIdx) (s : State) (a : Agent) :
    ∃ tt ports, State.startProbe e s a = { s with tt := tt, ports := ports } := by
  unfold State.startProbe
  split
  · exact ⟨_, _, rfl⟩
  · exact ⟨_, s.ports, rfl⟩

/-- A round changes the table and the ports alone. -/
theorem State.startRound_eq (s : State) (e : EntryIdx) (kind : ProbeKind) (set : AgentSet) (repair : Bool) :
    ∃ tt ports, s.startRound e kind set repair = { s with tt := tt, ports := ports } := by
  have fold (l : List Agent) (u : State) :
      ∃ tt ports, l.foldl (State.startProbe e) u = { u with tt := tt, ports := ports } := by
    induction l generalizing u with
    | nil => exact ⟨u.tt, u.ports, rfl⟩
    | cons a l ih =>
      obtain ⟨tt, ports, h⟩ := State.startProbe_eq e u a
      obtain ⟨tt', ports', h'⟩ := ih (State.startProbe e u a)
      exact ⟨tt', ports', by rw [List.foldl_cons, h', h]⟩
  unfold State.startRound
  obtain ⟨tt, ports, h⟩ := fold (agentsOf set) _
  exact ⟨tt, ports, h⟩

/-! ### The entry that runs the round -/

/-- An entry but for its waiters and for what its probe round has found so far. -/
def Entry.standing (x : Entry) : Entry := x.core.unprobed

/-- A field that `Entry.standing` keeps. -/
theorem Entry.of_standing {α : Type} (g : Entry → α) (hg : ∀ z : Entry, g z.standing = g z) {x y : Entry}
    (h : y.standing = x.standing) : g y = g x := by rw [← hg y, h, hg x]

/-- What a round of entry `e`, started in the state `b`, leaves at the end of its event. -/
structure RoundEnd (b : State) (e : EntryIdx) (kind : ProbeKind) (set : AgentSet) (repair : Bool) (t : State) : Prop where
  dir : t.dir = b.dir
  pause : t.pause = b.pause
  cfg : t.cfg = b.cfg
  inFlight : t.recallUnit.inFlight = b.recallUnit.inFlight
  serves : t.recallUnit.serves = b.recallUnit.serves
  queue : ∃ starts, t.recallUnit.queue = starts ++ b.recallUnit.queue
  self : (t.entry e).standing = ((b.entry e).roundBegun kind repair).standing
  other : ∀ i, i ≠ e → (t.entry i).core = (b.entry i).core
  pending : ∀ a : Agent, has (t.entry e).pendingSet a = (has set a && b.member a)
  answers : ∀ a : Agent, (t.entry e).answers.get a = if has set a ∧ b.member a = false then some .fenceGone else none

theorem RoundEnd.finish (b : State) (e : EntryIdx) (kind : ProbeKind) (set : AgentSet) (repair : Bool)
    (late : List Report) (starts : List StartItem) :
    RoundEnd b e kind set repair ((b.startRound e kind set repair).ended late starts).finish := by
  have r := Rounds.startRound b e kind set repair
  have g := Finishes.finish ((b.startRound e kind set repair).ended late starts)
  obtain ⟨tt, ports, h⟩ := b.startRound_eq e kind set repair
  have hcore := g.entry e
  refine ⟨g.dir.trans r.dir, g.pause.trans (by rw [h]; rfl), g.cfg.trans (by rw [h]; rfl),
    g.inFlight.trans (by rw [h]; rfl), g.serves.trans (by rw [h]; rfl), ⟨starts, g.queue.trans (by rw [h]; rfl)⟩, ?_,
    fun i hi => (g.entry i).trans (congrArg Entry.core (r.other i hi)), fun a => ?_, fun a => ?_⟩
  · exact (congrArg Entry.unprobed hcore).trans (congrArg Entry.core r.self)
  · exact (congrArg (fun s => has s a) (Entry.of_core Entry.pendingSet (fun _ => rfl) hcore)).trans (r.pending a)
  · exact (congrArg (fun v : Vector (Option Answer) 8 => v.get a) (Entry.of_core Entry.answers (fun _ => rfl) hcore)).trans
      (r.answers a)

section

variable {b t : State} {e : EntryIdx} {kind : ProbeKind} {set : AgentSet} {repair : Bool}

theorem RoundEnd.phase (h : RoundEnd b e kind set repair t) : (t.entry e).phase = .probing :=
  Entry.of_standing Entry.phase (fun _ => rfl) h.self

theorem RoundEnd.probeKind (h : RoundEnd b e kind set repair t) : (t.entry e).probeKind = some kind :=
  Entry.of_standing Entry.probeKind (fun _ => rfl) h.self

theorem RoundEnd.repairRound (h : RoundEnd b e kind set repair t) : (t.entry e).repairRound = repair :=
  Entry.of_standing Entry.repairRound (fun _ => rfl) h.self

/-- A field that the start of a round keeps, at the end of the event. -/
theorem RoundEnd.keeps {α : Type} (h : RoundEnd b e kind set repair t) (g : Entry → α)
    (hs : ∀ z : Entry, g z.standing = g z) (hb : ∀ z : Entry, g (z.roundBegun kind repair) = g z) :
    g (t.entry e) = g (b.entry e) :=
  (Entry.of_standing g hs h.self).trans (hb _)

/-- The domain that the round takes its agents from, by the ports before the event. -/
theorem RoundEnd.pending_of {s : State} (h : RoundEnd b e kind set repair t) (hm : ∀ a, b.member a = s.member a)
    (a : Agent) : has (t.entry e).pendingSet a = (has set a && s.member a)
      ∧ (t.entry e).answers.get a = if has set a ∧ s.member a = false then some .fenceGone else none := by
  rw [← hm a]
  exact ⟨h.pending a, h.answers a⟩

end

/-! ### The probes of the round (R71, R72) -/

theorem State.port_ended (u : State) (late : List Report) (starts : List StartItem) (a : Agent) :
    (u.ended late starts).port a = u.port a := rfl

/-- A round that an access starts in the state `b`, with the ports as in the calm state `s` before it: its probes at the
end of the event. -/
theorem State.probesStarted_round {s b : State} (hcalm : s.calm) (hr : s.part = .run) (hpart : b.part = s.part)
    (hcfg : b.cfg = s.cfg) (hports : ∀ a, (b.port a).probing = (s.port a).probing) (e : EntryIdx) (kind : ProbeKind)
    (set : AgentSet) (repair : Bool) (late : List Report) (starts : List StartItem) :
    s.probesStarted ((b.startRound e kind set repair).ended late starts).finish e (b.txn e) (b.lineOfEntry e) kind
      set := by
  intro a ha hm
  have hport := hports a
  simp only [Port.probing, Prod.mk.injEq] at hport
  obtain ⟨hbm, hbq, hbs⟩ := hport
  have rounds := Rounds.startRound b e kind set repair
  obtain ⟨hp, hx⟩ := State.startRound_probe (s := b) (e := e) kind repair ha (hbm.trans hm)
  have hpending := (rounds.pending a).trans (by rw [ha, show b.member a = true from hbm.trans hm])
  have hself : ((b.startRound e kind set repair).entry e).unprobed = ((b.entry e).roundBegun kind repair).unprobed :=
    rounds.self
  obtain ⟨tt, ports, heq⟩ := b.startRound_eq e kind set repair
  have hupart : (b.startRound e kind set repair).part = .run := (congrArg State.part heq).trans (hpart.trans hr)
  have hucfg : (b.startRound e kind set repair).cfg = s.cfg := (congrArg State.cfg heq).trans hcfg
  generalize b.startRound e kind set repair = u at hp hx hpending hself hupart hucfg
  have htxn : u.txn e = b.txn e := congrArg (txnOf e)
    (Entry.of_unprobed (x := (b.entry e).roundBegun kind repair) Entry.gen (fun _ => rfl) hself)
  have hcredit : u.probeCredit a = s.probeCredit a := by
    unfold State.probeCredit
    rw [hp, hucfg, ← hbs]
    unfold markEarlier
    rw [List.length_map]
  have hmsg : u.probeMsg e = .probe (b.txn e) (b.lineOfEntry e) kind := by
    unfold State.probeMsg State.lineOfEntry
    rw [htxn, Entry.of_unprobed Entry.line (fun _ => rfl) hself, Entry.of_unprobed Entry.probeKind (fun _ => rfl) hself]
    rfl
  have hnew : b.newProbe = s.newProbe := by
    unfold State.newProbe
    rw [hcfg]
  obtain ⟨hpumped, -⟩ := hcalm hr
  obtain ⟨hsent, hkept⟩ := State.finish_probe (u := u.ended late starts) (q := (s.port a).probeQueue) (b := s.newProbe)
    hupart hpending (by unfold State.member; rw [State.port_ended, hp]; exact hbm.trans hm)
    (by rw [State.port_ended, hp, ← hbq]) (hx.trans (by rw [hnew])) fun hc => by
      by_contra hq
      exact absurd ((hcredit.symm.trans hc).symm.trans (hpumped a hm hq)) (by decide)
  have hsends : ((u.ended late starts).port a).sends = markEarlier (b.txn e) (s.port a).sends := by
    rw [State.port_ended, hp, hbs]
  rw [hsends] at hsent hkept
  cases hc : s.probeCredit a with
  | true =>
    obtain ⟨hprobe, hbox, hends, hqueue⟩ := hsent (hcredit.trans hc)
    exact ⟨hprobe, fun _ => ⟨hmsg ▸ hbox, htxn ▸ hends, hqueue⟩, fun hf => by cases hf⟩
  | false =>
    obtain ⟨hprobe, hends, hqueue⟩ := hkept (hcredit.trans hc)
    exact ⟨hprobe, fun hf => (by cases hf), fun _ => ⟨hends, hqueue⟩⟩

/-! ### A round on a record, in an entry taken from FREE -/

/-- The round of entry `e` on the record `r` at way `w`: an INVALIDATE round to the agents of `set`, or the record's repair
(R94, R125, R138, R144). -/
def State.roundOn (s : State) (k : SetIdx) (w : Way) (r : Record) (e : EntryIdx) (set : AgentSet) : State :=
  if r.state = .damaged then (s.bind k w e).startRepair e none else (s.bind k w e).startRound e .invalidate set false

/-- The agents that this round goes to: for a DAMAGED record every agent of the domain (R139). -/
def State.roundSet (s : State) (r : Record) (set : AgentSet) : AgentSet :=
  if r.state = .damaged then s.memberSet else set

theorem State.takeBack_eq (s : State) (k : SetIdx) (w : Way) (r : Record) (e : EntryIdx) :
    s.takeBack k w r e = s.roundOn k w r e r.holders := rfl

theorem State.updEntry_self {s : State} {e : EntryIdx} {f : Entry → Entry} (h : f (s.entry e) = s.entry e) :
    s.updEntry e f = s := by
  have ht : s.tt.set e.val (s.entry e) = s.tt := by
    unfold State.entry
    exact Vector.set_getElem_self e.isLt
  unfold State.updEntry State.setEntry
  rw [h, ht]

theorem State.roundOn_eq {s : State} {e : EntryIdx} (h : (s.entry e).keep = none) (k : SetIdx) (w : Way) (r : Record)
    (set : AgentSet) : s.roundOn k w r e set =
      (s.bind k w e).startRound e .invalidate (s.roundSet r set) (decide (r.state = .damaged)) := by
  unfold State.roundOn State.roundSet
  by_cases hd : r.state = .damaged
  · rw [if_pos hd, if_pos hd, decide_eq_true hd]
    unfold State.startRepair
    rw [State.updEntry_self]
    · rfl
    · rw [State.entry_bind, if_pos rfl, ← h]
  · rw [if_neg hd, if_neg hd, decide_eq_false hd]

/-- The round changes the array, the table and the ports alone. -/
theorem State.roundOn_changes (s : State) (k : SetIdx) (w : Way) (r : Record) (e : EntryIdx) (set : AgentSet) :
    ∃ dir tt ports, s.roundOn k w r e set = { s with dir := dir, tt := tt, ports := ports } := by
  unfold State.roundOn
  split
  · obtain ⟨tt, ports, h⟩ := ((s.bind k w e).updEntry e fun x => { x with keep := none }).startRound_eq e .invalidate
      (s.bind k w e).memberSet true
    exact ⟨_, tt, ports, h⟩
  · obtain ⟨tt, ports, h⟩ := (s.bind k w e).startRound_eq e .invalidate set false
    exact ⟨_, tt, ports, h⟩

theorem State.integ_roundOn (s : State) (k : SetIdx) (w : Way) (r : Record) (e : EntryIdx) (set : AgentSet) :
    (s.roundOn k w r e set).integ = s.integ := by
  obtain ⟨dir, tt, ports, h⟩ := s.roundOn_changes k w r e set
  rw [h]

theorem State.svc_roundOn (s : State) (k : SetIdx) (w : Way) (r : Record) (e : EntryIdx) (set : AgentSet) :
    (s.roundOn k w r e set).svc = s.svc := by
  obtain ⟨dir, tt, ports, h⟩ := s.roundOn_changes k w r e set
  rw [h]

/-- The state `c` in which an access on set `k` has taken entry `e` from FREE and made it `x`, without a keep agent. -/
structure Takes (k : SetIdx) (f : List CellFault) (e : EntryIdx) (x : Entry) (s c : State) : Prop where
  part : c.part = s.part
  cfg : c.cfg = s.cfg
  dir : c.dir = (s.checked k f).dir
  integ : c.integ = (s.checked k f).integ
  ports : c.ports = s.ports
  pause : c.pause = (s.pause || decide (s.cfg.admitHigh ≤ s.inUseCount + 1))
  self : c.entry e = x
  keep : x.keep = none
  other : ∀ i, i ≠ e → c.entry i = s.entry i

theorem Takes.takeEntry {s : State} {e : EntryIdx} (h : s.freeEntry = some e) (k : SetIdx) (f : List CellFault) (l : Line)
    (kind : EntryKind) (who : Party) (req : Option EntryRequest) :
    Takes k f e (Entry.begin (s.entry e).gen l none kind who req []) s ((s.checked k f).takeEntry e l kind who req) := by
  have same := SameOutside.checked s k f
  have hentry (i : EntryIdx) := s.checked_entry k f i
  have hfree : ((s.checked k f).entry e).phase = .free := by
    rw [hentry]
    exact (Entry.inUse_false_iff _).1 (State.freeEntry_some h)
  have hcount : (s.checked k f).inUseCount = s.inUseCount := State.inUseCount_congr same.tt
  have hpause : (s.checked k f).pause = s.pause := same.pause
  have hcfg : (s.checked k f).cfg = s.cfg := same.cfg
  refine ⟨same.part, same.cfg, rfl, rfl, same.ports, ?_, ?_, rfl, fun i hi => ?_⟩
  · rw [State.pause_takeEntry, State.inUseCount_takeEntry l kind who req hfree, hpause, hcfg, hcount]
  · rw [State.entry_takeEntry, if_pos rfl, hentry]
  · rw [State.entry_takeEntry, if_neg hi, hentry]

section

variable {k : SetIdx} {f : List CellFault} {e : EntryIdx} {x : Entry} {s c : State}

/-- The fields that `Takes` speaks of. -/
def State.taking (s : State) := (s.part, s.cfg, s.dir, s.integ, s.ports, s.pause, s.tt)

theorem Takes.congr {d : State} (h : Takes k f e x s c) (g : d.taking = c.taking) : Takes k f e x s d := by
  simp only [State.taking, Prod.mk.injEq] at g
  obtain ⟨hpart, hcfg, hdir, hinteg, hports, hpause, htt⟩ := g
  have hentry (i : EntryIdx) : d.entry i = c.entry i := congrArg (fun v : Vector Entry 32 => v.get i) htt
  exact ⟨hpart.trans h.part, hcfg.trans h.cfg, hdir.trans h.dir, hinteg.trans h.integ, hports.trans h.ports,
    hpause.trans h.pause, (hentry e).trans h.self, h.keep, fun i hi => (hentry i).trans (h.other i hi)⟩

theorem Takes.updEntry (h : Takes k f e x s c) {g : Entry → Entry} (hg : (g x).keep = none) :
    Takes k f e (g x) s (c.updEntry e g) :=
  ⟨h.part, h.cfg, h.dir, h.integ, h.ports, h.pause,
    (State.entry_updEntry_same c e g).trans (congrArg g h.self), hg,
    fun i hi => (State.entry_updEntry_ne c g hi).trans (h.other i hi)⟩

theorem Takes.member (h : Takes k f e x s c) (a : Agent) : c.member a = s.member a := by
  unfold State.member State.port
  rw [h.ports]

theorem Takes.wf (h : Takes k f e x s c) (hl : s.lawful) : c.dir.wf = true := by
  rw [h.dir]
  exact (State.checked_lawful hl k f).1

/-- What the round leaves at the end of its event: of the record `r` at way `w`, of the entry `e` taken as `x`, and of its
probes to the agents of `set`; `c` is the state in which the access took the entry. -/
structure TakenRound (k : SetIdx) (f : List CellFault) (e : EntryIdx) (x : Entry) (w : Way) (r : Record) (set : AgentSet)
    (s c t : State) : Prop where
  record : s.lawful → ∀ v, t.recordAt k v = (s.checked k f).recordAt k v
  bound : s.lawful → ((t.dirSet k).slot w).bound = some e
  pause : t.pause = (s.pause || decide (s.cfg.admitHigh ≤ s.inUseCount + 1))
  cfg : t.cfg = s.cfg
  inFlight : t.recallUnit.inFlight = c.recallUnit.inFlight
  serves : t.recallUnit.serves = c.recallUnit.serves
  queue : ∃ starts, t.recallUnit.queue = starts ++ c.recallUnit.queue
  self : (t.entry e).standing = (({ x with way := some w } : Entry).roundBegun .invalidate
    (decide (r.state = .damaged))).standing
  other : ∀ i, i ≠ e → (t.entry i).core = (s.entry i).core
  round : ∀ a : Agent, has (t.entry e).pendingSet a = (has (s.roundSet r set) a && s.member a)
    ∧ (t.entry e).answers.get a = if has (s.roundSet r set) a ∧ s.member a = false then some .fenceGone else none
  probes : s.calm → s.part = .run →
    s.probesStarted t e (txnOf e x.gen) (x.line.getD 0) .invalidate (s.roundSet r set)

theorem Takes.round (h : Takes k f e x s c) (w : Way) (r : Record) (set : AgentSet) (late : List Report)
    (starts : List StartItem) :
    TakenRound k f e x w r set s c ((c.roundOn k w r e set).ended late starts).finish := by
  have hset : c.roundSet r set = s.roundSet r set := by
    unfold State.roundSet State.memberSet
    rw [funext h.member]
  have hbind := State.entry_bind c k w e
  have hself : (c.bind k w e).entry e = { x with way := some w } := by rw [hbind, if_pos rfl, h.self]
  rw [State.roundOn_eq (by rw [h.self]; exact h.keep), hset]
  have g := RoundEnd.finish (c.bind k w e) e .invalidate (s.roundSet r set) (decide (r.state = .damaged)) late starts
  refine ⟨fun hl v => ?_, fun hl => ?_, g.pause.trans h.pause, g.cfg.trans h.cfg, g.inFlight, g.serves, g.queue,
    by rw [g.self, hself], fun i hi => ?_, g.pending_of h.member, fun hcalm hr => ?_⟩
  · rw [State.recordAt_congr g.dir, State.recordAt_bind (h.wf hl), State.recordAt_congr h.dir]
  · rw [State.dirSet_congr g.dir]
    exact State.bound_bind (h.wf hl) k w e
  · rw [g.other i hi, hbind, if_neg hi, h.other i hi]
  · have hprobes := State.probesStarted_round hcalm hr (b := c.bind k w e) h.part h.cfg
      (fun a => congrArg (fun v : Vector Port 8 => (v.get a).probing) h.ports) e .invalidate (s.roundSet r set)
      (decide (r.state = .damaged)) late starts
    have htxn : (c.bind k w e).txn e = txnOf e x.gen := by
      unfold State.txn
      rw [hself]
    have hline : (c.bind k w e).lineOfEntry e = x.line.getD 0 := by
      unfold State.lineOfEntry
      rw [hself]
    rw [htxn, hline] at hprobes
    exact hprobes

end

/-- A field of the entry that runs the round, at the end of its event. -/
theorem TakenRound.entry {k : SetIdx} {f : List CellFault} {e : EntryIdx} {x : Entry} {w : Way} {r : Record}
    {set : AgentSet} {s c t : State} {α : Type} (h : TakenRound k f e x w r set s c t) (g : Entry → α)
    (hg : ∀ z : Entry, g z.standing = g z) :
    g (t.entry e) = g (({ x with way := some w } : Entry).roundBegun .invalidate (decide (r.state = .damaged))) :=
  Entry.of_standing g hg h.self

end Sys2Proof.Machine
end

section
/-! PROOF. An access that starts a repair round in place of what it was for: O28, the close of a granted request, and O42,
the resolutions (R27, R54, R58, R138, R139). -/

namespace Sys2Proof.Machine

/-! ### A repair round to the end of its event -/

/-- What the repair round of entry `e` with the keep agent `who`, started by an access on set `k`, leaves at the end of its
event. -/
structure RepairEnd (k : SetIdx) (f : List CellFault) (e : EntryIdx) (who : Option Agent) (s t : State) : Prop where
  dir : t.dir = (s.checked k f).dir
  phase : (t.entry e).phase = .probing
  repairRound : (t.entry e).repairRound = true
  probeKind : (t.entry e).probeKind = some .invalidate
  keep : (t.entry e).keep = who
  kind : (t.entry e).kind = (s.entry e).kind
  line : (t.entry e).line = (s.entry e).line
  pending : ∀ a : Agent, has (t.entry e).pendingSet a = (s.member a && decide (who ≠ some a))
  probes : s.calm → s.part = .run → who = none →
    s.probesStarted t e (s.txn e) (s.lineOfEntry e) .invalidate s.memberSet
  other : ∀ i, i ≠ e → (t.entry i).core = (s.entry i).core

/-- The agents of a repair round: the domain but for the keep agent (R139). -/
def State.repairSet (s : State) (keep : Option Agent) : AgentSet :=
  match keep with
  | some a => without s.memberSet a
  | none => s.memberSet

/-- The keep agent written to entry `e`. -/
def State.withKeep (s : State) (e : EntryIdx) (keep : Option Agent) : State :=
  s.updEntry e fun x => { x with keep := keep }

theorem State.startRepair_eq (s : State) (e : EntryIdx) (keep : Option Agent) : s.startRepair e keep =
    (s.withKeep e keep).startRound e .invalidate (s.repairSet keep) true := rfl

theorem State.has_repairSet (s : State) (keep : Option Agent) (a : Agent) :
    (has (s.repairSet keep) a && s.member a) = (s.member a && decide (keep ≠ some a)) := by
  unfold State.repairSet
  cases keep with
  | none => simp [State.has_memberSet]
  | some b =>
    rw [has_without, State.has_memberSet]
    by_cases hab : a = b
    · subst hab; simp
    · have : b ≠ a := fun h => hab h.symm
      cases s.member a <;> simp [hab, this]

theorem RepairEnd.finish {k : SetIdx} {f : List CellFault} {s c : State} (h : c.taking = (s.checked k f).taking)
    (e : EntryIdx) (keep : Option Agent) (late : List Report) (starts : List StartItem) :
    RepairEnd k f e keep s ((c.startRepair e keep).ended late starts).finish := by
  simp only [State.taking, Prod.mk.injEq] at h
  obtain ⟨hpart, hcfg, hdir, -, hports, -, htt⟩ := h
  have same := SameOutside.checked s k f
  have hport (a : Agent) : c.port a = s.port a := congrArg (fun v : Vector Port 8 => v.get a) (hports.trans same.ports)
  have hentry (i : EntryIdx) : c.entry i = s.entry i := congrArg (fun v : Vector Entry 32 => v.get i) (htt.trans same.tt)
  have hmember (a : Agent) : c.member a = s.member a := congrArg (fun q : Port => q.state.member) (hport a)
  have hset : c.repairSet keep = s.repairSet keep := by
    unfold State.repairSet State.memberSet
    rw [funext hmember]
  rw [State.startRepair_eq, hset]
  have hself : (c.withKeep e keep).entry e = { s.entry e with keep := keep } := by
    unfold State.withKeep
    rw [State.entry_updEntry_same, hentry]
  have hother (i : EntryIdx) (hi : i ≠ e) : (c.withKeep e keep).entry i = s.entry i := by
    unfold State.withKeep
    rw [State.entry_updEntry_ne _ _ hi, hentry]
  have g := RoundEnd.finish (c.withKeep e keep) e .invalidate (s.repairSet keep) true late
    starts
  have keeps {α : Type} (p : Entry → α) (hs : ∀ z : Entry, p z.standing = p z)
      (hb : ∀ z : Entry, p (z.roundBegun .invalidate true) = p z) := (g.keeps p hs hb).trans (congrArg p hself)
  refine ⟨g.dir.trans hdir, g.phase, g.repairRound, g.probeKind, keeps Entry.keep (fun _ => rfl) fun _ => rfl,
    keeps Entry.kind (fun _ => rfl) fun _ => rfl, keeps Entry.line (fun _ => rfl) fun _ => rfl, fun a => ?_,
    fun hcalm hr hk => ?_, fun i hi => ?_⟩
  · rw [(g.pending_of (s := s) hmember a).1, State.has_repairSet]
  · have hprobes := State.probesStarted_round hcalm hr (b := c.withKeep e keep)
      (hpart.trans same.part) (hcfg.trans same.cfg) (fun a => congrArg Port.probing (hport a)) e .invalidate
      (s.repairSet keep) true late starts
    have htxn : (c.withKeep e keep).txn e = s.txn e := by
      unfold State.txn
      rw [hself]
    have hline : (c.withKeep e keep).lineOfEntry e = s.lineOfEntry e := by
      unfold State.lineOfEntry
      rw [hself]
    rw [htxn, hline] at hprobes
    rw [hk] at hprobes ⊢
    exact hprobes
  · rw [g.other i hi, hother i hi]

/-- A command whose access ends in a repair round. -/
theorem State.exec_repairs {s : State} {d : Due} {k : SetIdx} {f : List CellFault} {c : Instr} {b : State} {e : EntryIdx}
    {keep : Option Agent} (hc : d.command f = some c) (hd : s.due = some d) (ha : s.dueAfter d = id) (hk : s.dueSet d = k)
    (hu : s.undisturbed k f) (hout : s.dueOutcome d (s.takeClaim.beginAccess k f) = b.startRepair e keep)
    (hb : b.taking = (s.checked k f).taking) : ∃ t, exec c s = .next t ∧ RepairEnd k f e keep s t := by
  have hinteg : (b.startRepair e keep).integ = (s.checked k f).integ := by
    have h := congrArg (fun x => x.1) (Rounds.startRepair b e keep).off
    have hbi : b.integ = (s.checked k f).integ := congrArg (fun x => x.2.2.2.1) hb
    exact h.trans hbi
  obtain ⟨late, starts, h⟩ := State.exec_ended hc hd ha hk hu hout hinteg
  exact ⟨_, h, .finish hb e keep late starts⟩

/-! ### O28 -/

/-- Settles O28: the outcome is the repair round, with the entry's requester as keep agent. -/
theorem closeRepairsDamagedRecord : Obligations.CloseRepairsDamagedRecord := by
  intro s f e hd hu hkind hsent hdam
  have hentry := s.checked_entry (setOf (s.lineOfEntry e)) f e
  have hout : closeOutcome e (s.takeClaim.beginAccess (setOf (s.lineOfEntry e)) f)
      = (s.checked (setOf (s.lineOfEntry e)) f).startRepair e (s.entry e).agent? := by
    rw [← hentry]
    exact if_pos ⟨(congrArg Entry.kind hentry).trans hkind,
      (congrArg (fun x : Entry => x.grantSent.isSome) hentry).trans hsent, hdam⟩
  obtain ⟨t, ht, g⟩ := State.exec_repairs (d := .close e) (f := f) rfl hd rfl rfl hu hout rfl
  exact ⟨t, ht, g.phase, g.repairRound, g.probeKind, g.keep, g.pending, g.dir, g.other⟩

/-! ### O42 -/

section Damaged

variable {a : Access} {e : EntryIdx} {w : Way} {r : Record}

/-- The record of an entry's line, where the line has one. -/
theorem State.onLine.held {s : State} (h : s.onLine (s.lineOfEntry e) w r) : s.heldRecord e = some (w, r) := by
  obtain ⟨hline, hrec, -⟩ := h
  unfold State.heldRecord
  rw [hline]
  exact congrArg (Option.map _) hrec

theorem resolutionOutcome_damaged {q : Request} (hq : a.s.requestOf e = some q) (h : a.s.onLine (a.s.lineOfEntry e) w r)
    (hr : r.state = .damaged) : resolutionOutcome e a = a.s.startRepair e none := by
  rw [State.lineOfEntry_of_requestOf hq] at h
  obtain ⟨hline, hrec, -⟩ := h
  unfold State.recordAt at hrec
  unfold resolutionOutcome State.resolveHeld
  rw [hq]
  dsimp only
  rw [hline]
  dsimp only
  rw [hrec]
  exact if_pos hr

theorem serviceOutcome_damaged (h : a.s.onLine (a.s.lineOfEntry e) w r) (hr : r.state = .damaged) :
    serviceOutcome e a = a.s.startRepair e none := by
  obtain ⟨hline, hrec, -⟩ := h
  unfold State.recordAt at hrec
  unfold serviceOutcome State.resolveService
  dsimp only
  rw [hline]
  dsimp only
  rw [hrec]
  dsimp only
  rw [hr]

theorem retractOutcome_damaged {p : Agent} (hp : (a.s.entry e).target = some p)
    (h : a.s.onLine (a.s.lineOfEntry e) w r) (hr : r.state = .damaged) :
    retractOutcome e a = a.s.startRepair e none := by
  unfold retractOutcome State.resolveRetract
  dsimp only
  rw [h.held, hp]
  exact if_pos hr

theorem recallOutcome_damaged (h : (a.s.dropAccess e).onLine ((a.s.dropAccess e).lineOfEntry e) w r)
    (hr : r.state = .damaged) : recallOutcome e a = (a.s.dropAccess e).startRepair e none := by
  unfold recallOutcome State.resolveRecall
  dsimp only
  rw [h.held]
  exact if_pos hr

theorem retireOutcome_damaged (h : (a.s.dropAccess e).onLine ((a.s.dropAccess e).lineOfEntry e) w r)
    (hr : r.state = .damaged) : retireOutcome e a = (a.s.dropAccess e).startRepair e none := by
  unfold retireOutcome State.resolveRetire
  dsimp only
  rw [h.held]
  exact if_pos hr

end Damaged

/-- Settles O42: each of the five outcomes is the repair round without a keep agent. -/
theorem damagedRecordStartsRepairRound : Obligations.DamagedRecordStartsRepairRound := by
  intro s f e d c w r hcases hd hl hu hreq htarget hon hr
  have hend : ∃ t, exec c s = .next t ∧ RepairEnd (setOf (s.lineOfEntry e)) f e none s t := by
    have hon' : (s.checked (setOf (s.lineOfEntry e)) f).onLine
        ((s.checked (setOf (s.lineOfEntry e)) f).lineOfEntry e) w r := by
      rw [State.checked_lineOfEntry]
      exact hon
    rcases hcases with ⟨rfl, rfl⟩ | ⟨rfl, rfl⟩ | ⟨rfl, rfl⟩ | ⟨rfl, rfl⟩ | ⟨rfl, rfl⟩
    · obtain ⟨q, hq⟩ := Option.isSome_iff_exists.1 (hreq rfl)
      exact State.exec_repairs rfl hd rfl rfl hu
        (resolutionOutcome_damaged ((s.checked_requestOf _ f e).trans hq) hon' hr) rfl
    · exact State.exec_repairs rfl hd rfl rfl hu (serviceOutcome_damaged hon' hr) rfl
    · obtain ⟨p, hp⟩ := Option.isSome_iff_exists.1 (htarget rfl)
      exact State.exec_repairs rfl hd rfl rfl hu
        (retractOutcome_damaged ((congrArg Entry.target (s.checked_entry _ f e)).trans hp) hon' hr) rfl
    · exact State.exec_repairs rfl hd rfl rfl hu (recallOutcome_damaged hon' hr) rfl
    · exact State.exec_repairs rfl hd rfl rfl hu (retireOutcome_damaged hon' hr) rfl
  obtain ⟨t, ht, g⟩ := hend
  have hrun : s.part = .run := by
    refine State.part_run_of_due hd fun n => ?_
    rcases hcases with ⟨rfl, -⟩ | ⟨rfl, -⟩ | ⟨rfl, -⟩ | ⟨rfl, -⟩ | ⟨rfl, -⟩ <;> nofun
  refine ⟨t, ht, g.phase, g.repairRound, g.probeKind, g.keep, g.kind, g.line, fun a => ?_,
    fun hcalm => g.probes hcalm hrun rfl, State.recordAt_congr g.dir _, g.other⟩
  rw [g.pending a]
  exact (congrArg _ (decide_eq_true nofun)).trans (Bool.and_true _)

end Sys2Proof.Machine
end

section
/-! PROOF. The first access of a maintenance command: O47, RECALL_LINE, and O49, CLEAR_POISON and CLEAR_SET (R51, R100,
R184 to R186). -/

namespace Sys2Proof.Machine

/-! ### The service port at the end of an event -/

/-- Only a halt ends a command at the end of an event (R164). -/
theorem State.svc_finish_run {s : State} (h : s.finish.part = .run) : s.finish.svc = s.svc := by
  unfold State.finish State.takeReports at h ⊢
  dsimp only at h ⊢
  cases hk : s.settle.haltingKind with
  | none => exact (Settles.settle s).svc
  | some x =>
    rw [hk] at h
    have hp : PartState.halted = .run := (State.part_haltCommand _).symm.trans h
    cases hp

/-! ### A command that waits on an entry (R51) -/

section Joins

variable {s : State} {i : PoolIdx} {w : Waiter} (hi : s.waiter i = none) (hw : w.request? = none) (e : EntryIdx)
include hi hw

theorem State.request_joinWaiters (j : PoolIdx) :
    ((s.joinWaiters e i w).waiter j).bind Waiter.request? = (s.waiter j).bind Waiter.request? := by
  show ((s.setWaiter i (some w)).waiter j).bind _ = _
  by_cases hj : j = i
  · rw [hj, State.waiter_setWaiter_same, hi]
    exact hw
  · rw [State.waiter_setWaiter_ne _ _ hj]

/-- A service command in the wait pool is no agent's request. -/
theorem State.selectedWaiters_joinWaiters (g : Request → Bool) :
    (s.joinWaiters e i w).selectedWaiters g = s.selectedWaiters g := by
  have hsel : (s.joinWaiters e i w).poolSelects g = s.poolSelects g := by
    funext j
    unfold State.poolSelects
    rw [State.request_joinWaiters hi hw]
  have hnot : s.poolSelects g i = false := by
    unfold State.poolSelects
    rw [hi]
    rfl
  unfold State.selectedWaiters
  rw [funext (State.request_joinWaiters hi hw e), hsel]
  refine congrArg (fun h => List.flatMap h allEntries) (funext fun j => ?_)
  unfold State.joinWaiters
  rw [State.entry_updEntry]
  split
  · next hj =>
    subst hj
    rw [State.entry_setWaiter]
    show List.filterMap _ (List.filter _ (_ ++ [i])) = _
    rw [List.filter_append, List.filter_cons_of_neg (by rw [hnot]; exact Bool.false_ne_true), List.filter_nil,
      List.append_nil]
  · rw [State.entry_setWaiter]

omit hi hw in
theorem State.core_joinWaiters (j : EntryIdx) : ((s.joinWaiters e i w).entry j).core = (s.entry j).core := by
  unfold State.joinWaiters
  rw [State.entry_updEntry]
  split
  · next hj => rw [hj]; rfl
  · rfl

theorem CalmRun.joinWaiters (h : CalmRun s) : CalmRun (s.joinWaiters e i w) := by
  have hcore (j : EntryIdx) := State.core_joinWaiters (s := s) (i := i) (w := w) e j
  refine ⟨h.head, fun p hp => ?_, fun p ho hn hs => ?_⟩
  · have hdone := h.done p hp
    unfold State.leaveDoneReady at hdone ⊢
    rw [State.selectedWaiters_joinWaiters hi hw, funext fun j => congrArg (fun a => !has a p)
      (Entry.of_core Entry.pendingSet (fun _ => rfl) (hcore j))]
    exact hdone
  · rw [State.hasTransaction_congr (fun j => Entry.of_core Entry.phase (fun _ => rfl) (hcore j))
      (fun j => Entry.of_core Entry.requester (fun _ => rfl) (hcore j))]
    exact h.walk p ho hn hs

end Joins

/-- A state that differs from the quiet one in its service port, its array and its reports alone is quiet too. -/
theorem CalmRun.checked {s : State} (h : s.calm) (hr : s.part = .run) (k : SetIdx) (f : List CellFault) :
    CalmRun (s.checked k f) := by
  have same := SameOutside.checked s k f
  exact State.calm_of_eq same.intake same.pause same.leave same.tt same.pool same.ports (State.calmRun h hr)

theorem CalmRun.updSvc {s : State} (h : CalmRun s) (g : ServicePort → ServicePort) : CalmRun (s.updSvc g) :=
  State.calm_of_eq (s := s) rfl rfl rfl rfl rfl rfl h

theorem CalmRun.ended {u : State} (h : CalmRun u) (late : List Report) (starts : List StartItem) :
    CalmRun (u.ended late starts) := State.calm_of_eq (s := u) rfl rfl rfl rfl rfl rfl h

theorem State.freePool_some {s : State} {i : PoolIdx} (h : s.freePool = some i) : s.waiter i = none := by
  have hh := List.find?_some h
  exact Option.isNone_iff_eq_none.1 hh

/-- What a service command that joins the list of entry `e` in the state `c` leaves. -/
structure Listed (e : EntryIdx) (i : PoolIdx) (w : Waiter) (c t : State) : Prop where
  waiter : t.waiter i = some w
  waiters : (t.entry e).waiters = (c.entry e).waiters ++ [i]
  dir : t.dir = c.dir
  svc : t.part = .run → t.svc.waiting = .listed e ∧ t.svc.status = c.svc.status

/-- What a service command that fails with WAIT_FULL in the state `c` leaves. -/
structure FailsFull (c t : State) : Prop where
  status : t.svc.status = .failed .waitFull
  result : t.svc.result = Result.clear
  dir : t.dir = c.dir
  pool : t.pool = c.pool

theorem Listed.finish {c : State} (h : CalmRun c) {i : PoolIdx} (hi : c.freePool = some i) {w : Waiter}
    (hw : w.request? = none) (e : EntryIdx) (late : List Report) (starts : List StartItem) :
    Listed e i w c ((c.serviceWaits e w).ended late starts).finish := by
  have hwaits : c.serviceWaits e w = (c.joinWaiters e i w).updSvc fun v => { v with waiting := .listed e } := by
    unfold State.serviceWaits
    rw [hi]
  have hrun := (((h.joinWaiters (State.freePool_some hi) hw e).updSvc fun v =>
    { v with waiting := .listed e }).ended late starts).finish
  rw [hwaits]
  refine ⟨?_, ?_, hrun.ends.dir, fun hp => ?_⟩
  · unfold State.waiter
    rw [hrun.pool]
    exact State.waiter_setWaiter_same c i _
  · refine (Entry.of_still Entry.waiters (fun _ => rfl) (hrun.entry e)).trans ?_
    exact congrArg Entry.waiters (State.entry_updEntry_same (c.setWaiter i (some w)) e
      fun x => { x with waiters := x.waiters ++ [i] })
  · rw [State.svc_finish_run hp]
    exact ⟨rfl, rfl⟩

theorem FailsFull.finish {c : State} (h : CalmRun c) (hi : c.freePool = none) (w : Waiter) (e : EntryIdx)
    (late : List Report) (starts : List StartItem) : FailsFull c ((c.serviceWaits e w).ended late starts).finish := by
  have hwaits : c.serviceWaits e w = c.fail .waitFull := by
    unfold State.serviceWaits
    rw [hi]
  rw [hwaits]
  have hrun := ((h.updSvc fun v => { v with
    status := .failed .waitFull, result := Result.clear, waiting := .nowhere }).ended late starts).finish
  have hsvc := State.svc_finish (s := (c.fail .waitFull).ended late starts) nofun
  exact ⟨congrArg ServicePort.status hsvc, congrArg ServicePort.result hsvc, hrun.ends.dir, hrun.pool⟩

theorem State.integ_serviceWaits (s : State) (e : EntryIdx) (w : Waiter) : (s.serviceWaits e w).integ = s.integ := by
  unfold State.serviceWaits
  split <;> rfl

/-! ### A miss, and an outcome that completes the command (R100, R186) -/

/-- What a command completed with the outcome `o` in the state `c` leaves. -/
structure Completes (o : ResultOutcome) (c t : State) : Prop where
  dir : t.dir = c.dir
  status : t.svc.status = .done
  result : t.svc.result = { Result.clear with outcome := o }

theorem Completes.finish (o : ResultOutcome) (c : State) (late : List Report) (starts : List StartItem) :
    Completes o c ((c.completeWith o).ended late starts).finish := by
  have hsvc := State.svc_finish (s := (c.completeWith o).ended late starts) nofun
  exact ⟨(Finishes.finish _).dir, congrArg ServicePort.status hsvc, congrArg ServicePort.result hsvc⟩

/-- What a command whose line misses in the state `c` leaves. -/
structure Misses (l : Line) (c t : State) : Prop where
  dir : t.dir = c.dir
  status : t.svc.status = .done
  absent : (c.dirSet (setOf l)).lost = false → t.svc.result = { Result.clear with outcome := .absent }
  lost : (c.dirSet (setOf l)).lost = true →
    t.svc.result = { Result.clear with outcome := .lost } ∧ lostServiceReport l ∈ t.reports

theorem Misses.finish {l : Line} {c : State} (hb : c.boundEntry l = none) (late : List Report)
    (starts : List StartItem) : Misses l c ((c.serviceMiss l).ended late starts).finish := by
  have hmiss : c.missLost l = (c.dirSet (setOf l)).lost := by
    unfold State.missLost
    rw [hb]
    rfl
  unfold State.serviceMiss
  rw [hmiss]
  cases hl : (c.dirSet (setOf l)).lost with
  | false =>
    have g := Completes.finish .absent c late starts
    exact ⟨g.dir, g.status, fun _ => g.result, fun h => Bool.noConfusion (hl.symm.trans h)⟩
  | true =>
    have hF := Finishes.finish (((c.completeWith .lost).report (lostServiceReport l)).ended late starts)
    have hsvc := State.svc_finish (s := ((c.completeWith .lost).report (lostServiceReport l)).ended late starts) nofun
    refine ⟨hF.dir, congrArg ServicePort.status hsvc, fun h => Bool.noConfusion (hl.symm.trans h),
      fun _ => ⟨congrArg ServicePort.result hsvc, hF.reports.symm ▸ List.mem_append_left _ ?_⟩⟩
    exact List.mem_append_right _ (List.mem_singleton.2 rfl)

theorem State.integ_serviceMiss (s : State) (l : Line) : (s.serviceMiss l).integ = s.integ := by
  unfold State.serviceMiss
  split <;> rfl

/-! ### RECALL_LINE (R100, R185) -/

/-- The FREE entry `e` taken for RECALL_LINE on line `l`, which waits on it. -/
def State.recallTaken (s : State) (l : Line) (e : EntryIdx) : State :=
  (s.takeEntry e l .service .service (some .recallLine)).updSvc fun v => { v with waiting := .entry e }

theorem State.serveRecall_round {s : State} {e : EntryIdx} {k : SetIdx} (hk : setOf (s.lineOfEntry e) = k) (w : Way)
    {r : Record} (hr : r.state ≠ .poisoned) : s.serveRecall e w r = s.roundOn k w r e r.holders := by
  rw [State.serveRecall_eq hk, if_neg hr]
  rfl

theorem State.lineOfEntry_recallTaken (s : State) (l : Line) (e : EntryIdx) : (s.recallTaken l e).lineOfEntry e = l := by
  have h : (s.recallTaken l e).entry e = Entry.begin (s.entry e).gen l none .service .service (some .recallLine) [] :=
    (State.entry_takeEntry s e e l .service .service (some .recallLine)).trans (if_pos rfl)
  unfold State.lineOfEntry
  rw [h]
  rfl

theorem State.beginService_taken {s : State} {e : EntryIdx} (h : s.freeEntry = some e) (l : Line) (w : Way) {r : Record}
    (hr : r.state ≠ .poisoned) : s.beginService l w r = (s.recallTaken l e).roundOn (setOf l) w r e r.holders := by
  unfold State.beginService
  rw [h]
  exact State.serveRecall_round (s := s.recallTaken l e) (congrArg setOf (s.lineOfEntry_recallTaken l e)) w hr

theorem State.beginService_waits {s : State} (h : s.freeEntry = none) (l : Line) (w : Way) (r : Record) :
    s.beginService l w r = s.updSvc fun v => { v with waiting := .freeEntry } := by
  unfold State.beginService
  rw [h]

theorem State.integ_beginService (s : State) (l : Line) (w : Way) {r : Record} (hr : r.state ≠ .poisoned) :
    (s.beginService l w r).integ = s.integ := by
  cases h : s.freeEntry with
  | none => rw [State.beginService_waits h]; rfl
  | some e => rw [State.beginService_taken h l w hr, State.integ_roundOn]; rfl

section RecallLine

variable {a : Access} {c : State} {l : Line} (ha : a.s = c) (hl : c.svc.lineArg = l)
include ha hl

theorem recallLineOutcome_bound {e : EntryIdx} (h : c.boundEntry l = some e) :
    recallLineOutcome a = c.serviceWaits e (.recallLine l) := by
  subst ha hl
  unfold recallLineOutcome
  dsimp only
  rw [h]

theorem recallLineOutcome_absent (h : c.boundEntry l = none) (hf : c.findLine l = none) :
    recallLineOutcome a = c.serviceMiss l := by
  subst ha hl
  unfold recallLineOutcome
  dsimp only
  rw [h]
  dsimp only
  rw [hf]

theorem recallLineOutcome_present (h : c.boundEntry l = none) {w : Way} {r : Record} (hon : c.onLine l w r) :
    recallLineOutcome a = if r.state = .poisoned then c.completeWith .noHolders else c.beginService l w r := by
  obtain ⟨hf, hr, -⟩ := hon
  unfold State.recordAt at hr
  subst ha hl
  unfold recallLineOutcome
  dsimp only
  rw [h]
  dsimp only
  rw [hf]
  dsimp only
  rw [hr]

end RecallLine

theorem integ_recallLineOutcome (a : Access) : (recallLineOutcome a).integ = a.s.integ := by
  unfold recallLineOutcome
  dsimp only
  split
  · exact State.integ_serviceWaits _ _ _
  · split
    · exact State.integ_serviceMiss _ _
    · split
      · split
        · rfl
        · next hr => exact State.integ_beginService _ _ _ hr
      · rfl

/-- Settles O47: RECALL_LINE's outcome, case by case, to the end of its event. -/
theorem recallLineStarts : Obligations.RecallLineStarts := by
  intro s f hd hr hl hcalm hu
  have same := SameOutside.checked s (setOf s.svc.lineArg) f
  have hrun := CalmRun.checked hcalm hr (setOf s.svc.lineArg) f
  have hsvc := s.checked_svc (setOf s.svc.lineArg) f
  have hline := congrArg ServicePort.lineArg hsvc
  have hstatus := congrArg ServicePort.status hsvc
  have hbound := s.checked_boundEntry (setOf s.svc.lineArg) f s.svc.lineArg
  have hpool : (s.checked (setOf s.svc.lineArg) f).freePool = s.freePool := State.freePool_congr same.pool
  have hentry (i : EntryIdx) := s.checked_entry (setOf s.svc.lineArg) f i
  have hfree := s.checked_freeEntry (setOf s.svc.lineArg) f
  have hc : (s.takeClaim.beginAccess (setOf s.svc.lineArg) f).s = s.checked (setOf s.svc.lineArg) f := rfl
  obtain ⟨late, starts, ht⟩ := State.exec_ended (d := .service 3) (f := f)
    (u := recallLineOutcome (s.takeClaim.beginAccess (setOf s.svc.lineArg) f)) rfl hd rfl rfl hu rfl
    (integ_recallLineOutcome _)
  refine ⟨_, ht, fun e i hb hi => ?_, fun e hb hi => ?_, fun hb hf => ?_, fun w r hb hon hp => ?_,
    fun w r e hb hon hp he => ?_, fun w r hb hon hp he => ?_⟩
  · rw [recallLineOutcome_bound hc hline (hbound.trans hb)]
    have g := Listed.finish hrun (hpool.trans hi) (w := .recallLine s.svc.lineArg) rfl e late starts
    exact ⟨g.waiter, g.waiters.trans (congrArg (fun x : Entry => x.waiters ++ [i]) (hentry e)), g.dir,
      fun hp => (g.svc hp).imp_right (·.trans (congrArg ServicePort.status hsvc))⟩
  · rw [recallLineOutcome_bound hc hline (hbound.trans hb)]
    have g := FailsFull.finish hrun (hpool.trans hi) (.recallLine s.svc.lineArg) e late starts
    exact ⟨g.status, g.result, g.dir, g.pool.trans same.pool⟩
  · rw [recallLineOutcome_absent hc hline (hbound.trans hb) hf]
    have g := Misses.finish (hbound.trans hb) late starts
    exact ⟨g.dir, g.status, g.absent, g.lost⟩
  · rw [recallLineOutcome_present hc hline (hbound.trans hb) hon, if_pos hp]
    have g := Completes.finish .noHolders (s.checked (setOf s.svc.lineArg) f) late starts
    exact ⟨g.dir, g.status, g.result⟩
  · rw [recallLineOutcome_present hc hline (hbound.trans hb) hon, if_neg hp,
      State.beginService_taken (hfree.trans he) _ w hp]
    have htakes := (Takes.takeEntry he (setOf s.svc.lineArg) f s.svc.lineArg .service .service
      (some .recallLine)).congr (d := (s.checked (setOf s.svc.lineArg) f).recallTaken s.svc.lineArg e) rfl
    have g := htakes.round w r r.holders late starts
    refine ⟨g.entry Entry.kind fun _ => rfl, g.entry Entry.requester fun _ => rfl, g.entry Entry.request fun _ => rfl,
      g.entry Entry.line fun _ => rfl, g.entry Entry.way fun _ => rfl, g.entry Entry.phase fun _ => rfl,
      g.entry Entry.probeKind fun _ => rfl, g.entry Entry.repairRound fun _ => rfl, g.entry Entry.keep fun _ => rfl,
      g.entry Entry.gen fun _ => rfl, g.round, g.probes hcalm hr, g.bound hl, g.record hl, fun hp => ?_, g.pause,
      g.inFlight.trans (congrArg RecallUnit.inFlight same.recallUnit), g.other⟩
    have hend := (State.svc_finish_run hp).trans (State.svc_roundOn _ _ w r e r.holders)
    rw [hend]
    exact ⟨rfl, hstatus⟩
  · rw [recallLineOutcome_present hc hline (hbound.trans hb) hon, if_neg hp, State.beginService_waits (hfree.trans he)]
    have g := Finishes.finish
      (((s.checked (setOf s.svc.lineArg) f).updSvc fun v => { v with waiting := .freeEntry }).ended late starts)
    refine ⟨g.dir, fun i => (g.entry i).trans (congrArg Entry.core (hentry i)), fun hp => ?_⟩
    rw [State.svc_finish_run hp]
    exact ⟨rfl, hstatus⟩

end Sys2Proof.Machine
end

section
/-! PROOF. O49: the first access of CLEAR_POISON, and the access of CLEAR_SET (R51, R184, R186). -/

namespace Sys2Proof.Machine

/-! ### CLEAR_POISON (R186) -/

section ClearPoison

variable {a : Access} {c : State} {l : Line} (ha : a.s = c) (hl : c.svc.lineArg = l)
include ha hl

theorem clearPoisonOutcome_bound {e : EntryIdx} (h : c.boundEntry l = some e) :
    clearPoisonOutcome a = c.serviceWaits e (.clearPoison l) := by
  subst ha hl
  unfold clearPoisonOutcome
  dsimp only
  rw [h]

theorem clearPoisonOutcome_absent (h : c.boundEntry l = none) (hf : c.findLine l = none) :
    clearPoisonOutcome a = c.serviceMiss l := by
  subst ha hl
  unfold clearPoisonOutcome
  dsimp only
  rw [h]
  exact if_pos (Option.isNone_iff_eq_none.2 hf)

theorem clearPoisonOutcome_present (h : c.boundEntry l = none) {w : Way} (hf : c.findLine l = some w) :
    clearPoisonOutcome a = c.decideClearPoison l := by
  subst ha hl
  unfold clearPoisonOutcome
  dsimp only
  rw [h]
  exact if_neg (by rw [hf]; exact Bool.false_ne_true)

end ClearPoison

theorem integ_clearPoisonOutcome (a : Access) : (clearPoisonOutcome a).integ = a.s.integ := by
  unfold clearPoisonOutcome
  dsimp only
  split
  · exact State.integ_serviceWaits _ _ _
  · split
    · exact State.integ_serviceMiss _ _
    · exact (PoisonDone.decideClearPoison _ _).integ

/-- A decision on a line whose record is unbound changes no entry. -/
theorem Decides.entry_unbound {l : Line} {s t : State} (h : Decides l s t) (hb : s.lineBound l none) (i : EntryIdx) :
    t.entry i = s.entry i := by
  rcases h.entry i with he | ⟨-, w, hw, hbound⟩
  · exact he
  · exact nomatch hbound.symm.trans (hb w hw)

/-! ### CLEAR_SET (R184) -/

/-- The outcome of CLEAR_SET by the mark that its access set and by the one it found. -/
def clearSetResult (marked lost : Bool) : ResultOutcome :=
  if marked then .relost else if lost then .cleared else .wasClear

/-- What CLEAR_SET's outcome makes of the state `c` that the checks left. -/
structure ClearsSet (k : SetIdx) (marked : Bool) (c u : State) : Prop where
  set : c.dir.wf = true → u.dirSet k = { c.dirSet k with lost := marked && (c.dirSet k).lost }
  others : ∀ j, j ≠ k → u.dirSet j = c.dirSet j
  rest : ∃ dir, u = { c.completeWith (clearSetResult marked (c.dirSet k).lost) with dir := dir }

theorem ClearsSet.clearSetOutcome {a : Access} {c : State} {k : SetIdx} (ha : a.s = c) (hk : c.svc.setArg = k) :
    ClearsSet k a.marked c (clearSetOutcome a) := by
  subst ha hk
  unfold Machine.clearSetOutcome
  dsimp only
  cases hm : a.marked with
  | true => exact ⟨fun _ => rfl, fun _ _ => rfl, a.s.dir, rfl⟩
  | false =>
    rw [if_neg Bool.false_ne_true]
    cases hl : (a.s.dirSet a.s.svc.setArg).lost with
    | true =>
      rw [if_pos rfl]
      refine ⟨fun hwf => State.dirSet_updSet_same a.s a.s.svc.setArg (fun d => { d with lost := false }) hwf,
        fun j hj => State.dirSet_updSet_ne a.s (fun d => { d with lost := false }) hj, _, by rw [hl]; rfl⟩
    | false =>
      rw [if_neg Bool.false_ne_true]
      exact ⟨fun _ => congrArg (fun b => ({ a.s.dirSet a.s.svc.setArg with lost := b } : DirSet)) hl, fun _ _ => rfl,
        a.s.dir, by rw [hl]; rfl⟩

/-- The sets beside its own are no business of an access. -/
theorem State.dirSet_checked_ne (s : State) {j k : SetIdx} (f : List CellFault) (h : j ≠ k) :
    (s.checked k f).dirSet j = s.dirSet j :=
  (Keeps.checked s k f).other j.toNat fun he => h (BitVec.eq_of_toNat_eq he)

/-- Settles O49: CLEAR_POISON's outcome, case by case, and CLEAR_SET's, to the end of the event. -/
theorem clearCommandsDecide : Obligations.ClearCommandsDecide := by
  refine ⟨fun s f hd hr hl hcalm hu => ?_, fun s f hd hl hu => ?_⟩
  · have same := SameOutside.checked s (setOf s.svc.lineArg) f
    have hrun := CalmRun.checked hcalm hr (setOf s.svc.lineArg) f
    have hsvc := s.checked_svc (setOf s.svc.lineArg) f
    have hline := congrArg ServicePort.lineArg hsvc
    have hbound := s.checked_boundEntry (setOf s.svc.lineArg) f s.svc.lineArg
    have hpool : (s.checked (setOf s.svc.lineArg) f).freePool = s.freePool := State.freePool_congr same.pool
    have hentry (i : EntryIdx) := s.checked_entry (setOf s.svc.lineArg) f i
    have hwf := (State.checked_lawful hl (setOf s.svc.lineArg) f).1
    have hc : (s.takeClaim.beginAccess (setOf s.svc.lineArg) f).s = s.checked (setOf s.svc.lineArg) f := rfl
    obtain ⟨late, starts, ht⟩ := State.exec_ended (d := .service 4) (f := f)
      (u := clearPoisonOutcome (s.takeClaim.beginAccess (setOf s.svc.lineArg) f)) rfl hd rfl rfl hu rfl
      (integ_clearPoisonOutcome _)
    refine ⟨_, ht, fun e i hb hi => ?_, fun e hb hi => ?_, fun hb hf => ?_, fun w r hb hon hnone => ?_⟩
    · rw [clearPoisonOutcome_bound hc hline (hbound.trans hb)]
      have g := Listed.finish hrun (hpool.trans hi) (w := .clearPoison s.svc.lineArg) rfl e late starts
      exact ⟨g.waiter, g.waiters.trans (congrArg (fun x : Entry => x.waiters ++ [i]) (hentry e)), g.dir,
        fun hp => (g.svc hp).imp_right (·.trans (congrArg ServicePort.status hsvc))⟩
    · rw [clearPoisonOutcome_bound hc hline (hbound.trans hb)]
      have g := FailsFull.finish hrun (hpool.trans hi) (.clearPoison s.svc.lineArg) e late starts
      exact ⟨g.status, g.dir⟩
    · rw [clearPoisonOutcome_absent hc hline (hbound.trans hb) hf]
      have g := Misses.finish (hbound.trans hb) late starts
      exact ⟨g.dir, g.status, g.absent, g.lost⟩
    · obtain ⟨hf, hrec, -⟩ := hon
      rw [clearPoisonOutcome_present hc hline (hbound.trans hb) hf]
      have n := PoisonDone.decideClearPoison (s.checked (setOf s.svc.lineArg) f) s.svc.lineArg
      generalize (s.checked (setOf s.svc.lineArg) f).decideClearPoison s.svc.lineArg = u at n
      obtain ⟨hpr, hres⟩ := n.present w r hf hrec
      have g := Finishes.finish (u.ended late starts)
      have hend := State.svc_finish (s := u.ended late starts) fun hb => nomatch n.status.symm.trans hb
      refine ⟨(State.recordAt_congr g.dir _ w).trans (hpr hwf), (congrArg ServicePort.status hend).trans n.status,
        (congrArg ServicePort.result hend).trans hres, fun v hv => (State.recordAt_congr g.dir _ v).trans
          (n.record hwf v fun hv' => hv (Option.some.inj (hv'.symm.trans hf))), fun i => (g.entry i).trans ?_⟩
      exact congrArg Entry.core ((n.entry_unbound hnone i).trans (hentry i))
  · have same := SameOutside.checked s s.svc.setArg f
    have hsvc := s.checked_svc s.svc.setArg f
    have hentry (i : EntryIdx) := s.checked_entry s.svc.setArg f i
    have hwf := (State.checked_lawful hl s.svc.setArg f).1
    have n := ClearsSet.clearSetOutcome (a := s.takeClaim.beginAccess s.svc.setArg f) (c := s.checked s.svc.setArg f)
      rfl (congrArg ServicePort.setArg hsvc)
    obtain ⟨dir, hrest⟩ := n.rest
    obtain ⟨late, starts, ht⟩ := State.exec_ended (d := .service 7) (f := f)
      (u := clearSetOutcome (s.takeClaim.beginAccess s.svc.setArg f)) rfl hd rfl rfl hu rfl (by rw [hrest]; rfl)
    generalize clearSetOutcome (s.takeClaim.beginAccess s.svc.setArg f) = u at n hrest ht
    have husvc := (congrArg State.svc hrest).trans (show _ = (State.completeWith _ _).svc from rfl)
    have hutt : u.tt = s.tt := (congrArg State.tt hrest).trans same.tt
    have hend := State.svc_finish (s := u.ended late starts)
      fun hb => nomatch (congrArg ServicePort.status husvc).symm.trans hb
    have g := Concludes.finish u late starts
    refine ⟨_, ht, (congrArg ServicePort.status (hend.trans husvc)), (State.dirSet_congr g.dir _).trans (n.set hwf),
      congrArg ServicePort.result (hend.trans husvc), fun i => (g.entry i).trans ?_, fun hcalm => (g.calm ?_).trans hutt,
      fun j hj => (State.dirSet_congr g.dir j).trans ((n.others j hj).trans (s.dirSet_checked_ne f hj))⟩
    · exact congrArg (fun v : Vector Entry 32 => (v.get i).core) hutt
    · rw [hrest]
      exact State.calm_congr rfl rfl rfl rfl rfl rfl rfl (fun _ => ⟨rfl, rfl, rfl⟩)
        (State.calm_checked hcalm s.svc.setArg f [] s.svc)

end Sys2Proof.Machine
end

section
/-! PROOF. O39: a step of the leave walker (R63, R90, R125 to R127). -/

namespace Sys2Proof.Machine

/-! ### Where the access that is due comes from -/

/-- The access settles a probe round. -/
def Due.settlesRound : Due → Bool
  | .resolution _ | .serviceResolution _ | .retractResolution _ | .repairResolution _ | .recallResolution _
  | .retireResolution _ => true
  | .intake _ | .parked _ | .close _ | .handedOn _ | .releasing _ | .recallStart _ | .retireStart _ _ | .repairStart _ _
  | .service _ | .purge | .leave _ | .scrub => false

theorem Entry.settlesRound_of_resolutionDue {x : Entry} {e : EntryIdx} {d : Due} (h : x.resolutionDue e = some d) :
    d.settlesRound = true := by
  unfold Entry.resolutionDue at h
  split at h
  · cases h; rfl
  · split at h <;> cases h <;> rfl

/-- An entry's claim makes no leave step, and makes its close from AWAIT_DONE alone (R47). -/
theorem Entry.due_origin {x : Entry} {i : EntryIdx} {d : Due} (h : x.due i = some d) :
    (∀ p, d ≠ .leave p) ∧ ∀ e, d = .close e → e = i ∧ x.phase = .awaitDone := by
  unfold Entry.due at h
  split at h
  case h_3 =>
    have hs := Entry.settlesRound_of_resolutionDue h
    exact ⟨fun p hp => (by rw [hp] at hs; cases hs), fun e he => (by rw [he] at hs; cases hs)⟩
  case h_5 hp =>
    cases h
    exact ⟨nofun, fun e he => (by cases he; exact ⟨rfl, hp⟩)⟩
  case h_1 => cases h
  all_goals
    cases h
    exact ⟨nofun, nofun⟩

/-- The recall unit's claim makes neither (R91). -/
theorem State.recallDue_origin {s : State} {d : Due} (h : s.recallDue = some d) :
    (∀ p, d ≠ .leave p) ∧ ∀ e, d ≠ .close e := by
  unfold State.recallDue at h
  split at h
  · have hs := Entry.settlesRound_of_resolutionDue h
    exact ⟨fun p hp => (by rw [hp] at hs; cases hs), fun e he => (by rw [he] at hs; cases hs)⟩
  · obtain ⟨item, -, rfl⟩ := Option.map_eq_some_iff.1 h
    cases item <;> exact ⟨nofun, nofun⟩

/-- A leave step works for the port that the walker serves. -/
theorem State.leavePort_of_due {s : State} {p : Agent} (h : s.due = some (.leave p)) : s.leave.port = some p := by
  unfold State.due at h
  split at h
  case h_2 => exact absurd rfl ((Entry.due_origin h).1 p)
  case h_3 => exact absurd rfl ((State.recallDue_origin h).1 p)
  case h_6 =>
    obtain ⟨q, hq, hqp⟩ := Option.map_eq_some_iff.1 h
    cases hqp
    exact hq
  case h_7 =>
    obtain ⟨r, -, hr⟩ := Option.map_eq_some_iff.1 h
    cases hr
  all_goals cases h

/-- An entry whose close is due is in AWAIT_DONE. -/
theorem State.phase_of_close {s : State} {e : EntryIdx} (h : s.due = some (.close e)) :
    (s.entry e).phase = .awaitDone := by
  unfold State.due at h
  split at h
  case h_2 i _ =>
    obtain ⟨rfl, hp⟩ := (Entry.due_origin h).2 e rfl
    exact hp
  case h_3 => exact absurd rfl ((State.recallDue_origin h).2 e)
  case h_6 =>
    obtain ⟨q, -, hq⟩ := Option.map_eq_some_iff.1 h
    cases hq
  case h_7 =>
    obtain ⟨r, -, hr⟩ := Option.map_eq_some_iff.1 h
    cases hr
  all_goals cases h

/-! ### The outcome of a leave step (R125) -/

/-- The FREE entry `e` taken for a RETRACT of the record `r` from agent `p`, counted in flight and as one of the walk's. -/
def State.retractTaken (s : State) (k : SetIdx) (r : Record) (p : Agent) (e : EntryIdx) : State :=
  let s1 := (s.takeEntry e (lineOf k r.tag) .retract .none none).updEntry e fun x => { x with target := some p }
  { s1 with
    recallUnit := { s1.recallUnit with inFlight := s1.recallUnit.inFlight + 1 }
    leave := { s1.leave with retracts := s1.leave.retracts + 1 } }

theorem State.beginRetract_eq (s : State) (k : SetIdx) (w : Way) (r : Record) (p : Agent) (e : EntryIdx) :
    s.beginRetract k w r p e = (s.retractTaken k r p e).roundOn k w r e (only p) := rfl

theorem Takes.retractTaken {s : State} {e : EntryIdx} (h : s.freeEntry = some e) (k : SetIdx) (f : List CellFault)
    (r : Record) (p : Agent) :
    Takes k f e { Entry.begin (s.entry e).gen (lineOf k r.tag) none .retract .none none [] with target := some p } s
      ((s.checked k f).retractTaken k r p e) :=
  ((Takes.takeEntry h k f (lineOf k r.tag) .retract .none none).updEntry
    (g := fun x => { x with target := some p }) rfl).congr rfl

theorem DirSet.record_of_leaveWay {d : DirSet} {p : Agent} {w : Way} (h : d.leaveWay p = some w) :
    ∃ r, d.record w = some r := by
  have hw := List.find?_some (p := fun w => d.mayHold p w && decide ((d.slot w).bound = none)) h
  simp only [Bool.and_eq_true] at hw
  obtain ⟨hm, -⟩ := hw
  unfold DirSet.mayHold at hm
  cases hr : d.record w with
  | none => rw [hr] at hm; cases hm
  | some r => exact ⟨r, rfl⟩

section Outcome

variable {a : Access} {c : State} (ha : a.s = c) (k : SetIdx) {p : Agent}
include ha

theorem leaveOutcome_retract {w : Way} {r : Record} {e : EntryIdx} (hw : (c.dirSet k).leaveWay p = some w)
    (hr : (c.dirSet k).record w = some r) (he : c.freeEntry = some e)
    (hb : c.recallUnit.inFlight < c.cfg.recallBudget) :
    leaveOutcome k p a = (c.retractTaken k r p e).roundOn k w r e (only p) := by
  subst ha
  unfold leaveOutcome
  dsimp only
  rw [hw]
  dsimp only
  rw [hr, he]
  exact if_pos hb

theorem leaveOutcome_room {w : Way} (hw : (c.dirSet k).leaveWay p = some w)
    (h : c.freeEntry = none ∨ c.cfg.recallBudget ≤ c.recallUnit.inFlight) :
    leaveOutcome k p a = c.leaveWaits .room := by
  subst ha
  obtain ⟨r, hr⟩ := DirSet.record_of_leaveWay hw
  unfold leaveOutcome
  dsimp only
  rw [hw]
  dsimp only
  rw [hr]
  cases he : a.s.freeEntry with
  | none => rfl
  | some e =>
    rcases h with h | h
    · cases he.symm.trans h
    · exact if_neg (Nat.not_lt.2 h)

theorem leaveOutcome_blocked {e : EntryIdx} (hw : (c.dirSet k).leaveWay p = none)
    (h : c.leaveBlocker (c.dirSet k) p = some e) : leaveOutcome k p a = c.leaveWaits (.noted e) := by
  subst ha
  unfold leaveOutcome
  dsimp only
  rw [hw]
  dsimp only
  rw [h]

theorem leaveOutcome_on (hw : (c.dirSet k).leaveWay p = none) (h : c.leaveBlocker (c.dirSet k) p = none) :
    leaveOutcome k p a = c.leaveOn := by
  subst ha
  unfold leaveOutcome
  dsimp only
  rw [hw]
  dsimp only
  rw [h]

end Outcome

/-- A leave step leaves the integrity unit and the settings alone. -/
theorem leaveOutcome_keeps (k : SetIdx) (p : Agent) (a : Access) :
    (leaveOutcome k p a).integ = a.s.integ ∧ (leaveOutcome k p a).cfg = a.s.cfg := by
  unfold leaveOutcome
  dsimp only
  split
  · next w _ =>
    split
    · next r e _ _ =>
      split
      · obtain ⟨dir, tt, ports, h⟩ := (a.s.retractTaken k r p e).roundOn_changes k w r e (only p)
        rw [State.beginRetract_eq, h]
        exact ⟨rfl, rfl⟩
      · exact ⟨rfl, rfl⟩
    · exact ⟨rfl, rfl⟩
    · exact ⟨rfl, rfl⟩
  · split <;> exact ⟨rfl, rfl⟩

/-! ### The walker at the end of the step -/

section Walker

variable {c : State} (h : CalmRun c)
include h

theorem CalmRun.leaveWaits (x : LeaveWait) : CalmRun (c.leaveWaits x) := ⟨h.head, h.done, h.walk⟩

/-- While the walk has a RETRACT open, or is not complete, no LEAVE_DONE goes out. -/
theorem CalmRun.served {u : State} {p : Agent} (hi : u.intake = c.intake) (hz : c.pause = true → u.pause = true)
    (hp : u.leave.port = some p) (hn : u.leave.retracts ≠ 0 ∨ u.leave.complete = false) : CalmRun u := by
  refine ⟨fun r hr hk => hz (h.head r (by rw [← hi]; exact hr) hk), fun q _ => ?_, fun q _ hq => ?_⟩
  · unfold State.leaveDoneReady
    rcases hn with hn | hn
    · rw [decide_eq_false hn, Bool.and_false]; rfl
    · rw [hn]; rfl
  · rw [hp] at hq
    cases hq

/-- A RETRACT begun keeps the walk open. -/
theorem CalmRun.retract {p : Agent} (hp : c.leave.port = some p) (k : SetIdx) (w : Way) (r : Record) (e : EntryIdx)
    (set : AgentSet) : CalmRun ((c.retractTaken k r p e).roundOn k w r e set)
      ∧ ((c.retractTaken k r p e).roundOn k w r e set).leave = { c.leave with retracts := c.leave.retracts + 1 } := by
  obtain ⟨dir, tt, ports, heq⟩ := (c.retractTaken k r p e).roundOn_changes k w r e set
  rw [heq]
  refine ⟨h.served rfl (fun hz => ?_) hp (.inl (Nat.succ_ne_zero _)), rfl⟩
  show (c.pause || _) = true
  rw [hz]
  rfl

end Walker

theorem AgentSet.ext {x y : AgentSet} (h : ∀ a : Agent, has x a = has y a) : x = y :=
  BitVec.eq_of_getLsbD_eq fun i hi => h ⟨i, hi⟩

/-- The agents of a round on a record that may hold the member `p`, all of the domain. -/
theorem State.pending_of_members {s : State} {x set : AgentSet} (hx : ∀ a : Agent, has x a = (has set a && s.member a))
    (hset : ∀ a : Agent, has set a = true → s.member a = true) : x = set := by
  refine AgentSet.ext fun a => (hx a).trans ?_
  cases ha : has set a with
  | false => rfl
  | true => rw [hset a ha]; rfl

theorem State.member_of_roundSet {s : State} {p : Agent} (hm : s.member p = true) (r : Record) (a : Agent)
    (h : has (s.roundSet r (only p)) a = true) : s.member a = true := by
  unfold State.roundSet at h
  split at h
  · rw [State.has_memberSet] at h
    exact h
  · rw [has_only] at h
    rw [of_decide_eq_true h]
    exact hm

/-! ### A departure that finishes (R127) -/

/-- The port that has left, at the end of the event: OFF, with its rejoin hold set, nothing outstanding, LEAVE_DONE
sent. -/
theorem State.finish_leaves {u : State} {p : Agent} (hr : u.part = .run) (hm : u.member p = true)
    (hhead : ∀ r : Request, u.intake.head? = some r → r.kind = .leave → u.pause = true) (hp : u.leave.port = some p)
    (hready : u.leaveDoneReady p = true) :
    u.finish.port p = { u.port p with
      state := .off, rejoinHold := true, tags := 0, credits := 0, probeQueue := [], sends := [] }
    ∧ ⟨p, .leaveDone⟩ ∈ u.finish.outbox := by
  have hdone : u.sendLeaveDone = (u.send p .leaveDone).portLeft p := by
    unfold State.sendLeaveDone
    rw [hp]
    exact if_pos hready
  have hport : u.sendLeaveDone.port p = { u.port p with
      state := .off, rejoinHold := true, tags := 0, credits := 0, probeQueue := [], sends := [] } := by
    rw [hdone]
    unfold State.portLeft
    rw [State.port_updLeave, State.port_updPort_same, State.port_send]
  have hbox : ⟨p, .leaveDone⟩ ∈ u.sendLeaveDone.outbox := by
    rw [hdone]
    show _ ∈ (u.send p .leaveDone).outbox
    rw [State.outbox_send, if_pos hm]
    exact List.mem_append_right _ (List.mem_singleton.2 rfl)
  have hsettle : u.settle = (u.sendLeaveDone.enterWalk.pump).listAccesses.refreshClaims := by
    rw [State.settle_run hr]
    unfold State.beforeListing
    rw [State.takeLeaves_calm u hhead]
  generalize u.sendLeaveDone = v at hport hbox hsettle
  have hwalk : v.enterWalk.port p = v.port p := by
    unfold State.enterWalk
    split
    · next q rest _ =>
      split
      · next h =>
        obtain ⟨-, hdrain, -⟩ := h
        have hne : p ≠ q := fun hpq => by
          rw [← hpq, hport] at hdrain
          cases hdrain
        rw [State.port_updLeave, State.port_updPort_ne _ _ hne]
      · rfl
    · rfl
  have hw := Settles.enterWalk v
  generalize v.enterWalk = w at hwalk hsettle hw
  have hpump := ((Pumps.pump w).trans (Pumps.listAccesses _)).trans (Pumps.refreshClaims _)
  rw [← hsettle] at hpump
  have hout : w.member p = false := by
    unfold State.member
    rw [hwalk, hport]
    rfl
  have hend := State.unreported_takeReports u.settle
  simp only [State.unreported, Prod.mk.injEq] at hend
  obtain ⟨⟨-, -, -, -, -, -, -, -, hports⟩, -, -, -, -, -, houtbox, -, -, -⟩ := hend
  refine ⟨?_, ?_⟩
  · exact (congrArg (fun x : Vector Port 8 => x.get p) hports).trans ((hpump.outside p hout).trans (hwalk.trans hport))
  · obtain ⟨m₁, h₁⟩ := hw.outbox
    obtain ⟨m₂, h₂⟩ := hpump.settles.outbox
    show _ ∈ (State.takeReports u.settle).outbox
    rw [houtbox, h₂, h₁]
    exact List.mem_append_left _ (List.mem_append_left _ hbox)

/-- What a step that only makes the walker wait leaves. -/
structure LeaveWaits (x : LeaveWait) (c t : State) : Prop where
  leave : t.leave = { c.leave with wait := x }
  dir : t.dir = c.dir
  entry : ∀ i, (t.entry i).core = (c.entry i).core

theorem CalmRun.waits {c : State} (h : CalmRun c) (x : LeaveWait) (late : List Report) (starts : List StartItem) :
    LeaveWaits x c ((c.leaveWaits x).ended late starts).finish :=
  have g := ((h.leaveWaits x).ended late starts).finish
  ⟨g.leave, g.ends.dir, g.ends.entry⟩

/-- A walk that has come past set 2047 with nothing owed to its port is ready for LEAVE_DONE. -/
theorem State.leaveDoneReady_of {u : State} {p : Agent} (hc : u.leave.complete = true) (hr : u.leave.retracts = 0)
    (hq : u.queuedOf p = 0) (hw : (u.selectedWaiters fun r => decide (r.port = p)) = [])
    (hp : ∀ e, has (u.entry e).pendingSet p = false) : u.leaveDoneReady p = true := by
  have hintake : (u.intake.all fun r => decide (r.port ≠ p)) = true := by
    rw [List.all_eq_true]
    intro r hmem
    have hnil := List.filter_eq_nil_iff.1 (List.eq_nil_of_length_eq_zero hq) r hmem
    simpa using hnil
  have hpending : (allEntries.all fun e => !has (u.entry e).pendingSet p) = true := by
    rw [List.all_eq_true]
    intro e _
    rw [hp e]
    rfl
  unfold State.leaveDoneReady
  rw [hc, decide_eq_true hr, hintake, hw, hpending]
  rfl

section Advance

variable {c : State} (h : CalmRun c) {p : Agent} (hp : c.leave.port = some p) (late : List Report)
  (starts : List StartItem)
include h hp

/-- The walker after a step that advances, unless its walk ends there with nothing open. -/
theorem CalmRun.advances (hn : c.leave.retracts ≠ 0 ∨ c.leave.pos.toNat ≠ 2047) :
    (c.leaveOn.ended late starts).finish.leave
      = { c.leave with pos := c.leave.pos + 1, complete := decide (c.leave.pos.toNat = 2047) } :=
  ((h.served (u := c.leaveOn) rfl id hp (hn.imp id fun hk => decide_eq_false hk)).ended late starts).finish.leave

/-- The port after the last step of a walk with nothing owed to it. -/
theorem CalmRun.leaves (hr : c.part = .run) (hm : c.member p = true) (hk : c.leave.pos.toNat = 2047)
    (h0 : c.leave.retracts = 0) (hq : c.queuedOf p = 0) (hw : (c.selectedWaiters fun r => decide (r.port = p)) = [])
    (hpend : ∀ e, has (c.entry e).pendingSet p = false) :
    (c.leaveOn.ended late starts).finish.port p = { c.port p with
      state := .off, rejoinHold := true, tags := 0, credits := 0, probeQueue := [], sends := [] }
    ∧ ⟨p, .leaveDone⟩ ∈ (c.leaveOn.ended late starts).finish.outbox :=
  State.finish_leaves (u := c.leaveOn.ended late starts) hr hm h.head hp
    (State.leaveDoneReady_of (u := c.leaveOn.ended late starts) (decide_eq_true hk) h0 hq hw hpend)

end Advance

/-- Settles O39: the outcome of the step, case by case, to the end of its event. -/
theorem leaveStepRetractsOrAdvances : Obligations.LeaveStepRetractsOrAdvances := by
  intro s f p hd hl hcalm hm hu
  have hr : s.part = .run := State.part_run_of_due hd nofun
  have hport := State.leavePort_of_due hd
  have same := SameOutside.checked s s.leave.pos f
  have hrun := CalmRun.checked hcalm hr s.leave.pos f
  have hentry (i : EntryIdx) := s.checked_entry s.leave.pos f i
  have hfree := s.checked_freeEntry s.leave.pos f
  have hflight : (s.checked s.leave.pos f).recallUnit.inFlight = s.recallUnit.inFlight :=
    congrArg RecallUnit.inFlight same.recallUnit
  have hbudget : (s.checked s.leave.pos f).cfg.recallBudget = s.cfg.recallBudget :=
    congrArg Settings.recallBudget same.cfg
  have hleave : (s.checked s.leave.pos f).leave = s.leave := same.leave
  have hc : (s.takeClaim.beginAccess s.leave.pos f).s = s.checked s.leave.pos f := rfl
  obtain ⟨hinteg, hcfg⟩ := leaveOutcome_keeps s.leave.pos p (s.takeClaim.beginAccess s.leave.pos f)
  obtain ⟨late, starts, ht⟩ := State.exec_ended (d := .leave p) (f := f)
    (u := leaveOutcome s.leave.pos p (s.takeClaim.beginAccess s.leave.pos f)) rfl hd rfl rfl hu rfl hinteg
  refine ⟨_, ht, ?_, fun w r e hw hrec he hb => ?_, fun w hw hroom => ?_, fun e hw hblock => ?_, fun hw hblock => ?_⟩
  · exact (Finishes.finish _).cfg.trans (hcfg.trans same.cfg)
  · rw [leaveOutcome_retract hc _ hw hrec (hfree.trans he) (by rw [hflight, hbudget]; exact hb)]
    have g := (Takes.retractTaken he s.leave.pos f r p).round w r (only p) late starts
    obtain ⟨hquiet, hwalker⟩ := hrun.retract (hleave ▸ hport) s.leave.pos w r e (only p)
    have hend := ((hquiet.ended late starts).finish.leave.trans hwalker).trans (by rw [hleave])
    refine ⟨g.entry Entry.kind fun _ => rfl, g.entry Entry.requester fun _ => rfl, g.entry Entry.line fun _ => rfl,
      g.entry Entry.way fun _ => rfl, g.entry Entry.target fun _ => rfl, g.entry Entry.phase fun _ => rfl,
      g.entry Entry.probeKind fun _ => rfl, g.entry Entry.repairRound fun _ => rfl, g.entry Entry.keep fun _ => rfl,
      State.pending_of_members (fun a => (g.round a).1) (State.member_of_roundSet hm r), g.entry Entry.gen fun _ => rfl,
      g.probes hcalm hr, g.pause, g.record hl, g.bound hl, g.inFlight.trans (congrArg (· + 1) hflight),
      by rw [hend], by rw [hend], g.other⟩
  · rw [leaveOutcome_room hc _ hw (by rw [hfree, hflight, hbudget]; exact hroom)]
    have g := hrun.waits .room late starts
    exact ⟨congrArg LeaveWalker.wait g.leave, (congrArg LeaveWalker.pos g.leave).trans (by rw [hleave]), g.dir,
      fun i => (g.entry i).trans (congrArg Entry.core (hentry i))⟩
  · rw [leaveOutcome_blocked hc _ hw hblock]
    have g := hrun.waits (.noted e) late starts
    exact ⟨congrArg LeaveWalker.wait g.leave, (congrArg LeaveWalker.pos g.leave).trans (by rw [hleave]), g.dir,
      fun i => (g.entry i).trans (congrArg Entry.core (hentry i))⟩
  · rw [leaveOutcome_on hc _ hw hblock]
    have g := Finishes.finish ((s.checked s.leave.pos f).leaveOn.ended late starts)
    have hcport : (s.checked s.leave.pos f).leave.port = some p := by rw [hleave, hport]
    have hnext := hrun.advances hcport late starts
    rw [hleave] at hnext
    refine ⟨g.dir, fun i => (g.entry i).trans (congrArg Entry.core (hentry i)), fun hk => ?_, fun hk h0 hq hsel hpend => ?_,
      fun hk h0 => ?_⟩
    · rw [hnext (.inr hk)]
      exact ⟨rfl, hport, decide_eq_false hk⟩
    · have hq' : (s.checked s.leave.pos f).queuedOf p = 0 := by
        unfold State.queuedOf at hq ⊢
        rw [same.intake]
        exact hq
      have hsel' := (State.selectedWaiters_congr (s := s) (t := s.checked s.leave.pos f) same.pool
        (fun e => congrArg Entry.waiters (hentry e)) fun r => decide (r.port = p)).trans hsel
      obtain ⟨hoff, hbox⟩ := hrun.leaves hcport late starts (same.part.trans hr)
        ((s.checked_member s.leave.pos f p).trans hm) (by rw [hleave]; exact hk) (by rw [hleave]; exact h0) hq' hsel'
        fun e => by rw [hentry]; exact hpend e
      rw [hoff]
      exact ⟨rfl, rfl, rfl, rfl, hbox⟩
    · rw [hnext (.inl h0)]
      exact ⟨decide_eq_true hk, hport⟩

end Sys2Proof.Machine
end

section
/-! SUPPORT. The close of an entry up to its hand-on step (R57 to R59, R116, R119): what it leaves alone, and the fence
snapshots that the entry leaves. -/

namespace Sys2Proof.Machine

/-! ### The close filter leaves all but the array, the table and the reports alone (R58) -/

theorem State.freeRec_changes (s : State) (k : SetIdx) (w : Way) :
    ∃ dir tt, s.freeRec k w = { s with dir := dir, tt := tt } := by
  unfold State.freeRec
  dsimp only
  split
  · exact ⟨_, _, rfl⟩
  · exact ⟨_, s.tt, rfl⟩

theorem State.filterRecord_changes (s : State) (k : SetIdx) (w : Way) (r : Record) (n : Txn) :
    ∃ dir tt more, s.filterRecord k w r n = { s with dir := dir, tt := tt, reports := s.reports ++ more } := by
  have same : ∃ dir tt more, s = { s with dir := dir, tt := tt, reports := s.reports ++ more } :=
    ⟨s.dir, s.tt, [], by rw [List.append_nil]⟩
  have written (q : Record) :
      ∃ dir tt more, s.writeRec k w q = { s with dir := dir, tt := tt, reports := s.reports ++ more } :=
    ⟨(s.writeRec k w q).dir, s.tt, [], by rw [List.append_nil]; rfl⟩
  unfold State.filterRecord
  split
  · dsimp only
    split
    · unfold State.freeOrPoison
      split
      · exact written _
      · obtain ⟨dir, tt, h⟩ := s.freeRec_changes k w
        exact ⟨dir, tt, [], by rw [h, List.append_nil]⟩
    · exact written _
  · split
    · split
      · exact ⟨_, s.tt, [_], rfl⟩
      · exact same
    · exact same
  · exact same
  · exact same

theorem State.closeFilter_changes (s : State) (k : SetIdx) (e : EntryIdx) :
    ∃ dir tt more, s.closeFilter k e = { s with dir := dir, tt := tt, reports := s.reports ++ more } := by
  have same : ∃ dir tt more, s = { s with dir := dir, tt := tt, reports := s.reports ++ more } :=
    ⟨s.dir, s.tt, [], by rw [List.append_nil]⟩
  unfold State.closeFilter
  split
  · split
    · exact s.filterRecord_changes k _ _ _
    · exact same
  · exact same

/-! ### The snapshots (R116, R119) -/

theorem has_without_ne {n : Nat} (x : BitVec n) {i j : Nat} (h : j ≠ i) : has (without x i) j = has x j := by
  unfold has without
  rw [BitVec.getLsbD_and, BitVec.getLsbD_not, BitVec.getLsbD_twoPow, decide_eq_false (fun hij : i = j => h hij.symm)]
  cases hx : x.getLsbD j with
  | false => rfl
  | true => rw [decide_eq_true (BitVec.lt_of_getLsbD hx), Bool.and_false]; rfl

theorem without_of_not {n : Nat} {x : BitVec n} {i : Nat} (h : has x i = false) : without x i = x := by
  refine BitVec.eq_of_getLsbD_eq fun j _ => ?_
  by_cases hj : j = i
  · exact (congrArg _ hj).trans ((has_without_self x i).trans (h.symm.trans (congrArg _ hj.symm)))
  · exact has_without_ne x hj

/-- The snapshot of a FENCED port that loses its last entry `e` (R116). -/
def Port.emptiedBy (q : Port) (e : EntryIdx) : Prop :=
  q.state = .fenced ∧ has q.snapshot e = true ∧ without q.snapshot e = 0

/-- What is left when entry `e` has left the snapshots of the ports of `l`. -/
structure LeavesSnapshots (e : EntryIdx) (l : List Agent) (s t : State) : Prop where
  changes : ∃ ports purge, t = { s with ports := ports, purge := purge }
  pos : t.purge.pos = s.purge.pos
  state : ∀ p, (t.port p).state = (s.port p).state
  snapshot : ∀ p, (t.port p).snapshot = if p ∈ l then without (s.port p).snapshot e else (s.port p).snapshot
  joins : ∀ p ∈ l, (s.port p).emptiedBy e → t.purge.starts.get p = some s.purge.pos
  stays : ∀ p, ¬ (p ∈ l ∧ (s.port p).emptiedBy e) → t.purge.starts.get p = s.purge.starts.get p

theorem LeavesSnapshots.nil (e : EntryIdx) (s : State) : LeavesSnapshots e [] s s :=
  ⟨⟨s.ports, s.purge, rfl⟩, rfl, fun _ => rfl, fun _ => rfl, nofun, fun _ _ => rfl⟩

theorem LeavesSnapshots.leaveSnapshot (e : EntryIdx) (s : State) (p : Agent) :
    LeavesSnapshots e [p] s (State.leaveSnapshot e s p) := by
  have hport (q : Agent) := State.port_updPort s p q fun x => { x with snapshot := without x.snapshot e }
  have hstate (q : Agent) : ((s.updPort p fun x => { x with snapshot := without x.snapshot e }).port q).state
      = (s.port q).state := by
    rw [hport]
    split
    · next h => rw [h]
    · rfl
  have hsnap (q : Agent) : ((s.updPort p fun x => { x with snapshot := without x.snapshot e }).port q).snapshot
      = if q ∈ [p] then without (s.port q).snapshot e else (s.port q).snapshot := by
    rw [hport]
    by_cases h : q = p
    · rw [if_pos h, if_pos (List.mem_singleton.2 h), h]
    · rw [if_neg h, if_neg fun hm => h (List.mem_singleton.1 hm)]
  unfold State.leaveSnapshot
  dsimp only
  split
  · next hh =>
    split
    · next hc =>
      refine ⟨⟨_, _, rfl⟩, rfl, hstate, hsnap, fun q hq _ => ?_, fun q hq => ?_⟩
      · rw [List.mem_singleton.1 hq]
        exact Vector.get_set_self _ _ _
      · exact Vector.get_set_other _ _ fun h => hq ⟨List.mem_singleton.2 h, by rw [h]; exact ⟨hc.1, hh, hc.2⟩⟩
    · next hc =>
      refine ⟨⟨_, s.purge, rfl⟩, rfl, hstate, hsnap, fun q hq hem => absurd ?_ hc, fun _ _ => rfl⟩
      rw [List.mem_singleton.1 hq] at hem
      exact ⟨hem.1, hem.2.2⟩
  · next hh =>
    have hnot := Bool.not_eq_true _ ▸ hh
    refine ⟨⟨s.ports, s.purge, rfl⟩, rfl, fun _ => rfl, fun q => ?_, fun q hq hem => absurd ?_ hh, fun _ _ => rfl⟩
    · split
      · next hq =>
        rw [List.mem_singleton.1 hq, without_of_not hnot]
      · rfl
    · rw [List.mem_singleton.1 hq] at hem
      exact hem.2.1

theorem LeavesSnapshots.cons {e : EntryIdx} {p : Agent} {l : List Agent} (hp : p ∉ l) {s t u : State}
    (h : LeavesSnapshots e [p] s t) (g : LeavesSnapshots e l t u) : LeavesSnapshots e (p :: l) s u := by
  have hl {q : Agent} (hq : q ∈ l) : q ∉ [p] := fun hm => hp (List.mem_singleton.1 hm ▸ hq)
  have hemptied {q : Agent} (hq : q ∈ l) : (t.port q).emptiedBy e ↔ (s.port q).emptiedBy e := by
    unfold Port.emptiedBy
    rw [h.state, h.snapshot, if_neg (hl hq)]
  refine ⟨?_, g.pos.trans h.pos, fun q => (g.state q).trans (h.state q), fun q => ?_, fun q hq hem => ?_, fun q hq => ?_⟩
  · obtain ⟨ports, purge, rfl⟩ := h.changes
    obtain ⟨ports', purge', rfl⟩ := g.changes
    exact ⟨ports', purge', rfl⟩
  · rw [g.snapshot, h.snapshot]
    by_cases hql : q ∈ l
    · rw [if_pos hql, if_neg (hl hql), if_pos (List.mem_cons_of_mem _ hql)]
    · rw [if_neg hql]
      refine if_congr ?_ rfl rfl
      rw [List.mem_singleton, List.mem_cons, or_iff_left hql]
  · rcases List.mem_cons.1 hq with rfl | hql
    · rw [g.stays q fun hm => hp hm.1, h.joins q (List.mem_singleton.2 rfl) hem]
    · rw [g.joins q hql ((hemptied hql).2 hem), h.pos]
  · rw [g.stays q fun hm => hq ⟨List.mem_cons_of_mem _ hm.1, (hemptied hm.1).1 hm.2⟩,
      h.stays q fun hm => hq ⟨List.mem_cons.2 (.inl (List.mem_singleton.1 hm.1)), hm.2⟩]

theorem LeavesSnapshots.leaveSnapshots (s : State) (e : EntryIdx) :
    LeavesSnapshots e allAgents s (s.leaveSnapshots e) := by
  have fold (l : List Agent) (hn : l.Nodup) (u : State) :
      LeavesSnapshots e l u (l.foldl (State.leaveSnapshot e) u) := by
    induction l generalizing u with
    | nil => exact .nil e u
    | cons p l ih =>
      obtain ⟨hp, hn⟩ := List.nodup_cons.1 hn
      exact (LeavesSnapshots.leaveSnapshot e u p).cons hp (ih hn _)
  exact fold allAgents (List.nodup_finRange 8) s

/-- An entry that is in no snapshot leaves none. -/
theorem State.leaveSnapshots_of_not {s : State} {e : EntryIdx} (h : ∀ p, has (s.port p).snapshot e = false) :
    s.leaveSnapshots e = s := by
  have fold (l : List Agent) : l.foldl (State.leaveSnapshot e) s = s := by
    induction l with
    | nil => rfl
    | cons p l ih =>
      have hstep : State.leaveSnapshot e s p = s := by
        unfold State.leaveSnapshot
        exact if_neg (by rw [h p]; exact Bool.false_ne_true)
      rw [List.foldl_cons, hstep, ih]
  exact fold allAgents

/-! ### The close up to its hand-on step -/

/-- The state in which the hand-on step of entry `e`'s close finds it (R57 to R60). -/
def State.closing (s : State) (k : SetIdx) (e : EntryIdx) : State :=
  ((s.closeFilter k e).updSet k fun d => d.dropReservation e).reportClose e

theorem State.closeEntry_eq (s : State) (k : SetIdx) (e : EntryIdx) : s.closeEntry k e = (s.closing k e).handOn k e := rfl

/-- What the close has changed when its hand-on step begins. -/
structure Closing (e : EntryIdx) (s v : State) : Prop where
  changes : ∃ dir tt more ru leave ports purge, v = { s with
    dir := dir, tt := tt, reports := s.reports ++ more, recallUnit := ru, leave := leave, ports := ports, purge := purge }
  entry : ∀ i, v.entry i = s.entry i ∨ v.entry i = { s.entry i with way := none }
  pos : v.purge.pos = s.purge.pos
  snapshot : ∀ p, (v.port p).snapshot = without (s.port p).snapshot e
  joins : ∀ p, (s.port p).emptiedBy e → v.purge.starts.get p = some s.purge.pos
  stays : ∀ p, ¬ (s.port p).emptiedBy e → v.purge.starts.get p = s.purge.starts.get p

theorem State.reportClose_eq (s : State) (e : EntryIdx) : ∃ ru leave,
    s.reportClose e = ({ s with recallUnit := ru, leave := leave } : State).leaveSnapshots e := ⟨_, _, rfl⟩

theorem Closing.closing (s : State) (k : SetIdx) (e : EntryIdx) : Closing e s (s.closing k e) := by
  have hentry (i : EntryIdx) : (s.closing k e).entry i = (s.closeFilter k e).entry i := State.entry_reportClose _ e i
  obtain ⟨dir, tt, more, h⟩ := s.closeFilter_changes k e
  obtain ⟨ru, leave, hr⟩ := ((s.closeFilter k e).updSet k fun d => d.dropReservation e).reportClose_eq e
  have g := LeavesSnapshots.leaveSnapshots
    ({ (s.closeFilter k e).updSet k fun d => d.dropReservation e with recallUnit := ru, leave := leave } : State) e
  unfold State.closing at hentry ⊢
  rw [hr] at hentry ⊢
  have hports : (s.closeFilter k e).ports = s.ports := by rw [h]
  have hport (p : Agent) : (s.closeFilter k e).port p = s.port p := congrArg (fun v : Vector Port 8 => v.get p) hports
  have hpurge : (s.closeFilter k e).purge = s.purge := by rw [h]
  refine ⟨?_, fun i => ?_, g.pos.trans (congrArg PurgeWalker.pos hpurge), fun p => ?_, fun p hem => ?_, fun p hem => ?_⟩
  · obtain ⟨ports, purge, hg⟩ := g.changes
    rw [hg, h]
    exact ⟨_, _, _, _, _, _, _, rfl⟩
  · rw [hentry]
    exact (s.entry_closeFilter k e i).imp id And.left
  · refine ((g.snapshot p).trans (if_pos (mem_allAgents p))).trans ?_
    exact congrArg (fun q : Port => without q.snapshot e) (hport p)
  · refine (g.joins p (mem_allAgents p) ?_).trans (congrArg (fun w => some (PurgeWalker.pos w)) hpurge)
    exact hport p ▸ hem
  · refine (g.stays p fun hm => hem (hport p ▸ hm.2)).trans (congrArg (fun w => PurgeWalker.starts w |>.get p) hpurge)

/-! ### What the hand-on step leaves alone -/

/-- An entry that has left the snapshots leaves the ports and the purge set alone when it is handed on. -/
theorem State.ports_handOn {v : State} {e : EntryIdx} (h : ∀ p, has (v.port p).snapshot e = false) (k : SetIdx) :
    (v.handOn k e).ports = v.ports ∧ (v.handOn k e).purge = v.purge := by
  unfold State.handOn
  split
  · unfold State.releaseEntry State.announceFree
    dsimp only
    rw [State.leaveSnapshots_of_not (by exact h)]
    exact ⟨rfl, rfl⟩
  · split
    · split <;> exact ⟨rfl, rfl⟩
    · exact ⟨rfl, rfl⟩
    · exact ⟨rfl, rfl⟩
    · exact ⟨rfl, rfl⟩

/-- An entry that is not freed keeps the pause flag. -/
theorem State.pause_handOn {v : State} {e : EntryIdx} (h : (v.entry e).waiters ≠ []) (k : SetIdx) :
    (v.handOn k e).pause = v.pause := by
  unfold State.handOn
  split
  · next hw => exact absurd hw h
  · split
    · split <;> rfl
    · rfl
    · rfl
    · rfl

theorem State.handOn_free {v : State} {e : EntryIdx} (h : (v.entry e).waiters = []) (k : SetIdx) :
    v.handOn k e = v.releaseEntry k e := by
  unfold State.handOn
  rw [h]

/-! ### The whole close -/

section

variable {e : EntryIdx} {s v : State}

/-- A field of an entry other than its way. -/
theorem Closing.of {α : Type} (h : Closing e s v) (g : Entry → α) (hg : ∀ z : Entry, g { z with way := none } = g z)
    (i : EntryIdx) : g (v.entry i) = g (s.entry i) := by
  rcases h.entry i with he | he
  · rw [he]
  · rw [he, hg]

theorem Closing.snapshot_not (h : Closing e s v) (p : Agent) : has (v.port p).snapshot e = false := by
  rw [h.snapshot]
  exact has_without_self _ _

theorem Closing.inUseCount (h : Closing e s v) : v.inUseCount = s.inUseCount := by
  unfold State.inUseCount
  rw [funext fun i => h.of Entry.inUse (fun _ => rfl) i]

/-- The pause flag after the close of an entry in use without waiters (R63). -/
theorem Closing.pause_freed (h : Closing e s v) (hw : (s.entry e).waiters = []) (hp : (s.entry e).phase ≠ .free)
    (k : SetIdx) : (v.handOn k e).pause = (s.pause && !decide (s.inUseCount - 1 ≤ s.cfg.admitLow)) := by
  have hcount := State.inUseCount_releaseEntry (s := v) (e := e) k (by rw [h.of Entry.phase fun _ => rfl]; exact hp)
  obtain ⟨dir, tt, more, ru, leave, ports, purge, hv⟩ := h.changes
  have hpause : v.pause = s.pause := by rw [hv]
  have hcfg : v.cfg = s.cfg := by rw [hv]
  rw [State.handOn_free (by rw [h.of Entry.waiters fun _ => rfl]; exact hw), State.pause_releaseEntry, hpause, hcfg,
    ← h.inUseCount, ← hcount]
  rfl

end

section

variable (s : State) (k : SetIdx) (e : EntryIdx)

/-- What the close leaves besides its record and its entry: messages, reports and the recall start queue. -/
theorem State.closeEntry_off : (s.closeEntry k e).outbox = s.outbox ∧ (∃ more, (s.closeEntry k e).reports = s.reports ++ more)
    ∧ (s.closeEntry k e).recallUnit.queue = s.recallUnit.queue := by
  have h := (Closes.closeEntry s k e).off
  obtain ⟨dir, tt, more, hf⟩ := s.closeFilter_changes k e
  rw [hf] at h
  simp only [State.offArray, Prod.mk.injEq] at h
  obtain ⟨-, hbox, hreports, hqueue⟩ := h
  exact ⟨hbox, ⟨more, hreports⟩, hqueue⟩

theorem State.freed_closeEntry (h : (s.entry e).waiters = []) :
    (s.closeEntry k e).entry e = Entry.freeOf (s.entry e).gen := by
  have hc := Closing.closing s k e
  rw [State.closeEntry_eq, (HandsOn.handOn (s.closing k e) k e).freed (by rw [hc.of Entry.waiters fun _ => rfl]; exact h),
    hc.of Entry.gen fun _ => rfl]

end

end Sys2Proof.Machine
end

section
/-! PROOF. O31: the start access of a parked request (R91 to R95). -/

namespace Sys2Proof.Machine

/-! ### The outcome (R92) -/

/-- The FREE entry `e` taken for a RECALL of the victim `r` that serves the parked entry `p`, counted in flight; the parked
item has left the queue. -/
def State.recallBegun (s : State) (k : SetIdx) (r : Record) (p e : EntryIdx) : State :=
  let s1 := (s.dropItem (.parked p)).takeEntry e (lineOf k r.tag) .recallVictim .none none
  { s1 with recallUnit := { s1.recallUnit with
    inFlight := s1.recallUnit.inFlight + 1
    serves := s1.recallUnit.serves.set e.val (some p) } }

theorem State.beginRecall_eq (s : State) (k : SetIdx) (w : Way) (r : Record) (p e : EntryIdx) :
    (s.dropItem (.parked p)).beginRecall k w r p e = (s.recallBegun k r p e).roundOn k w r e r.holders := rfl

theorem Takes.recallBegun {s : State} {e : EntryIdx} (h : s.freeEntry = some e) (k : SetIdx) (f : List CellFault)
    (r : Record) (p : EntryIdx) :
    Takes k f e (Entry.begin (s.entry e).gen (lineOf k r.tag) none .recallVictim .none none []) s
      ((s.checked k f).recallBegun k r p e) :=
  (Takes.takeEntry h k f (lineOf k r.tag) .recallVictim .none none).congr rfl

/-- The parked request `r` of entry `p` answered NO_SLOT, and reported (R95). -/
def State.noSlotAnswered (s : State) (p : EntryIdx) (r : Request) : State :=
  ((s.dropItem (.parked p)).reply r.port r.tag (.nack r.tag r.line .noSlot)).report (s.noSlotReport p r)

theorem State.refuseNoSlot_eq {s : State} {p : EntryIdx} {r : Request} (h : s.requestOf p = some r) (k : SetIdx) :
    (s.dropItem (.parked p)).refuseNoSlot k p = (s.noSlotAnswered p r).closeEntry k p := by
  have hr : (s.dropItem (.parked p)).requestOf p = some r := h
  unfold State.refuseNoSlot
  rw [hr]
  rfl

section Outcome

variable {a : Access} {c : State} {k : SetIdx} {p : EntryIdx} (ha : a.s = c) (hk : setOf (c.lineOfEntry p) = k)
include ha hk

theorem recallStartOutcome_fenced (h : c.requesterFenced p = true) :
    recallStartOutcome p a = (c.dropItem (.parked p)).closeEntry k p := by
  subst ha hk
  exact if_pos h

theorem recallStartOutcome_reserves (h : c.requesterFenced p = false) {w : Way} (hw : (c.dirSet k).usableWay p = some w) :
    recallStartOutcome p a = (c.dropItem (.parked p)).reserveFor k w p := by
  subst ha hk
  unfold recallStartOutcome
  dsimp only
  rw [h, if_neg Bool.false_ne_true, hw]

variable (h : c.requesterFenced p = false) (hw : (c.dirSet k).usableWay p = none)
include h hw

theorem recallStartOutcome_recalls {w : Way} {r : Record} {e : EntryIdx} (hv : (c.dirSet k).victim = some w)
    (hr : (c.dirSet k).record w = some r) (he : c.freeEntry = some e) :
    recallStartOutcome p a = (c.recallBegun k r p e).roundOn k w r e r.holders := by
  subst ha hk
  unfold recallStartOutcome
  dsimp only
  rw [h, if_neg Bool.false_ne_true, hw]
  dsimp only
  rw [hv]
  dsimp only
  rw [hr, he]
  rfl

theorem recallStartOutcome_stays {w : Way} (hv : (c.dirSet k).victim = some w) (he : c.freeEntry = none) :
    recallStartOutcome p a = c := by
  subst ha hk
  unfold recallStartOutcome
  dsimp only
  rw [h, if_neg Bool.false_ne_true, hw]
  dsimp only
  rw [hv]
  dsimp only
  rw [he]
  cases (a.s.dirSet (setOf (a.s.lineOfEntry p))).record w <;> rfl

theorem recallStartOutcome_refuses {r : Request} (hv : (c.dirSet k).victim = none) (hr : c.requestOf p = some r) :
    recallStartOutcome p a = (c.noSlotAnswered p r).closeEntry k p := by
  subst ha hk
  unfold recallStartOutcome
  dsimp only
  rw [h, if_neg Bool.false_ne_true, hw]
  dsimp only
  rw [hv]
  exact State.refuseNoSlot_eq hr _

end Outcome

theorem integ_recallStartOutcome (p : EntryIdx) (a : Access) : (recallStartOutcome p a).integ = a.s.integ := by
  unfold recallStartOutcome
  dsimp only
  split
  · exact State.integ_closeEntry_any _ _ _
  · split
    · rfl
    · split
      · split
        · rw [State.beginRecall_eq, State.integ_roundOn]; rfl
        · rfl
        · rfl
      · unfold State.refuseNoSlot
        split
        · next r _ =>
          rw [State.integ_closeEntry_any]
          exact State.integ_reply (a.s.dropItem (.parked p)) r.port r.tag (.nack r.tag r.line .noSlot)
        · exact State.integ_closeEntry_any _ _ _

/-! ### The claim of the recall unit (R49, R91) -/

theorem State.claims_takeReports {s : State} {c : Claim} (h : c ∈ s.takeReports.claims) : c ∈ s.claims := by
  unfold State.takeReports at h
  dsimp only at h
  split at h
  · unfold State.enterHalted State.haltCommand at h
    split at h
    · exact List.mem_of_mem_erase h
    · exact h
  · exact h

theorem State.not_free_of_freeEntry {s : State} (h : s.freeEntry = none) (e : EntryIdx) : (s.entry e).phase ≠ .free := by
  intro he
  have hs := s.freeEntry_isSome.2 ⟨e, he⟩
  rw [h] at hs
  cases hs

/-- Without a FREE entry and without a pending access the recall unit raises no claim. -/
theorem State.recallUnit_not_claimed {u : State} (hr : u.part = .run) (hfree : ∀ e, (u.entry e).phase ≠ .free)
    (ha : u.finish.recallUnit.accesses = []) : Claim.recallUnit ∉ u.finish.claims := by
  intro hc
  have hc' := State.claims_takeReports (s := u.settle) hc
  have hunit := State.unreported_takeReports u.settle
  simp only [State.unreported, Prod.mk.injEq] at hunit
  obtain ⟨-, -, hunit, -⟩ := hunit
  have ha' : u.settle.recallUnit.accesses = [] := (congrArg RecallUnit.accesses hunit).symm.trans ha
  have hentry (e : EntryIdx) := Entry.of_core Entry.phase (fun _ => rfl) ((Settles.settle u).entry e)
  rw [State.settle_run hr] at hc' ha' hentry
  generalize u.beforeListing.listAccesses = w at hc' ha' hentry
  rw [State.mem_refreshClaims] at hc'
  rcases (State.wantsRecall_iff _).1 hc' with hne | ⟨-, e, he⟩
  · exact hne ha'
  · exact hfree e ((hentry e).symm.trans he)

/-! ### What each case leaves -/

/-- A slot reserved for the parked entry `p` (R92, R97). -/
structure Reserves (k : SetIdx) (w : Way) (p : EntryIdx) (c t : State) : Prop where
  slot : c.dir.wf = true → ((t.dirSet k).slot w).reservation = some p
  entry : (t.entry p).core = { (c.entry p).core with slotClaim := true }
  queue : ∃ starts, t.recallUnit.queue = starts ++ c.recallUnit.queue.erase (.parked p)

theorem Reserves.concludes {k : SetIdx} {w : Way} {p : EntryIdx} {c t : State}
    (g : Concludes ((c.dropItem (.parked p)).reserveFor k w p) t) : Reserves k w p c t := by
  refine ⟨fun hwf => ?_, ?_, g.queue⟩
  · rw [State.dirSet_congr g.dir]
    have hset := State.dirSet_updSet_same c k (fun d => d.setReservation w (some p)) hwf
    refine (congrArg (fun d : DirSet => (d.slot w).reservation) hset).trans ?_
    rw [DirSet.slot_setReservation, if_pos rfl]
  · rw [g.entry]
    exact congrArg Entry.core (State.entry_updEntry_same
      ((c.dropItem (.parked p)).updSet k fun d => d.setReservation w (some p)) p fun x => { x with slotClaim := true })

/-- A parked request answered NO_SLOT and closed (R95). -/
structure RefusesSlot (p : EntryIdx) (r : Request) (c t : State) : Prop where
  outbox : ∃ more, t.outbox = c.outbox ++ ⟨r.port, .nack r.tag r.line .noSlot⟩ :: more
  reports : c.noSlotReport p r ∈ t.reports
  freed : (c.entry p).waiters = [] → (t.entry p).core = (Entry.freeOf (c.entry p).gen).core

theorem RefusesSlot.concludes {k : SetIdx} {p : EntryIdx} {r : Request} {c t : State} (hm : c.member r.port = true)
    (g : Concludes ((c.noSlotAnswered p r).closeEntry k p) t) : RefusesSlot p r c t := by
  obtain ⟨hbox, ⟨reports, hreports⟩, -⟩ := State.closeEntry_off (c.noSlotAnswered p r) k p
  have hentry : (c.noSlotAnswered p r).entry p = c.entry p :=
    State.entry_reply (c.dropItem (.parked p)) r.port r.tag (.nack r.tag r.line .noSlot) p
  have hsent : (c.noSlotAnswered p r).outbox = c.outbox ++ [⟨r.port, .nack r.tag r.line .noSlot⟩] :=
    State.outbox_reply (s := c.dropItem (.parked p)) hm r.tag _
  refine ⟨?_, g.reports _ ?_, fun hw => ?_⟩
  · obtain ⟨more, h⟩ := g.outbox
    refine ⟨more, ?_⟩
    rw [h, hbox, hsent, List.append_assoc]
    rfl
  · rw [hreports]
    exact List.mem_append_left _ (List.mem_append_right _ (List.mem_singleton.2 rfl))
  · rw [g.entry, State.freed_closeEntry _ k p (by rw [hentry]; exact hw), hentry]

/-- Settles O31: the outcome of the start access, case by case, to the end of its event. -/
theorem recallStartFindsSlot : Obligations.RecallStartFindsSlot := by
  intro s f p hd hl hu
  have hrun : s.part = .run := State.part_run_of_due hd nofun
  have same := SameOutside.checked s (setOf (s.lineOfEntry p)) f
  have hunit : (s.checked (setOf (s.lineOfEntry p)) f).recallUnit = s.recallUnit := same.recallUnit
  have hflight := congrArg RecallUnit.inFlight hunit
  have hserves := congrArg RecallUnit.serves hunit
  have hentry (i : EntryIdx) := s.checked_entry (setOf (s.lineOfEntry p)) f i
  have hk := congrArg setOf (s.checked_lineOfEntry (setOf (s.lineOfEntry p)) f p)
  have hfenced := s.checked_requesterFenced (setOf (s.lineOfEntry p)) f p
  have hfree := s.checked_freeEntry (setOf (s.lineOfEntry p)) f
  have hreq := s.checked_requestOf (setOf (s.lineOfEntry p)) f p
  have hwf := (State.checked_lawful hl (setOf (s.lineOfEntry p)) f).1
  have hc : (s.takeClaim.beginAccess (setOf (s.lineOfEntry p)) f).s = s.checked (setOf (s.lineOfEntry p)) f := rfl
  obtain ⟨late, starts, ht⟩ := State.exec_ended (d := .recallStart p) (f := f)
    (u := recallStartOutcome p (s.takeClaim.beginAccess (setOf (s.lineOfEntry p)) f)) rfl hd rfl rfl hu rfl
    (integ_recallStartOutcome _ _)
  have con := Concludes.finish (recallStartOutcome p (s.takeClaim.beginAccess (setOf (s.lineOfEntry p)) f)) late starts
  refine ⟨_, ht, fun hf hw => ?_, fun hf w hw => ?_, fun hf hw w r e hv hr he => ?_, fun hf hw w hv he => ?_,
    fun r hf hw hv hr hm hwait => ?_⟩
  · rw [recallStartOutcome_fenced hc hk (hfenced.trans hf)] at con ⊢
    have hfreed := State.freed_closeEntry ((s.checked (setOf (s.lineOfEntry p)) f).dropItem (.parked p))
      (setOf (s.lineOfEntry p)) p ((congrArg Entry.waiters (hentry p)).trans hw)
    exact ((con.entry p).trans (congrArg Entry.core hfreed)).trans
      (congrArg (fun x : Entry => (Entry.freeOf x.gen).core) (hentry p))
  · rw [recallStartOutcome_reserves hc hk (hfenced.trans hf) hw] at con ⊢
    have g := Reserves.concludes con
    obtain ⟨more, hqueue⟩ := g.queue
    exact ⟨g.slot hwf, g.entry.trans (congrArg (fun x : Entry => { x.core with slotClaim := true }) (hentry p)),
      more, by rw [hqueue, hunit]⟩
  · rw [recallStartOutcome_recalls hc hk (hfenced.trans hf) hw hv hr (hfree.trans he)]
    have g := (Takes.recallBegun he (setOf (s.lineOfEntry p)) f r p).round w r r.holders late starts
    obtain ⟨more, hqueue⟩ := g.queue
    refine ⟨g.entry Entry.kind fun _ => rfl, g.entry Entry.requester fun _ => rfl, g.entry Entry.line fun _ => rfl,
      g.entry Entry.way fun _ => rfl, g.entry Entry.phase fun _ => rfl, g.entry Entry.probeKind fun _ => rfl,
      g.entry Entry.repairRound fun _ => rfl, g.entry Entry.keep fun _ => rfl, g.entry Entry.gen fun _ => rfl, g.round,
      fun hcalm => g.probes hcalm hrun, g.bound hl, g.record hl,
      g.inFlight.trans (congrArg (· + 1) hflight),
      (congrArg (fun v : Vector (Option EntryIdx) 32 => v.get e) g.serves).trans (Vector.get_set_self _ _ _),
      ⟨more, hqueue.trans (congrArg (fun x : RecallUnit => more ++ x.queue.erase (.parked p)) hunit)⟩, g.pause, g.other⟩
  · rw [recallStartOutcome_stays hc hk (hfenced.trans hf) hw hv (hfree.trans he)] at con ⊢
    have g := Finishes.finish ((s.checked (setOf (s.lineOfEntry p)) f).ended late starts)
    refine ⟨con.dir, fun i => (con.entry i).trans (congrArg Entry.core (hentry i)),
      g.inFlight.trans hflight, g.serves.trans hserves,
      hunit ▸ con.queue, g.pause.trans same.pause, fun ha => ?_⟩
    exact State.recallUnit_not_claimed (same.part.trans hrun) (State.not_free_of_freeEntry (hfree.trans he)) ha
  · rw [recallStartOutcome_refuses hc hk (hfenced.trans hf) hw hv (hreq.trans hr)] at con ⊢
    have g := RefusesSlot.concludes ((s.checked_member _ f _).trans hm) con
    obtain ⟨more, hmore⟩ := g.outbox
    refine ⟨⟨more, hmore.trans (congrArg (· ++ _ :: more) (s.checked_outbox _ f))⟩, ?_,
      (g.freed ((congrArg Entry.waiters (hentry p)).trans hwait)).trans
        (congrArg (fun x : Entry => (Entry.freeOf x.gen).core) (hentry p))⟩
    have hreport := g.reports
    unfold State.noSlotReport at hreport
    rw [State.checked_txn, ← State.lineOfEntry_of_requestOf hr] at hreport
    rw [← State.lineOfEntry_of_requestOf hr]
    exact hreport

end Sys2Proof.Machine
end

section
/-! PROOF. O26: the close access of an entry without waiters, on the record of its line (R58, R60). -/

namespace Sys2Proof.Machine

/-! ### The outcome of the close access -/

theorem closeOutcome_closes {a : Access} {e : EntryIdx} (h : ¬ ((a.s.entry e).kind = some .request
    ∧ (a.s.entry e).grantSent.isSome = true ∧ a.s.recordState e = some .damaged)) :
    closeOutcome e a = a.s.closeEntry (setOf (a.s.lineOfEntry e)) e := if_neg h

/-- The close access of an entry that needs no repair is the close of the entry. -/
theorem State.exec_close {s : State} {f : List CellFault} {e : EntryIdx} (hd : s.due = some (.close e))
    (hu : s.undisturbed (setOf (s.lineOfEntry e)) f)
    (hn : ¬ ((s.entry e).kind = some .request ∧ (s.entry e).grantSent.isSome = true
      ∧ (s.checked (setOf (s.lineOfEntry e)) f).recordState e = some .damaged)) :
    ∃ late starts, exec (.closeAccess f) s = .next (((s.checked (setOf (s.lineOfEntry e)) f).closeEntry
      (setOf (s.lineOfEntry e)) e).ended late starts).finish := by
  have hout : closeOutcome e (s.takeClaim.beginAccess (setOf (s.lineOfEntry e)) f)
      = (s.checked (setOf (s.lineOfEntry e)) f).closeEntry (setOf (s.lineOfEntry e)) e := by
    rw [closeOutcome_closes]
    · exact congrArg (fun l => (s.checked (setOf (s.lineOfEntry e)) f).closeEntry (setOf l) e)
        (s.checked_lineOfEntry (setOf (s.lineOfEntry e)) f e)
    · rw [show (s.takeClaim.beginAccess (setOf (s.lineOfEntry e)) f).s.entry e = s.entry e from
        s.checked_entry (setOf (s.lineOfEntry e)) f e]
      exact hn
  exact State.exec_ended (d := .close e) rfl hd rfl rfl hu hout (State.integ_closeEntry_any _ _ e)

theorem State.recordState_of_onLine {s : State} {e : EntryIdx} {w : Way} {r : Record}
    (h : s.onLine (s.lineOfEntry e) w r) : s.recordState e = some r.state := by
  obtain ⟨hw, hr, -⟩ := h
  unfold State.recordAt at hr
  unfold State.recordState
  rw [hw]
  dsimp only
  rw [hr]
  rfl

theorem State.checked_fencedSet (s : State) (k : SetIdx) (f : List CellFault) :
    (s.checked k f).fencedSet = s.fencedSet := by
  unfold State.fencedSet
  rw [funext fun p => s.checked_port k f p]

/-! ### The bound fields and reservations of a freed entry (R60) -/

/-- A set with the fields that name entry `e` ended. -/
theorem DirSet.slot_unnamed (d : DirSet) (e : EntryIdx) (v : Way) :
    (((d.dropReservation e).dropBound e).slot v).bound ≠ some e
      ∧ (((d.dropReservation e).dropBound e).slot v).reservation ≠ some e := by
  refine ⟨?_, ?_⟩
  · rw [DirSet.slot_dropBound]
    split
    · exact nofun
    · next h => exact h
  · rw [DirSet.reservation_dropBound, DirSet.reservation_dropReservation]
    split
    · exact nofun
    · next h => exact h

theorem State.dir_releaseEntry (s : State) (k : SetIdx) (e : EntryIdx) :
    (s.releaseEntry k e).dir = (s.updSet k fun d => d.dropBound e).dir :=
  congrArg Prod.fst (State.offSnapshots_leaveSnapshots _ e)

theorem State.dir_closing (s : State) (k : SetIdx) (e : EntryIdx) :
    (s.closing k e).dir = ((s.closeFilter k e).updSet k fun d => d.dropReservation e).dir :=
  congrArg Prod.fst (State.offSnapshots_reportClose _ e)

theorem State.wf_closeFilter {s : State} (h : s.dir.wf = true) (k : SetIdx) (e : EntryIdx) :
    (s.closeFilter k e).dir.wf = true := by
  unfold State.closeFilter
  split
  · split
    · exact (Frees.filterRecord s k _ _ _).wf h
    · exact h
  · exact h

theorem State.dirSet_closeEntry {s : State} {e : EntryIdx} (h : s.dir.wf = true) (hw : (s.entry e).waiters = [])
    (k : SetIdx) :
    (s.closeEntry k e).dirSet k = (((s.closeFilter k e).dirSet k).dropReservation e).dropBound e := by
  have hf := State.wf_closeFilter h k e
  have hc : (s.closing k e).dirSet k = ((s.closeFilter k e).dirSet k).dropReservation e :=
    (State.dirSet_congr (s.dir_closing k e) k).trans (State.dirSet_updSet_same _ k _ hf)
  have hwf : (s.closing k e).dir.wf = true := by
    rw [s.dir_closing k e]
    exact State.wf_updSet _ k _ hf
  rw [State.closeEntry_eq,
    State.handOn_free (by rw [(Closing.closing s k e).of Entry.waiters fun _ => rfl]; exact hw),
    State.dirSet_congr (State.dir_releaseEntry _ k e), State.dirSet_updSet_same _ k _ hwf, hc]

/-- Settles O26: the close table on the record, the fields that named the entry, and the freed entry, to the end of the
event. -/
theorem closeFiltersFencedHolders : Obligations.CloseFiltersFencedHolders := by
  intro s f e w r hd hl hu hon hbound hnot hwait
  dsimp only
  have hentry (i : EntryIdx) := s.checked_entry (setOf (s.lineOfEntry e)) f i
  have hline := s.checked_lineOfEntry (setOf (s.lineOfEntry e)) f e
  have hfenced := s.checked_fencedSet (setOf (s.lineOfEntry e)) f
  have htxn := s.checked_txn (setOf (s.lineOfEntry e)) f e
  have hwf := (State.checked_lawful hl (setOf (s.lineOfEntry e)) f).1
  have hstate : (s.checked (setOf (s.lineOfEntry e)) f).recordState e = some r.state :=
    State.recordState_of_onLine (by rw [hline]; exact hon)
  obtain ⟨late, starts, ht⟩ := State.exec_close hd hu fun ⟨hkind, hgrant, hdam⟩ =>
    hnot ⟨hkind, hgrant, Option.some.inj (hstate.symm.trans hdam)⟩
  generalize s.checked (setOf (s.lineOfEntry e)) f = c at *
  have con := Concludes.finish (c.closeEntry (setOf (s.lineOfEntry e)) e) late starts
  have hfind : (c.dirSet (setOf (s.lineOfEntry e))).findTag (tagOf (c.lineOfEntry e)) = some w := by
    rw [hline]
    exact hon.1
  have hclosed := State.recordAt_closeEntry hwf hfind hon.2.1
  have hslots := State.dirSet_closeEntry hwf ((congrArg Entry.waiters (hentry e)).trans hwait) (setOf (s.lineOfEntry e))
  have hleaves : Leaves e c _ := Leaves.concludes (by rw [hline]; exact hbound) con
  refine ⟨_, ht, ?_, fun v hv => ?_, fun v => ?_, fun a hs ho ha => con.reports _ ?_, ?_, fun i hi => ?_⟩
  · rw [State.recordAt_congr con.dir, hclosed, if_pos rfl, hfenced]
  · rw [State.recordAt_congr con.dir, hclosed, if_neg hv]
  · rw [State.dirSet_congr con.dir, hslots]
    exact DirSet.slot_unnamed _ e v
  · rw [← htxn]
    exact State.closeEntry_poisons hfind hon.2.1 hs ho (hfenced ▸ ha)
  · rw [hleaves.freed ((congrArg Entry.waiters (hentry e)).trans hwait), hentry]
  · rw [hleaves.other i hi, hentry]

end Sys2Proof.Machine
end

section
/-! PROOF. O27: the close hands its entry on, and the entry leaves the fence snapshots (R53, R57, R60, R62, R63, R116,
R119). -/

namespace Sys2Proof.Machine

/-- A request that gets the entry begins without a DONE timer. -/
theorem Awaits.doneTimer {s c : State} {e : EntryIdx} {l rest : List PoolIdx} (h : Awaits s c e l) (k : SetIdx)
    {i : PoolIdx} {q : Request} (hl : l = i :: rest) (hi : s.waiter i = some (.request q))
    (hn : q.kind.needsGrant = true) : ((c.handOn k e).entry e).doneTimer = none := by
  have hci : c.waiter i = some (.request q) := (h.waiter i _ hi).resolve_right fun ⟨_, hq⟩ => by
    have hnot := ReqKind.needsGrant_of_isNotice hq
    rw [hn] at hnot
    cases hnot
  rw [State.handOn_request (h.waiters.trans hl) hci hn, State.entry_handTo]
  rfl

/-- The hand-on step of a close finds the entry's waiters as they were. -/
theorem Closing.awaits {e : EntryIdx} {s c v : State} (hp : c.pool = s.pool) (hi : c.intake = s.intake)
    (hentry : c.entry e = s.entry e) (h : Closing e c v) : Awaits s v e (s.entry e).waiters := by
  have hpool : v.pool = s.pool ∧ v.intake = s.intake := by
    obtain ⟨dir, tt, more, ru, leave, ports, purge, hv⟩ := h.changes
    rw [hv]
    exact ⟨hp, hi⟩
  obtain ⟨hpool, hintake⟩ := hpool
  refine ⟨?_, ?_, ?_, hintake, fun j y hy => .inl ?_⟩
  · rw [h.of Entry.gen fun _ => rfl, hentry]
  · rw [h.of Entry.line fun _ => rfl, hentry]
  · rw [h.of Entry.waiters fun _ => rfl, hentry]
  · exact (congrArg (fun x => Vector.get x j) hpool).trans hy

/-- What the close leaves of the fence snapshots and the purge set, at the end of its event. -/
structure LeavesFences (e : EntryIdx) (s t : State) : Prop where
  snapshot : ∀ p, (t.port p).snapshot = without (s.port p).snapshot e
  pos : t.purge.pos = s.purge.pos
  starts : ∀ p, t.purge.starts.get p =
    if (s.port p).state = .fenced ∧ has (s.port p).snapshot e = true ∧ without (s.port p).snapshot e = 0
    then some s.purge.pos else s.purge.starts.get p

theorem Closing.leavesFences {e : EntryIdx} {c v t : State} (h : Closing e c v) {k : SetIdx}
    {late : List Report} {starts : List StartItem} (g : Finishes ((v.handOn k e).ended late starts) t) :
    LeavesFences e c t := by
  obtain ⟨hports, hpurge⟩ := State.ports_handOn h.snapshot_not k
  have hpurge : t.purge = v.purge := g.purge.trans hpurge
  refine ⟨fun p => ?_, ?_, fun p => ?_⟩
  · have hport : (v.handOn k e).port p = v.port p := congrArg (fun x => Vector.get x p) hports
    exact (g.ports p).snapshot.trans ((congrArg Port.snapshot hport).trans (h.snapshot p))
  · rw [hpurge, h.pos]
  · rw [hpurge]
    split
    · next hem => exact h.joins p hem
    · next hem => exact h.stays p hem

/-- Settles O27: the snapshots, the purge set and the pause flag after the close, and the hand-on step in each of its
cases. -/
theorem closeHandsOn : Obligations.CloseHandsOn := by
  intro s f e hd hu hbound hnot
  have hentry (i : EntryIdx) := s.checked_entry (setOf (s.lineOfEntry e)) f i
  have hline := s.checked_lineOfEntry (setOf (s.lineOfEntry e)) f e
  have hport (p : Agent) := s.checked_port (setOf (s.lineOfEntry e)) f p
  have same := SameOutside.checked s (setOf (s.lineOfEntry e)) f
  obtain ⟨late, starts, ht⟩ := State.exec_close hd hu hnot
  generalize s.checked (setOf (s.lineOfEntry e)) f = c at *
  have hv := Closing.closing c (setOf (s.lineOfEntry e)) e
  have con := Concludes.finish (c.closeEntry (setOf (s.lineOfEntry e)) e) late starts
  have g := Finishes.finish ((c.closeEntry (setOf (s.lineOfEntry e)) e).ended late starts)
  have hleaves : Leaves e c _ := Leaves.concludes (by rw [hline]; exact hbound) con
  have fences := hv.leavesFences g
  have haw : Awaits s _ e (s.entry e).waiters := hv.awaits same.pool same.intake (hentry e)
  obtain ⟨hfree, hrequest, hrecall, hone⟩ := haw.handOnStep con g.waiter
  have hcount : c.inUseCount = s.inUseCount := State.inUseCount_congr same.tt
  have hwaiters : (c.entry e).waiters = (s.entry e).waiters := congrArg Entry.waiters (hentry e)
  refine ⟨_, ht, fun i hi => ?_, fun p => ?_, ?_, fun p => ?_, fun hw => ⟨hfree hw, ?_⟩, fun hw => ?_,
    fun i rest q hw hi hn => ?_, fun i rest l hw hi => ?_, fun i rest x hw hi hx => ?_⟩
  · rw [hleaves.other i hi, hentry]
  · rw [fences.snapshot, hport]
  · rw [fences.pos, same.purge]
  · rw [fences.starts, hport, same.purge]
  · have hphase : (c.entry e).phase ≠ .free := by
      rw [hentry, State.phase_of_close hd]
      exact nofun
    rw [g.pause, ← same.pause, ← same.cfg, ← hcount]
    exact hv.pause_freed (hwaiters.trans hw) hphase _
  · have hne : ((c.closing (setOf (s.lineOfEntry e)) e).entry e).waiters ≠ [] := by
      rw [haw.waiters]
      exact hw
    have hpause : (c.closing (setOf (s.lineOfEntry e)) e).pause = c.pause := by
      obtain ⟨dir, tt, more, ru, leave, ports, purge, h⟩ := hv.changes
      rw [h]
    exact g.pause.trans ((State.pause_handOn hne _).trans (hpause.trans same.pause))
  · obtain ⟨hphase, hgen, hwho, hreq, hkind, hl, hgrant, hgone, -⟩ := hrequest i rest q hw hi hn
    have htimer := Entry.of_core Entry.doneTimer (fun _ => rfl) (con.entry e)
    exact ⟨hphase, hgen, hwho, hreq, hkind, hl, hgrant, htimer.trans (haw.doneTimer _ hw hi hn), hgone⟩
  · obtain ⟨hphase, hgen, hwho, hreq, hkind, -⟩ := hrecall i rest l hw hi
    exact ⟨hphase, hgen, hwho, hkind, hreq⟩
  · obtain ⟨hphase, hl, -⟩ := hone i rest x hw hi hx
    exact ⟨hphase, hl⟩

end Sys2Proof.Machine
end

section
/-! PROOF. O59: every event leaves a calm state (R72, R112, R124, R127): it ends as an event does, or it touches nothing
that calmness reads but ports that come up. -/

namespace Sys2Proof.Machine

/-! ### What calmness reads -/

/-- What calmness reads of an entry: its phase, its requester, the agents it waits for and its waiters. -/
def Entry.duty (x : Entry) : Phase × Party × AgentSet × List PoolIdx := (x.phase, x.requester, x.pendingSet, x.waiters)

/-- `t` has the intake queue, the wait pool, the leave walker and the duties of the entries of `s`, and no port in DRAIN
beside those of `s`. -/
structure Rests (s t : State) : Prop where
  intake : t.intake = s.intake
  pause : t.pause = s.pause
  pool : t.pool = s.pool
  leave : t.leave = s.leave
  duty : ∀ e, (t.entry e).duty = (s.entry e).duty
  drain : ∀ p, (t.port p).state = .leaving .drain → (s.port p).state = .leaving .drain

/-- Where nothing moves but probes and ports that do not begin to drain, nothing falls due for the intake queue or the leave
walker. -/
theorem CalmRun.rests {s t : State} (h : Rests s t) (g : CalmRun s) : CalmRun t := by
  have hduty (e : EntryIdx) := h.duty e
  simp only [Entry.duty, Prod.mk.injEq] at hduty
  refine ⟨by rw [h.intake, h.pause]; exact g.head, fun p hp => ?_, fun p ho hn hd => ?_⟩
  · have hdone := g.done p (h.leave ▸ hp)
    unfold State.leaveDoneReady at hdone ⊢
    rw [h.leave, h.intake, State.selectedWaiters_congr h.pool fun e => (hduty e).2.2.2]
    simp only [fun e => (hduty e).2.2.1]
    exact hdone
  · rw [h.leave] at ho hn
    rw [State.hasTransaction_congr (fun e => (hduty e).1) fun e => (hduty e).2.1]
    exact g.walk p ho hn (h.drain p hd)

theorem State.calm_of_rests {s t : State} (h : Rests s t) (hr : t.part = .run → s.part = .run) (hp : s.pumped → t.pumped)
    (hc : s.calm) : t.calm := fun ht =>
  have ⟨hpumped, _⟩ := hc (hr ht)
  have g := (State.calmRun hc (hr ht)).rests h
  ⟨hp hpumped, g.head, g.done, g.walk⟩

/-! ### Changes that no event settles -/

/-- Timers run down, and nothing else moves. -/
theorem State.calm_tick {s : State} (h : s.calm) : s.tick.calm := by
  unfold State.tick
  split
  · refine State.calm_of_rests (s := s) ⟨rfl, rfl, rfl, rfl, fun e => ?_, fun _ => id⟩ id id h
    show ((mapVec Entry.tick s.tt).get e).duty = (s.tt.get e).duty
    rw [get_mapVec]
    rfl
  · exact h
  · exact h

/-- A port may take any state but DRAIN, if it is then outside the domain or has no probe queued. -/
theorem State.calm_updPort {s : State} {p : Agent} {f : Port → Port} (hd : (f (s.port p)).state ≠ .leaving .drain)
    (hq : (f (s.port p)).state.member = true → (f (s.port p)).probeQueue = []) (h : s.calm) : (s.updPort p f).calm := by
  refine State.calm_of_rests (s := s) ⟨rfl, rfl, rfl, rfl, fun _ => rfl, fun a ha => ?_⟩ id (fun hp a hm hn => ?_) h
  · rw [State.port_updPort] at ha
    split at ha
    · exact absurd ha hd
    · exact ha
  · unfold State.member at hm
    unfold State.probeCredit
    rw [State.port_updPort] at hm hn ⊢
    split at hm
    · next ha =>
      rw [if_pos ha] at hn
      exact absurd (hq hm) hn
    · next ha =>
      rw [if_neg ha] at hn ⊢
      exact hp a hm hn

/-- What calmness does not read of a port may change. -/
theorem State.calm_updPort_kept {s : State} (p : Agent) {f : Port → Port}
    (hf : ∀ q, (f q).state = q.state ∧ (f q).probeQueue = q.probeQueue ∧ (f q).sends = q.sends) (h : s.calm) :
    (s.updPort p f).calm := by
  refine State.calm_congr (s := s) rfl rfl rfl rfl rfl rfl rfl (fun a => ?_) h
  rw [State.port_updPort]
  split
  · next ha => rw [ha]; exact hf _
  · exact ⟨rfl, rfl, rfl⟩

/-- A port that comes up has no probe queued (R106). -/
theorem State.calm_bringUp {s : State} (p : Agent) (h : s.calm) : (s.bringUp p).calm := by
  have up {u : State} (hu : u.calm) : (u.trainUp p).calm := by
    unfold State.trainUp
    split
    · exact State.calm_updPort (f := Port.raised) nofun (fun _ => rfl) hu
    · exact hu
  unfold State.bringUp
  dsimp only
  split
  · exact up (State.calm_updPort (f := fun q => { q with state := .training }) nofun nofun h)
  · exact h

theorem State.calm_eachPort {f : State → Agent → State} (hf : ∀ u p, u.calm → (f u p).calm) {s : State} (h : s.calm) :
    (s.eachPort f).calm := by
  unfold State.eachPort
  generalize allAgents = l
  induction l generalizing s with
  | nil => exact h
  | cons p l ih => exact ih (hf s p h)

theorem State.calm_of_part {s : State} (h : s.part ≠ .run) : s.calm := fun hr => absurd hr h

/-! ### Messages and WRITEs -/

theorem State.calm_arrive {s : State} (p : Agent) (take : State → State) (h : s.calm) : (s.arrive p take).calm := by
  unfold State.arrive
  split
  · split
    · exact State.calm_finish _
    · unfold State.discard
      split
      · exact State.calm_updPort_kept (s := s.clearOutputs) p (fun _ => ⟨rfl, rfl, rfl⟩) h
      · exact h
  · exact h

/-- An event under a condition that does not hold clears the outputs alone (log 2). -/
theorem State.calm_guarded {s : State} (u : State) {p : Prop} [Decidable p] (h : s.calm) :
    (if p then u.finish else s.clearOutputs).calm := by
  split
  · exact State.calm_finish u
  · exact h

/-- Of the settings calmness reads PROBE_CREDITS alone. -/
theorem State.calm_updCfg {s : State} (f : Settings → Settings) (hf : (f s.cfg).probeCredits = s.cfg.probeCredits)
    (h : s.calm) : (s.updCfg f).calm :=
  State.calm_congr (s := s) rfl rfl rfl rfl rfl rfl hf (fun _ => ⟨rfl, rfl, rfl⟩) h

theorem State.calm_writeSetting {s : State} (v : Word) (lo hi : Nat) (f : Nat → Settings → Settings)
    (hf : ∀ x, (f x s.cfg).probeCredits = s.cfg.probeCredits) (h : s.calm) : (s.writeSetting v lo hi f).ends State.calm := by
  unfold State.writeSetting
  split
  · exact State.calm_updCfg _ (hf _) h
  · trivial

theorem State.calm_applyWindow {s : State} (h : s.calm) : s.applyWindow.ends State.calm := by
  unfold State.applyWindow
  dsimp only
  split
  · trivial
  · split
    · trivial
    · exact State.calm_updCfg _ rfl h

theorem State.calm_writeReqCredits {s : State} (p : Agent) (v : Word) (h : s.calm) :
    (s.writeReqCredits p v).ends State.calm := by
  unfold State.writeReqCredits
  dsimp only
  split
  · trivial
  · split
    · split
      · exact State.calm_updPort_kept p (fun _ => ⟨rfl, rfl, rfl⟩) h
      · trivial
    · trivial

/-- A WRITE of an admission mark ends as an event does (R64). -/
theorem State.calm_writeAdmit (s : State) (m : AdmitMark) (v : Word) : (s.writeAdmit m v).ends State.calm := by
  unfold State.writeAdmit
  dsimp only
  split
  · trivial
  · cases m with
    | high | low =>
      dsimp only
      split
      · exact State.calm_finish _
      · trivial

/-- A WRITE of any register: a block that reads it settles in the same event, and no other register is one that calmness
reads. -/
theorem State.calm_write {s : State} (r : Reg) (v : Word) (h : s.calm) : (s.write r v).ends State.calm := by
  have setting (lo hi : Nat) (f : Nat → Settings → Settings) (hf : ∀ x, (f x s.cfg).probeCredits = s.cfg.probeCredits) :=
    State.calm_writeSetting v lo hi f hf h
  cases r with
  | pendBaseLow | pendBaseHigh | pendCountLow | pendCountHigh | protoFence => exact State.calm_updCfg _ rfl h
  | windowApply => exact State.calm_applyWindow h
  | reqCredits p => exact State.calm_writeReqCredits p v h
  | probeTmo => exact setting 1 1023 (fun x c => { c with probeTmo := x }) fun _ => rfl
  | probeRetries => exact setting 0 3 (fun x c => { c with probeRetries := x }) fun _ => rfl
  | doneTmo => exact setting 1 1023 (fun x c => { c with doneTmo := x }) fun _ => rfl
  | retireTh => exact setting 0 15 (fun x c => { c with retireTh := x }) fun _ => rfl
  | scrubInterval => exact setting 1 1023 (fun x c => { c with scrubInterval := x }) fun _ => rfl
  | scrubStarve => exact setting 1 255 (fun x c => { c with scrubStarve := x }) fun _ => rfl
  | enables => exact State.calm_finish _
  | admission m => exact State.calm_writeAdmit s m v
  | probeCredits =>
    show WriteOutcome.ends _ (if 1 ≤ settingField v ∧ settingField v ≤ 16 then _ else _)
    split
    · exact State.calm_finish _
    · trivial
  | recallBudget =>
    show WriteOutcome.ends _ (if 1 ≤ settingField v ∧ settingField v ≤ 8 then _ else _)
    split
    · exact State.calm_finish _
    · trivial
  | command =>
    show WriteOutcome.ends _ (if s.svc.status = .busy then _ else _)
    split
    · trivial
    · exact State.calm_finish _
  | discards p =>
    show WriteOutcome.ends _ (if settingField v = 0 then _ else _)
    split
    · exact State.calm_updPort_kept p (fun _ => ⟨rfl, rfl, rfl⟩) h
    · trivial
  | counter k =>
    show WriteOutcome.ends _ (if v.toNat % 256 = 0 then _ else _)
    split
    · exact h
    · trivial
  | mask k => exact h
  | argA | argB => exact h
  | readOnly a => trivial

theorem State.calm_writeReg {s : State} (r : Reg) (v : Word) (h : s.calm) : (s.writeReg r v).calm := by
  unfold State.writeReg
  split
  · have hw := State.calm_write (s := s.clearOutputs) r v h
    generalize s.clearOutputs.write r v = w at hw
    cases w with
    | refused why => exact h
    | quiet t => exact hw
    | live t => exact hw
  · exact h

theorem State.calm_writeAddr {s : State} (a : Addr) (v : Word) (h : s.calm) : (s.writeAddr a v).calm := by
  unfold State.writeAddr
  split
  · exact h
  · exact State.calm_writeReg _ v h

/-! ### Every command, every step -/

theorem State.calm_access {d : Due} {f : List CellFault} {c : Instr} (hd : d.command f = some c) {s t : State}
    (h : s.calm) (ht : exec c s = .next t) : t.calm := by
  rcases exec_access hd s with ⟨d', -, -, he⟩ | ⟨-, he⟩ <;> cases he.symm.trans ht
  · exact State.calm_finish _
  · exact h

/-- Every command leaves a calm state calm: an access and an event of the links, the messages and the timers ends as an
event does, a reset leaves RUN, and what is left of a WRITE or of a port coming up calmness does not read. -/
theorem State.calm_exec {c : Instr} {s t : State} (h : s.calm) (ht : exec c s = .next t) : t.calm := by
  have access {d : Due} {f : List CellFault} (hd : d.command f = some c) : t.calm := State.calm_access hd h ht
  have write (r : Reg) (v : Word) := State.calm_writeReg r v h
  cases c with
  | pwrokRise =>
    cases ht
    split
    · exact h
    · exact State.calm_of_part nofun
  | pwrokFall =>
    cases ht
    split
    · exact State.calm_of_part nofun
    · exact h
  | resetNFall =>
    cases ht
    split
    · exact State.calm_of_part nofun
    · exact h
  | resetNRise =>
    cases ht
    split
    · exact State.calm_eachPort (fun u p => State.calm_bringUp p) h
    · exact h
  | clearingWalkStep =>
    cases ht
    split
    · exact State.calm_finish _
    · exact h
  | linkDetected p | linkLoss p | doneTimeout e | scrubIntervalExpiry => cases ht; exact State.calm_guarded _ h
  | rdShared p tag line | rdOwn p tag line fullWrite | upgrade p tag line | writeback p tag line | drop p tag line
  | leave p tag line | badKind p channel code | done p n | ansClean p n line | ansWritten p n line | ansGone p n line =>
    cases ht
    exact State.calm_arrive p _ h
  | probeTimerExpiry e a =>
    cases ht
    split
    · exact State.calm_guarded _ h
    · exact h
  | intakeLookup f => exact access (d := .intake ⟨0, .drop, 0, 0, false⟩) rfl
  | resolutionAccess f => exact access (d := .resolution 0) rfl
  | parkedResolution f => exact access (d := .parked 0) rfl
  | closeAccess f => exact access (d := .close 0) rfl
  | lookupAfterHandOn f => exact access (d := .handedOn 0) rfl
  | releasingAccess f => exact access (d := .releasing 0) rfl
  | recallStart f => exact access (d := .recallStart 0) rfl
  | recallResolution f => exact access (d := .recallResolution 0) rfl
  | retireStart f => exact access (d := .retireStart 0 0) rfl
  | retireResolution f => exact access (d := .retireResolution 0) rfl
  | repairStart f => exact access (d := .repairStart 0 0) rfl
  | repairResolution f => exact access (d := .repairResolution 0) rfl
  | purgeStep f => exact access (d := .purge) rfl
  | leaveStep f => exact access (d := .leave 0) rfl
  | retractResolution f => exact access (d := .retractResolution 0) rfl
  | scrubAccess f => exact access (d := .scrub) rfl
  | inspectAccess f => exact access (d := .service 1) rfl
  | lookupAccess f => exact access (d := .service 2) rfl
  | recallLineStart f => exact access (d := .service 3) rfl
  | serviceResolution f => exact access (d := .serviceResolution 0) rfl
  | clearPoisonAccess f => exact access (d := .service 4) rfl
  | clearSetAccess f => exact access (d := .service 7) rfl
  | inspect | lookup | recallLine | clearPoison | fence | unfence | clearSet | scrubStart | scrubStop | clearErrors
  | windowApply v | reqCreditsWrite p v | portEnableWrite v | probeCreditsWrite v | admitWrite m v | recallBudgetWrite v
  | maskRoutingWrite k v | counterWrite k v | discardCounterWrite p v => cases ht; exact write _ _
  | registerWrite a v => cases ht; exact State.calm_writeAddr a v h
  | invalidOpcodeFrame =>
    cases ht
    split <;> exact h
  | frameCutShort => cases ht; exact h

/-- Settles O59: a command, an event on the pins, or 1 µs, each keeps a calm state calm. -/
theorem stepKeepsCalm : Obligations.StepKeepsCalm := by
  intro s t h ht
  rcases step_cases s with ⟨c, rest, -, he⟩ | ⟨p, rest, -, -, he⟩ | ⟨-, -, he⟩
  · exact State.calm_exec (s := { s with pending := rest }) h (he.symm.trans ht)
  · have hq : ({ s with spi := { s.spi with pins := rest } } : State).calm := h
    rcases pinStep_cases { s with spi := { s.spi with pins := rest } } p with ⟨x, hx⟩ | ⟨c, hx⟩
    · cases (he.trans hx).symm.trans ht
      exact h
    · exact State.calm_exec hq (hx.symm.trans (he.symm.trans ht))
  · cases he.symm.trans ht
    exact State.calm_tick h

end Sys2Proof.Machine
end

section
/-! PROOF. What the end of an event keeps of the probes and the sends, in any state: a probe keeps its retries and its time,
a port's outstanding sends stay in front of those that join (R71, R72). -/

namespace Sys2Proof.Machine

/-! ### Probes keep their retries and timers -/

/-- A probe but for its status: the retries used and the time left (R70, R77). -/
def Probe.clock (b : Probe) : Nat × Nat := (b.retries, b.timer)

/-- The clock of an entry's probe to agent `a`, if there is one. -/
def Entry.clock (x : Entry) (a : Agent) : Option (Nat × Nat) := (x.probes.get a).map Probe.clock

theorem State.clock_of_tt {s t : State} (h : t.tt = s.tt) (i : EntryIdx) (a : Agent) :
    (t.entry i).clock a = (s.entry i).clock a := by
  unfold State.entry
  rw [h]

/-- A send changes the status of its probe alone. -/
theorem State.clock_sendProbe (s : State) (p : Agent) (e i : EntryIdx) (a : Agent) :
    ((s.sendProbe p e).entry i).clock a = (s.entry i).clock a := by
  unfold State.sendProbe
  dsimp only
  rw [State.entry_updPort, State.entry_updEntry, State.entry_send, State.entry_send]
  split
  · next hi =>
    rw [hi]
    split
    · next b hb =>
      unfold Entry.clock
      by_cases ha : a = p
      · rw [ha, Vector.get_set_self, hb]
        rfl
      · rw [Vector.get_set_other _ _ ha]
    · rfl
  · rfl

theorem State.clock_pumpQueue (p : Agent) (l : List EntryIdx) (s : State) (i : EntryIdx) (a : Agent) :
    ((State.pumpQueue p l s).entry i).clock a = (s.entry i).clock a := by
  induction l generalizing s with
  | nil => rfl
  | cons e l ih =>
    unfold State.pumpQueue
    split
    · exact (ih _).trans (s.clock_sendProbe p e i a)
    · rfl

theorem State.clock_pump (s : State) (i : EntryIdx) (a : Agent) : (s.pump.entry i).clock a = (s.entry i).clock a := by
  unfold State.pump
  generalize allAgents = l
  induction l generalizing s with
  | nil => rfl
  | cons p l ih =>
    refine (ih _).trans ?_
    unfold State.pumpPort
    split
    · exact State.clock_pumpQueue p _ s i a
    · rfl

theorem State.clock_beforeListing (s : State) (i : EntryIdx) (a : Agent) :
    (s.beforeListing.entry i).clock a = (s.entry i).clock a := by
  refine (State.clock_pump _ i a).trans ?_
  rw [State.clock_of_tt (State.tt_enterWalk _), State.clock_of_tt (State.tt_sendLeaveDone _)]
  exact congrArg (Option.map Probe.clock) ((Spares.takeLeaves (a := a) s.intake.length s).probe i)

/-- The end of an event neither ends a probe nor touches its clock. -/
theorem State.clock_finish {s : State} (hr : s.part = .run) (i : EntryIdx) (a : Agent) :
    (s.finish.entry i).clock a = (s.entry i).clock a := by
  have hprobe := (Spares.takeReports (a := a) s.settle).2.1 i
  refine (congrArg (Option.map Probe.clock) hprobe).trans ?_
  have hbefore := s.clock_beforeListing i a
  rw [State.settle_run hr]
  generalize s.beforeListing = u at hbefore ⊢
  exact hbefore

/-! ### Outstanding sends stay -/

/-- Port `p` has the outstanding sends it had, and perhaps more behind them. -/
def SendsMore (p : Agent) (s t : State) : Prop := ∃ more, (t.port p).sends = (s.port p).sends ++ more

section SendsMore

variable {p : Agent}

theorem SendsMore.of_eq {s t : State} (h : (t.port p).sends = (s.port p).sends) : SendsMore p s t :=
  ⟨[], by rw [h, List.append_nil]⟩

theorem SendsMore.trans {s t u : State} : SendsMore p s t → SendsMore p t u → SendsMore p s u
  | ⟨l, hl⟩, ⟨k, hk⟩ => ⟨l ++ k, by rw [hk, hl, List.append_assoc]⟩

theorem SendsMore.of_probing {s t : State} (h : (t.port p).probing = (s.port p).probing) : SendsMore p s t := by
  simp only [Port.probing, Prod.mk.injEq] at h
  exact .of_eq h.2.2

theorem SendsMore.sendProbe (s : State) (q : Agent) (e : EntryIdx) : SendsMore p s (s.sendProbe q e) := by
  by_cases h : p = q
  · subst h
    exact ⟨_, congrArg Port.sends (s.port_sendProbe p e)⟩
  · exact .of_eq (congrArg Port.sends (s.port_sendProbe_ne e h))

theorem SendsMore.setQueue (s : State) (q : Agent) (l : List EntryIdx) :
    SendsMore p s (s.updPort q fun x => { x with probeQueue := l }) := by
  refine .of_eq ?_
  rw [State.port_updPort]
  split
  · next h => rw [h]
  · rfl

theorem SendsMore.pumpQueue (q : Agent) (l : List EntryIdx) (s : State) : SendsMore p s (State.pumpQueue q l s) := by
  induction l generalizing s with
  | nil => exact .setQueue s q []
  | cons e l ih =>
    unfold State.pumpQueue
    split
    · exact (SendsMore.sendProbe s q e).trans (ih _)
    · exact .setQueue s q (e :: l)

theorem SendsMore.pump (s : State) : SendsMore p s s.pump := by
  unfold State.pump
  generalize allAgents = l
  induction l generalizing s with
  | nil => exact .of_eq rfl
  | cons q l ih =>
    refine .trans ?_ (ih _)
    unfold State.pumpPort
    split
    · exact .pumpQueue q _ s
    · exact .of_eq rfl

/-- A port that does not leave keeps its sends. -/
theorem State.port_sendLeaveDone {s : State} (h : s.leave.port = some p → s.leaveDoneReady p = false) :
    s.sendLeaveDone.port p = s.port p := by
  unfold State.sendLeaveDone
  split
  · next q hq =>
    split
    · next hready =>
      have hne : p ≠ q := fun hp => by
        rw [← hp] at hq hready
        rw [h hq] at hready
        cases hready
      unfold State.portLeft
      rw [State.port_updLeave, State.port_updPort_ne _ _ hne, State.port_send]
    · rfl
  · rfl

/-- So does the end of an event at a port that does not leave in it. -/
theorem SendsMore.finish {s : State} (hr : s.part = .run)
    (hhead : ∀ r : Request, s.intake.head? = some r → r.kind = .leave → s.pause = true)
    (hdone : s.leave.port = some p → s.leaveDoneReady p = false) : SendsMore p s s.finish := by
  have hbefore : SendsMore p s s.beforeListing := by
    unfold State.beforeListing
    rw [State.takeLeaves_calm s hhead]
    exact ((SendsMore.of_eq (congrArg Port.sends (State.port_sendLeaveDone hdone))).trans
      (.of_probing (State.probing_enterWalk _ p))).trans (.pump _)
  have hsettle : SendsMore p s s.settle := by
    rw [State.settle_run hr]
    generalize s.beforeListing = u at hbefore ⊢
    exact hbefore
  exact hsettle.trans (.of_probing (Spares.takeReports s.settle).1)

end SendsMore

end Sys2Proof.Machine
end

section
/-! PROOF. O13: an answer that its round waits for is recorded, any other is a stray one (R73, R74, R76, R86). -/

namespace Sys2Proof.Machine

/-! ### What an answer comes to -/

/-- The command `c` brings the answer `ans` of agent `p` to number `n` on line `l`, as a message of kind `m`. -/
def Brings (c : Instr) (p : Agent) (n : Txn) (l : Line) (m : MsgCode) (ans : Answer) : Prop :=
  ∀ s, exec c s = .next (s.arrive p fun u => u.takeAnswer p n l m ans)

section Answer

variable {s : State} {p : Agent} {n : Txn} {l : Line} {m : MsgCode} {ans : Answer}

theorem Brings.exec {c : Instr} (h : Brings c p n l m ans) (hp : s.pwrok = true) (hm : s.member p = true) :
    exec c s = .next (s.clearOutputs.takeAnswer p n l m ans).finish :=
  (h s).trans (congrArg _ (State.arrive_member hp hm _))

theorem State.answerMatches_iff : s.answerMatches p n l = true ↔
    (s.entry (txnIndex n)).phase = .probing ∧ (s.entry (txnIndex n)).gen = txnGen n
      ∧ has (s.entry (txnIndex n)).pendingSet p = true ∧ (s.entry (txnIndex n)).line = some l := by
  unfold State.answerMatches
  simp only [Bool.and_eq_true, decide_eq_true_iff, and_assoc]

/-- The state once the oldest send of an answer's number is off the list, and its credit returned (R73). -/
def State.ackSend (s : State) (p : Agent) (rest : List Send) : State := s.updPort p fun q => { q with sends := rest }

theorem State.takeAnswer_recorded {x : Send} {rest : List Send} (hr : s.part = .run)
    (ht : takeSend n (s.port p).sends = some (x, rest)) (hx : x.earlier = false) (hm : s.answerMatches p n l = true) :
    s.takeAnswer p n l m ans = (s.ackSend p rest).endProbe (txnIndex n) p ans := by
  have hmatch : (!x.earlier && (s.ackSend p rest).answerMatches p n l) = true := by
    rw [hx]
    exact hm
  unfold State.takeAnswer
  rw [if_neg (by rw [hr]; decide), ht]
  exact if_pos hmatch

theorem State.takeAnswer_stray {x : Send} {rest : List Send} (hr : s.part = .run)
    (ht : takeSend n (s.port p).sends = some (x, rest)) (hx : x.earlier = true ∨ ¬ s.answerMatches p n l = true) :
    s.takeAnswer p n l m ans = (s.ackSend p rest).report (strayReport p n l m) := by
  have hstray : ¬ (!x.earlier && (s.ackSend p rest).answerMatches p n l) = true := by
    rw [Bool.and_eq_true, Bool.not_eq_true']
    rintro ⟨he, hmatch⟩
    exact hx.elim (fun h => Bool.false_ne_true (he.symm.trans h)) fun h => h hmatch
  unfold State.takeAnswer
  rw [if_neg (by rw [hr]; decide), ht]
  exact if_neg hstray

theorem State.takeAnswer_unsent (hr : s.part = .run) (ht : takeSend n (s.port p).sends = none) :
    s.takeAnswer p n l m ans = s.report (strayReport p n l m) := by
  unfold State.takeAnswer
  rw [if_neg (by rw [hr]; decide), ht]

theorem State.takeAnswer_halted (hr : s.part = .halted) : s.takeAnswer p n l m ans = s := if_pos hr

end Answer

/-- A recorded answer ends its probe (R74, R80). -/
theorem State.entry_endProbe (s : State) (e : EntryIdx) (a : Agent) (ans : Answer) (i : EntryIdx) :
    (s.endProbe e a ans).entry i = if i = e then { s.entry e with
      probes := (s.entry e).probes.set a.val none
      pendingSet := without (s.entry e).pendingSet a
      answers := (s.entry e).answers.set a.val (some ans) } else s.entry i := by
  unfold State.endProbe
  rw [State.entry_updPort, State.entry_updEntry]

theorem State.sends_endProbe (s : State) (e : EntryIdx) (a : Agent) (ans : Answer) (p : Agent) :
    ((s.endProbe e a ans).port p).sends = (s.port p).sends := by
  unfold State.endProbe
  rw [State.port_updPort]
  split
  · next h => rw [h]; rfl
  · rfl

theorem State.port_ackSend (s : State) (p : Agent) (rest : List Send) :
    (s.ackSend p rest).port p = { s.port p with sends := rest } := State.port_updPort_same s p _

/-- A returned probe credit lets nothing fall due but sends. -/
theorem Rests.ackSend (s : State) (p : Agent) (rest : List Send) : Rests s (s.ackSend p rest) := by
  refine ⟨rfl, rfl, rfl, rfl, fun _ => rfl, fun a ha => ?_⟩
  unfold State.ackSend at ha
  rw [State.port_updPort] at ha
  split at ha
  · next h => rw [h]; exact ha
  · exact ha

theorem CalmRun.clearOutputs {s : State} (h : CalmRun s) : CalmRun s.clearOutputs := ⟨h.head, h.done, h.walk⟩

theorem CalmRun.report {s : State} (h : CalmRun s) (r : Report) : CalmRun (s.report r) := ⟨h.head, h.done, h.walk⟩

/-! ### The three ways an answer is taken -/

/-- The event of a recorded answer. -/
theorem State.finish_recorded {s : State} {p : Agent} (hr : s.part = .run) (hb : s.reports = []) (e : EntryIdx)
    (rest : List Send) (ans : Answer) {t : State} (ht : t = ((s.ackSend p rest).endProbe e p ans).finish) :
    t.reports = [] ∧ t.part = .run
      ∧ (t.entry e).core = { (s.entry e).core with
          answers := (s.entry e).answers.set p.val (some ans), pendingSet := without (s.entry e).pendingSet p }
      ∧ (t.entry e).probes.get p = none ∧ (∀ i, i ≠ e → (t.entry i).core = (s.entry i).core)
      ∧ (CalmRun s → s.leave.port ≠ some p → ∃ more, (t.port p).sends = rest ++ more) ∧ t.dir = s.dir ∧ t.cfg = s.cfg := by
  subst ht
  have hentry := (s.ackSend p rest).entry_endProbe e p ans
  have hsends : (((s.ackSend p rest).endProbe e p ans).port p).sends = rest := by
    rw [State.sends_endProbe, State.port_ackSend]
  have hrun : ((s.ackSend p rest).endProbe e p ans).part = .run := hr
  have hclock := State.clock_finish hrun e p
  have g := Finishes.finish ((s.ackSend p rest).endProbe e p ans)
  obtain ⟨hpart, -⟩ := g.calm (State.haltingKind_silent hb)
  refine ⟨g.reports.trans hb, hpart.trans hr, ?_, ?_, fun i hi => ?_, fun hc hl => ?_, g.dir, g.cfg⟩
  · rw [g.entry, hentry, if_pos rfl]
    rfl
  · have hgone : (((s.ackSend p rest).endProbe e p ans).entry e).clock p = none := by
      unfold Entry.clock
      rw [hentry, if_pos rfl, Vector.get_set_self]
      rfl
    exact Option.map_eq_none_iff.1 (hclock.trans hgone)
  · rw [g.entry, hentry, if_neg hi]
    rfl
  · obtain ⟨more, hmore⟩ := SendsMore.finish (p := p) hrun hc.head fun h => absurd h hl
    exact ⟨more, by rw [hmore, hsends]⟩

/-- The event of a stray answer whose number has a send outstanding. -/
theorem State.finish_strayed {s : State} {p : Agent} (hr : s.part = .run) (hc : CalmRun s) (rest : List Send) (r : Report)
    {t : State} (ht : t = ((s.ackSend p rest).report r).finish) :
    (∀ i, (t.entry i).still = (s.entry i).still) ∧ t.dir = s.dir ∧ t.cfg = s.cfg ∧ t.reports = s.reports ++ [r]
      ∧ ∃ more, (t.port p).sends = rest ++ more := by
  subst ht
  have hcalm := (hc.rests (Rests.ackSend s p rest)).report r
  have hrun : ((s.ackSend p rest).report r).part = .run := hr
  have g := hcalm.finish
  obtain ⟨more, hmore⟩ := SendsMore.finish hrun hcalm.head (hcalm.done p)
  refine ⟨g.entry, g.ends.dir, g.ends.cfg, g.ends.reports, more, hmore.trans ?_⟩
  rw [State.port_report, State.port_ackSend]

/-- Settles O13: the oldest send of the number and R74 part the answers. -/
theorem answersMatchOrStray : Obligations.AnswersMatchOrStray := by
  refine ⟨fun s p n l c ans x rest hc hp hm hr ht hx hphase hgen hset hline => ?_,
    fun s p n l c m hc hp hm hr hcalm hstray => ?_, fun s p n l c hc hp hm hr => ?_⟩
  · obtain ⟨m, hbrings⟩ : ∃ m, Brings c p n l m ans := by
      rcases hc with ⟨rfl, rfl⟩ | ⟨rfl, rfl⟩ | ⟨rfl, rfl⟩ <;> exact ⟨_, fun _ => rfl⟩
    have htake := State.takeAnswer_recorded (s := s.clearOutputs) (m := m) (ans := ans) hr ht hx
      (State.answerMatches_iff.2 ⟨hphase, hgen, hset, hline⟩)
    obtain ⟨hreports, hpart, hself, hprobe, hother, hsends, hframe⟩ :=
      State.finish_recorded (s := s.clearOutputs) hr rfl (txnIndex n) rest ans (congrArg State.finish htake)
    exact ⟨_, hbrings.exec hp hm, hreports, hpart, hself, hprobe, hother,
      fun h => hsends (State.calmRun h hr).clearOutputs, hframe⟩
  · obtain ⟨ans, hbrings⟩ : ∃ ans, Brings c p n l m ans := by
      rcases hc with ⟨rfl, rfl⟩ | ⟨rfl, rfl⟩ | ⟨rfl, rfl⟩ <;> exact ⟨_, fun _ => rfl⟩
    refine ⟨_, hbrings.exec hp hm, ?_⟩
    cases ht : takeSend n (s.port p).sends with
    | none =>
      rw [State.takeAnswer_unsent (s := s.clearOutputs) hr ht]
      have g := OnlyOutputs.finish (u := s.clearOutputs.report (strayReport p n l m)) hcalm rfl
      exact ⟨fun e => by rw [g.entry], g.dir, g.cfg, g.reports, nofun, fun _ => by rw [g.port]⟩
    | some y =>
      obtain ⟨x, rest⟩ := y
      have htake := State.takeAnswer_stray (s := s.clearOutputs) (m := m) (ans := ans) hr ht
        ((hstray x rest ht).imp_right fun h hmatch => h (State.answerMatches_iff.1 hmatch))
      obtain ⟨hstill, hdir, hcfg, hreports, hsends⟩ :=
        State.finish_strayed (s := s.clearOutputs) hr (State.calmRun hcalm hr).clearOutputs rest _ (congrArg State.finish htake)
      refine ⟨hstill, hdir, hcfg, hreports, ?_, nofun⟩
      rintro _ _ ⟨⟩
      exact hsends
  · obtain ⟨m, ans, hbrings⟩ : ∃ m ans, Brings c p n l m ans := by
      rcases hc with rfl | rfl | rfl <;> exact ⟨_, _, fun _ => rfl⟩
    have hu := State.unreported_finish_halted (s := s.clearOutputs) hr
    simp only [State.unreported, Prod.mk.injEq] at hu
    obtain ⟨⟨-, -, -, hdir, hcfg, htt, hpool, -, hports⟩, -, -, -, -, hinteg, hbox, hreports, -⟩ := hu
    refine ⟨_, hbrings.exec hp hm, ?_⟩
    rw [State.takeAnswer_halted (s := s.clearOutputs) hr]
    exact ⟨htt, hpool, hports, hreports, hbox, hdir, hcfg, hinteg⟩

end Sys2Proof.Machine
end

section
/-! PROOF. O14: a probe timer that expires uses a retry, by the probe's status, or fences the port (R77 to R79, R114). -/

namespace Sys2Proof.Machine

/-! ### One probe written -/

/-- The state but for its ports, entries and messages. -/
def State.offProbes (s : State) : State := { s.offReplies with tt := Vector.replicate 32 (Entry.freeOf 0) }

/-- A reading of the state that ports, entries and messages do not touch. -/
theorem State.of_offProbes {α : Type} (f : State → α) (hf : ∀ z : State, f z.offProbes = f z) {s t : State}
    (h : t.offProbes = s.offProbes) : f t = f s := by rw [← hf t, h, hf s]

/-- `t` has the entries of `s`, but for the probe of entry `e` to agent `a`, which is `b`. -/
structure Reprobed (e : EntryIdx) (a : Agent) (b : Probe) (s t : State) : Prop where
  off : t.offProbes = s.offProbes
  still : ∀ i, (t.entry i).still = (s.entry i).still
  probe : (t.entry e).probes.get a = some b
  other : ∀ i c, (i, c) ≠ (e, a) → (t.entry i).probes.get c = (s.entry i).probes.get c

section Reprobed

variable {e : EntryIdx} {a : Agent} {b : Probe} {s t u : State}

/-- Ports and messages may change besides. -/
theorem Reprobed.beside (h : Reprobed e a b s t) (ho : u.offProbes = t.offProbes) (ht : u.tt = t.tt) :
    Reprobed e a b s u := by
  have he (i : EntryIdx) : u.entry i = t.entry i := by
    unfold State.entry
    rw [ht]
  exact ⟨ho.trans h.off, fun i => by rw [he]; exact h.still i, by rw [he]; exact h.probe,
    fun i c hc => by rw [he]; exact h.other i c hc⟩

theorem Reprobed.setProbe (s : State) (e : EntryIdx) (a : Agent) (b : Probe) : Reprobed e a b s (s.setProbe e a b) := by
  have hentry (i : EntryIdx) : (s.setProbe e a b).entry i = if i = e then
      { s.entry e with probes := (s.entry e).probes.set a.val (some b) } else s.entry i := State.entry_updEntry s e i _
  refine ⟨rfl, fun i => ?_, ?_, fun i c hc => ?_⟩
  · rw [hentry]
    split
    · next hi => rw [hi]; rfl
    · rfl
  · rw [hentry, if_pos rfl]
    exact Vector.get_set_self _ _ _
  · rw [hentry]
    split
    · next hi =>
      rw [hi]
      exact Vector.get_set_other _ _ fun hca => hc (by rw [hi, hca])
    · rfl

/-- A second write of the same probe stands. -/
theorem Reprobed.trans {b' : Probe} (h : Reprobed e a b s t) (g : Reprobed e a b' t u) : Reprobed e a b' s u :=
  ⟨g.off.trans h.off, fun i => (g.still i).trans (h.still i), g.probe,
    fun i c hc => (g.other i c hc).trans (h.other i c hc)⟩

/-- A send makes its probe SENT. -/
theorem Reprobed.sendProbe (hb : (s.entry e).probes.get a = some b) :
    Reprobed e a { b with status := .sent } s (s.sendProbe a e) := by
  have hsend : (s.send a (s.probeMsg e)).offProbes = s.offProbes ∧ (s.send a (s.probeMsg e)).tt = s.tt := by
    unfold State.send
    split <;> exact ⟨rfl, rfl⟩
  have hset : (s.sendProbe a e).tt = ((s.send a (s.probeMsg e)).setProbe e a { b with status := .sent }).tt := by
    unfold State.sendProbe State.setProbe State.updEntry
    dsimp only
    rw [State.entry_send, hb]
    rfl
  have h : Reprobed e a { b with status := .sent } s ((s.send a (s.probeMsg e)).setProbe e a { b with status := .sent }) := by
    have g := Reprobed.setProbe (s.send a (s.probeMsg e)) e a { b with status := .sent }
    exact ⟨g.off.trans hsend.1, fun i => by rw [g.still, State.entry_send], g.probe,
      fun i c hc => by rw [g.other i c hc, State.entry_send]⟩
  exact h.beside rfl hset

theorem Reprobed.txn (h : Reprobed e a b s t) (i : EntryIdx) : t.txn i = s.txn i :=
  congrArg (txnOf i) (Entry.of_still Entry.gen (fun _ => rfl) (h.still i))

theorem Reprobed.probeMsg (h : Reprobed e a b s t) (i : EntryIdx) : t.probeMsg i = s.probeMsg i := by
  unfold State.probeMsg State.lineOfEntry
  rw [h.txn, Entry.of_still Entry.line (fun _ => rfl) (h.still i),
    Entry.of_still Entry.probeKind (fun _ => rfl) (h.still i)]

end Reprobed

/-! ### The message at an expiry that uses a retry (R78) -/

/-- The probe with one retry more and its whole time. -/
def State.retried (s : State) (b : Probe) : Probe :=
  { b with retries := b.retries + 1, timer := Config.probeStep * s.cfg.probeTmo }

/-- The state once the timer of probe `b` has restarted and its message has its repeat. -/
def State.useRetry (s : State) (e : EntryIdx) (a : Agent) (b : Probe) : State :=
  (s.setProbe e a (s.retried b)).repeatProbe e a (s.retried b)

theorem State.probeExpires_retry {s : State} {b : Probe} (h : b.retries < s.cfg.probeRetries) (e : EntryIdx) (a : Agent) :
    s.probeExpires e a b = (s.useRetry e a b).report (s.retryReport e a (b.retries + 1)) := by
  unfold State.probeExpires
  rw [if_pos h]
  rfl

/-- The expired timer of entry `e`'s probe to agent `a` has left that probe `b`, its port the queue `q` and the sends `l`,
and sent `box`. What stands in the queue finds no free credit if nothing in the queue before did. -/
structure Retried (e : EntryIdx) (a : Agent) (b : Probe) (q : List EntryIdx) (l : List Send) (box : List Sent)
    (s t : State) : Prop where
  probes : Reprobed e a b s t
  port : t.port a = { s.port a with probeQueue := q, sends := l }
  other : ∀ p, p ≠ a → t.port p = s.port p
  outbox : t.outbox = s.outbox ++ box
  full : q = (s.port a).probeQueue ∨ s.probeCredit a = false
  grows : (s.port a).sends.length ≤ l.length

section Retried

variable {e : EntryIdx} {a : Agent} {b : Probe} {s : State}

/-- SENT, with a free probe credit: sent again. -/
theorem Retried.sends (hs : b.status = .sent) (hc : s.probeCredit a = true) (hm : s.member a = true) :
    Retried e a (s.retried b) (s.port a).probeQueue ((s.port a).sends ++ [⟨s.txn e, false⟩]) [⟨a, s.probeMsg e⟩] s
      (s.useRetry e a b) := by
  have hset := Reprobed.setProbe s e a (s.retried b)
  have hcredit : (s.setProbe e a (s.retried b)).probeCredit a = true := hc
  have heq : s.useRetry e a b = (s.setProbe e a (s.retried b)).sendProbe a e := by
    unfold State.useRetry State.repeatProbe
    rw [show (s.retried b).status = .sent from hs]
    exact if_pos hcredit
  have hstatus : ({ s.retried b with status := .sent } : Probe) = s.retried b := by
    unfold State.retried
    rw [hs]
  have hsent := hset.trans (Reprobed.sendProbe hset.probe)
  rw [hstatus] at hsent
  rw [heq]
  refine ⟨hsent, ?_, fun p hp => State.port_sendProbe_ne _ e hp, ?_, .inl rfl, ?_⟩
  · rw [State.port_sendProbe, hset.txn]
    rfl
  · show ((s.setProbe e a (s.retried b)).send a _).outbox = _
    rw [State.outbox_send, if_pos (show (s.setProbe e a (s.retried b)).member a = true from hm), hset.probeMsg]
    rfl
  · rw [List.length_append]
    exact Nat.le_add_right _ _

/-- SENT, with no free probe credit: its repeat joins the front of the queue. -/
theorem Retried.queues (hs : b.status = .sent) (hc : s.probeCredit a = false) :
    Retried e a { s.retried b with status := .resendQueued } (e :: (s.port a).probeQueue) (s.port a).sends [] s
      (s.useRetry e a b) := by
  have hcredit : ¬ (s.setProbe e a (s.retried b)).probeCredit a = true := fun h => Bool.false_ne_true (hc.symm.trans h)
  have heq : s.useRetry e a b = ((s.setProbe e a (s.retried b)).setProbe e a
      { s.retried b with status := .resendQueued }).updPort a fun q => { q with probeQueue := e :: q.probeQueue } := by
    unfold State.useRetry State.repeatProbe
    rw [show (s.retried b).status = .sent from hs]
    exact if_neg hcredit
  rw [heq]
  exact ⟨((Reprobed.setProbe s e a _).trans (Reprobed.setProbe _ e a _)).beside rfl rfl, State.port_updPort_same _ a _,
    fun p hp => State.port_updPort_ne _ _ hp, (List.append_nil _).symm, .inr hc, Nat.le_refl _⟩

/-- QUEUED or RESEND_QUEUED: its item stands in the queue. -/
theorem Retried.keeps (hs : b.status ≠ .sent) :
    Retried e a (s.retried b) (s.port a).probeQueue (s.port a).sends [] s (s.useRetry e a b) := by
  have heq : s.useRetry e a b = s.setProbe e a (s.retried b) := by
    unfold State.useRetry State.repeatProbe
    split
    · next h => exact absurd h hs
    · rfl
    · rfl
  rw [heq]
  exact ⟨.setProbe s e a _, rfl, fun _ _ => rfl, (List.append_nil _).symm, .inl rfl, Nat.le_refl _⟩

/-- Every expiry that uses a retry is one of the three. -/
theorem Retried.useRetry (hm : s.member a = true) : ∃ b' q l box, Retried e a b' q l box s (s.useRetry e a b)
    ∧ b'.clock = (s.retried b).clock
    ∧ (b.status = .sent → s.probeCredit a = true → b' = s.retried b ∧ q = (s.port a).probeQueue
      ∧ l = (s.port a).sends ++ [⟨s.txn e, false⟩] ∧ box = [⟨a, s.probeMsg e⟩])
    ∧ (b.status = .sent → s.probeCredit a = false → b' = { s.retried b with status := .resendQueued }
      ∧ q = e :: (s.port a).probeQueue ∧ l = (s.port a).sends ∧ box = [])
    ∧ (b.status ≠ .sent → b' = s.retried b ∧ q = (s.port a).probeQueue ∧ l = (s.port a).sends ∧ box = []) := by
  by_cases hs : b.status = .sent
  · cases hc : s.probeCredit a with
    | true => exact ⟨_, _, _, _, .sends hs hc hm, rfl, fun _ _ => ⟨rfl, rfl, rfl, rfl⟩, nofun, absurd hs⟩
    | false => exact ⟨_, _, _, _, .queues hs hc, rfl, nofun, fun _ _ => ⟨rfl, rfl, rfl, rfl⟩, absurd hs⟩
  · exact ⟨_, _, _, _, .keeps hs, rfl, fun h => absurd h hs, fun h => absurd h hs, fun _ => ⟨rfl, rfl, rfl, rfl⟩⟩

variable {q : List EntryIdx} {l : List Send} {box : List Sent} {t : State}

theorem Retried.rests (h : Retried e a b q l box s t) : Rests s t := by
  have of {α : Type} (f : State → α) (hf : ∀ z : State, f z.offProbes = f z) : f t = f s :=
    State.of_offProbes f hf h.probes.off
  refine ⟨of State.intake fun _ => rfl, of State.pause fun _ => rfl, of State.pool fun _ => rfl, of State.leave fun _ => rfl,
    fun i => Entry.of_still Entry.duty (fun _ => rfl) (h.probes.still i), fun p hp => ?_⟩
  by_cases ha : p = a
  · rw [ha] at hp ⊢
    rw [h.port] at hp
    exact hp
  · rw [← h.other p ha]
    exact hp

/-- What could be sent has been sent, if it had before. -/
theorem Retried.pumped (h : Retried e a b q l box s t) (hp : s.pumped) : t.pumped := by
  have hcfg : t.cfg = s.cfg := State.of_offProbes State.cfg (fun _ => rfl) h.probes.off
  intro p hm hq
  by_cases ha : p = a
  · subst ha
    have hnone : s.probeCredit p = false := by
      rcases h.full with hsame | hnone
      · refine hp p ?_ ?_
        · unfold State.member at hm ⊢
          rw [h.port] at hm
          exact hm
        · rw [← hsame]
          rw [h.port] at hq
          exact hq
      · exact hnone
    unfold State.probeCredit at hnone ⊢
    rw [h.port, hcfg]
    have hgrows := h.grows
    rw [decide_eq_false_iff_not] at hnone ⊢
    show ¬ l.length < _
    omega
  · have hport := h.other p ha
    unfold State.member State.probeCredit at *
    rw [hport] at hm hq ⊢
    rw [hcfg]
    exact hp p hm hq

/-- So the calm state that the expiry leaves settles without touching a probe or a port. -/
theorem Retried.calmEnd (h : Retried e a b q l box s t) (hc : s.calm) (r : Report) :
    CalmEnd (t.report r) (t.report r).finish :=
  have hpart : t.part = s.part := State.of_offProbes State.part (fun _ => rfl) h.probes.off
  have hcalm : t.calm := State.calm_of_rests h.rests (fun hr => hpart.symm.trans hr) h.pumped hc
  CalmEnd.finish (s := t.report r) hcalm

end Retried

theorem State.exec_probeTimerExpiry {s : State} {e : EntryIdx} {a : Agent} {b : Probe} (hr : s.part = .run)
    (hb : (s.entry e).probes.get a = some b) :
    exec (.probeTimerExpiry e a) s = .next (s.clearOutputs.probeExpires e a b).finish := by
  show execProbeTimerExpiry e a s = _
  unfold execProbeTimerExpiry
  rw [hb]
  exact congrArg _ (if_pos hr)

/-- Settles O14: an expiry that uses a retry is one of the three, and its calm end keeps them; the last is a fence. -/
theorem probeTimerRetriesOrFences : Obligations.ProbeTimerRetriesOrFences := by
  refine ⟨fun s e a b hr hb hm hn => ⟨_, State.exec_probeTimerExpiry hr hb, ?_⟩,
    fun s e a b hr hb hm hn => ⟨_, State.exec_probeTimerExpiry hr hb, ?_⟩⟩
  · rw [State.probeExpires_retry (s := s.clearOutputs) hn]
    obtain ⟨b', q, l, box, h, hclock, hsends, hqueues, hkeeps⟩ :=
      Retried.useRetry (e := e) (b := b) (show s.clearOutputs.member a = true from hm)
    generalize s.clearOutputs.useRetry e a b = u at h
    generalize hrep : s.clearOutputs.retryReport e a (b.retries + 1) = r
    have of {α : Type} (f : State → α) (hf : ∀ z : State, f z.offProbes = f z) : f u = f s.clearOutputs :=
      State.of_offProbes f hf h.probes.off
    have g := Finishes.finish (u.report r)
    have hrun : (u.report r).part = .run := (of State.part fun _ => rfl).trans hr
    refine ⟨?_, ?_, fun hs hc => ?_, fun hcalm => ?_, fun i => ?_, g.dir.trans (of State.dir fun _ => rfl),
      g.cfg.trans (of State.cfg fun _ => rfl)⟩
    · have hend := State.clock_finish hrun e a
      have hprobe : ((u.report r).entry e).clock a = some (s.clearOutputs.retried b).clock := by
        rw [State.entry_report, Entry.clock, h.probes.probe, ← hclock]
        rfl
      obtain ⟨x, hx, hxc⟩ := Option.map_eq_some_iff.1 (hend.trans hprobe)
      simp only [Probe.clock, Prod.mk.injEq] at hxc
      exact ⟨x, hx, hxc⟩
    · rw [g.reports, State.reports_report, of State.reports fun _ => rfl, ← hrep]
      rfl
    · obtain ⟨more, hmore⟩ := g.outbox
      obtain ⟨-, -, -, hbox⟩ := hsends hs hc
      have hsent : (u.report r).outbox = [⟨a, s.probeMsg e⟩] := h.outbox.trans hbox
      exact ⟨more, by rw [hmore, hsent]; rfl⟩
    · have c := h.calmEnd hcalm r
      have hentry (i : EntryIdx) : (u.report r).finish.entry i = u.entry i :=
        congrArg (fun v : Vector Entry 32 => v.get i) c.table
      have hport (p : Agent) : (u.report r).finish.port p = u.port p :=
        congrArg (fun v : Vector Port 8 => v.get p) c.ports
      have hbox : (u.report r).finish.outbox = box := c.outbox.trans h.outbox
      refine ⟨fun hs hc => ?_, fun hs hc => ?_, fun hs => ?_, fun i c hic => ?_, fun p hp => ?_⟩
      · obtain ⟨rfl, rfl, rfl, rfl⟩ := hsends hs hc
        rw [hentry, hport, h.probes.probe, h.port, hbox]
        refine ⟨?_, rfl, rfl, rfl⟩
        rw [← hs]
        rfl
      · obtain ⟨rfl, rfl, rfl, rfl⟩ := hqueues hs hc
        rw [hentry, hport, h.probes.probe, h.port, hbox]
        exact ⟨rfl, rfl, rfl, rfl⟩
      · obtain ⟨rfl, rfl, rfl, rfl⟩ := hkeeps hs
        rw [hentry, hport, h.probes.probe, h.port, hbox]
        exact ⟨rfl, rfl, rfl, rfl⟩
      · rw [hentry]
        exact h.probes.other i c hic
      · rw [hport]
        exact h.other p hp
    · have hcore : (u.entry i).core = (s.entry i).core := Entry.of_still Entry.core (fun _ => rfl) (h.probes.still i)
      exact (g.entry i).trans hcore
  · have hexp : s.clearOutputs.probeExpires e a b =
        s.clearOutputs.fence a .probeTimeout (some (s.txn e)) (s.entry e).line := if_neg (Nat.not_lt.2 hn)
    rw [hexp]
    obtain ⟨hcut, -, hreports⟩ :=
      s.clearOutputs.fence_cutOff a .probeTimeout (some (s.txn e)) (s.entry e).line hr hm
    have hframe := (Ambient.fence s.clearOutputs a .probeTimeout (some (s.txn e)) (s.entry e).line).trans (Ambient.finish _)
    exact ⟨hcut, hreports, hframe.dir, hframe.cfg⟩

end Sys2Proof.Machine
end

section
/-! PROOF. O18: the search for a victim along the recency order (R93). -/

namespace Sys2Proof.Machine

/-- A slot that may give a victim holds an unbound record with poison no. -/
theorem DirSet.isVictim_iff (d : DirSet) (v : Way) : (d.slot v).isVictim = true ↔
    (d.slot v).bound = none ∧ ∃ r, d.record v = some r ∧ r.poison = false := by
  unfold Slot.isVictim DirSet.record
  cases (d.slot v).content <;> simp

/-- A way passed over is bound, or holds no record with poison no. -/
theorem DirSet.not_isVictim {d : DirSet} {v : Way} (h : ¬ (d.slot v).isVictim = true) :
    (d.slot v).bound ≠ none ∨ ∀ q, d.record v = some q → q.poison = true := by
  rw [DirSet.isVictim_iff] at h
  refine Classical.or_iff_not_imp_left.2 fun hb q hq => ?_
  rw [← Bool.not_eq_false]
  exact fun hp => h ⟨Classical.not_not.1 hb, q, hq, hp⟩

/-- Settles O18: the search from the order's end, split at the way where it stops. -/
theorem victimIsLeastRecentCandidate : Obligations.VictimIsLeastRecentCandidate := by
  refine fun d => ⟨fun w hw => ?_, fun hn v hv => ?_⟩
  · obtain ⟨hvictim, passed, rest, hsplit, hpassed⟩ := List.find?_eq_some_iff_append.1 hw
    obtain ⟨hbound, r, hr, hpoison⟩ := (d.isVictim_iff w).1 hvictim
    refine ⟨rest.reverse, passed.reverse, r, ?_, hr, hbound, hpoison, fun v hv => DirSet.not_isVictim ?_⟩
    · rw [← List.reverse_reverse d.recency, hsplit]
      simp
    · simpa using hpassed v (List.mem_reverse.1 hv)
  · exact DirSet.not_isVictim (List.find?_eq_none.1 hn v (List.mem_reverse.2 hv))

end Sys2Proof.Machine
end

section
/-! SUPPORT. The close that ends the resolution of a recall (R57, R58, R90): what the resolution's writes leave on the record
of the entry's line, and what the close makes of it to the end of the event. -/

namespace Sys2Proof.Machine

/-! ### The recall unit at a close (R90) -/

theorem State.recallUnit_leaveSnapshots (s : State) (e : EntryIdx) : (s.leaveSnapshots e).recallUnit = s.recallUnit := by
  obtain ⟨ports, purge, h⟩ := (LeavesSnapshots.leaveSnapshots s e).changes
  rw [h]

theorem State.recallUnit_handOn (s : State) (k : SetIdx) (e : EntryIdx) : (s.handOn k e).recallUnit = s.recallUnit := by
  unfold State.handOn
  split
  · exact State.recallUnit_leaveSnapshots _ e
  · split
    · split <;> rfl
    · rfl
    · rfl
    · rfl

theorem State.inFlight_reportClose (s : State) (e : EntryIdx) :
    (s.reportClose e).recallUnit.inFlight = inFlightAfter (s.entry e).kind s.recallUnit.inFlight := by
  unfold State.reportClose
  dsimp only
  rw [State.recallUnit_leaveSnapshots]

/-- The count of recalls in flight after a close, by the kind of the entry. -/
theorem State.inFlight_closeEntry (s : State) (k : SetIdx) (e : EntryIdx) :
    (s.closeEntry k e).recallUnit.inFlight = inFlightAfter (s.entry e).kind s.recallUnit.inFlight := by
  have hkind : ((s.closeFilter k e).entry e).kind = (s.entry e).kind := by
    rcases s.entry_closeFilter k e e with h | ⟨h, -⟩ <;> rw [h]
  have hunit : (s.closeFilter k e).recallUnit = s.recallUnit := by
    obtain ⟨dir, tt, more, h⟩ := s.closeFilter_changes k e
    rw [h]
  unfold State.closeEntry
  dsimp only
  rw [State.recallUnit_handOn, State.inFlight_reportClose, State.entry_updSet, hkind]
  exact congrArg (fun u : RecallUnit => inFlightAfter (s.entry e).kind u.inFlight) hunit

/-! ### The line after a write on its record (R12) -/

section Line

variable {c x : State} {l : Line} {w : Way} {r : Record} {o : Option Record}

/-- A line whose record is gone is absent. -/
theorem State.onLine.gone (h : c.onLine l w r)
    (hx : ∀ v, x.recordAt (setOf l) v = if v = w then none else c.recordAt (setOf l) v) : x.findLine l = none := by
  obtain ⟨-, -, hone⟩ := h
  cases hf : x.findLine l with
  | none => rfl
  | some v =>
    obtain ⟨q, hq, ht⟩ := State.findLine_some hf
    rw [hx] at hq
    split at hq
    · cases hq
    · next hv => exact absurd (hone v q hq ht) hv

/-- A line whose record is written again with its tag has that record. -/
theorem State.onLine.rewritten (h : c.onLine l w r) {q : Record} (hq : q.tag = r.tag)
    (hx : ∀ v, x.recordAt (setOf l) v = if v = w then some q else c.recordAt (setOf l) v) : x.onLine l w q := by
  have htag := hq.trans h.tag_eq
  obtain ⟨-, -, hone⟩ := h
  have hself : x.recordAt (setOf l) w = some q := (hx w).trans (if_pos rfl)
  have hone' (v : Way) (p : Record) (hp : x.recordAt (setOf l) v = some p) (ht : p.tag = tagOf l) : v = w := by
    rw [hx] at hp
    split at hp
    · next hv => exact hv
    · exact hone v p hp ht
  exact ⟨DirSet.findTag_of_record hself htag hone', hself, hone'⟩

end Line

/-! ### What a resolution leaves before its close -/

/-- The writes of a resolution for entry `e`, before its close: the record at way `w` of set `k` becomes `o`, and the entry
loses its way at most. -/
structure Prepared (k : SetIdx) (w : Way) (o : Option Record) (e : EntryIdx) (c x : State) : Prop where
  wf : x.dir.wf = true
  record : ∀ v, x.recordAt k v = if v = w then o else c.recordAt k v
  bound : o = none ∨ (x.slot k w).bound = (c.slot k w).bound
  self : ∃ y, x.entry e = { c.entry e with way := y }
  ports : x.ports = c.ports
  inFlight : x.recallUnit.inFlight = c.recallUnit.inFlight

section Prepared

variable {k : SetIdx} {w : Way} {o : Option Record} {e : EntryIdx} {c x y : State} {r : Record}

theorem Prepared.of_rewrites (h : c.dir.wf = true) (g : Rewrites k w o c x)
    (hb : o = none ∨ (x.slot k w).bound = (c.slot k w).bound) : Prepared k w o e c x := by
  refine ⟨g.wf h, g.record h, hb, ?_, g.of State.ports fun _ => rfl, g.of (fun z => z.recallUnit.inFlight) fun _ => rfl⟩
  rcases g.entry e with he | ⟨he, -⟩
  · exact ⟨(c.entry e).way, he⟩
  · exact ⟨none, he⟩

theorem Prepared.kept (h : c.dir.wf = true) (hr : c.recordAt k w = o) : Prepared k w o e c c :=
  .of_rewrites h (.kept hr) (.inr rfl)

theorem Prepared.writeRec (h : c.dir.wf = true) (r : Record) : Prepared k w (some r) e c (c.writeRec k w r) := by
  refine .of_rewrites h (.writeRec c k w r) (.inr ?_)
  refine (congrArg Slot.bound (State.slot_updSet_same c k (fun d => d.writeRec w r) w h)).trans ?_
  rw [DirSet.slot_writeRec, if_pos rfl]
  rfl

theorem Prepared.freeRec (h : c.dir.wf = true) : Prepared k w none e c (c.freeRec k w) :=
  .of_rewrites h (.freeRec c k w) (.inl rfl)

theorem Prepared.freeOrPoison (h : c.dir.wf = true) (r : Record) :
    Prepared k w (r.leftWith 0) e c (c.freeOrPoison k w r) := by
  unfold State.freeOrPoison Record.leftWith
  rw [if_neg (not_not_intro rfl)]
  cases r.poison with
  | true => exact .writeRec h (poisonedRecord r.tag)
  | false => exact .freeRec h

theorem Prepared.removeHolder (h : c.dir.wf = true) (r : Record) (a : Agent) :
    Prepared k w (r.leftWith (without r.holders a)) e c (c.removeHolder k w r a) := by
  unfold State.removeHolder
  by_cases hn : without r.holders a = 0
  · rw [if_pos hn, hn]
    exact .freeOrPoison h r
  · rw [if_neg hn]
    unfold Record.leftWith
    rw [if_pos hn]
    exact .writeRec h _

/-- Writes beside the directory, the entry, the ports and the count of recalls. -/
theorem Prepared.beside (h : Prepared k w o e c x) (hdir : y.dir = x.dir) (hself : y.entry e = x.entry e)
    (hports : y.ports = x.ports) (hflight : y.recallUnit.inFlight = x.recallUnit.inFlight) : Prepared k w o e c y :=
  ⟨hdir ▸ h.wf, fun v => (State.recordAt_congr hdir k v).trans (h.record v),
    h.bound.imp id fun hb => (congrArg Slot.bound (State.slot_congr hdir k w)).trans hb, hself ▸ h.self,
    hports.trans h.ports, hflight.trans h.inFlight⟩

/-- A field of the entry other than its way. -/
theorem Prepared.of {α : Type} (h : Prepared k w o e c x) (f : Entry → α)
    (hf : ∀ (z : Entry) (v : Option Way), f { z with way := v } = f z) : f (x.entry e) = f (c.entry e) := by
  obtain ⟨v, hv⟩ := h.self
  rw [hv, hf]

theorem Prepared.lineOfEntry (h : Prepared k w o e c x) : x.lineOfEntry e = c.lineOfEntry e :=
  h.of (fun z => z.line.getD 0) fun _ _ => rfl

theorem Prepared.txn (h : Prepared k w o e c x) : x.txn e = c.txn e := h.of (fun z => txnOf e z.gen) fun _ _ => rfl

theorem Prepared.fencedSet (h : Prepared k w o e c x) : x.fencedSet = c.fencedSet := by
  unfold State.fencedSet State.port
  rw [h.ports]

end Prepared

/-! ### The close of the entry, to the end of the event -/

/-- What the state `t` at the end of the event has of the close of entry `e`, the resolution having left `x` of the state
`c` that its checks left, and `o` of the record at way `w` of set `k`. -/
structure ClosesOn (k : SetIdx) (w : Way) (o : Option Record) (e : EntryIdx) (c x t : State) : Prop where
  record : ∀ v, t.recordAt k v = if v = w then o.bind (closeTable c.fencedSet) else c.recordAt k v
  set : o = none → t.dirSet k = ((x.dirSet k).dropReservation e).dropBound e
  freed : (t.entry e).core = (Entry.freeOf (c.entry e).gen).core
  other : o = none ∨ (c.slot k w).bound = some e → ∀ i, i ≠ e → (t.entry i).core = (x.entry i).core
  inFlight : t.recallUnit.inFlight = inFlightAfter (c.entry e).kind c.recallUnit.inFlight
  queue : ∃ starts, t.recallUnit.queue = starts ++ x.recallUnit.queue
  reports : ∀ q ∈ x.reports, q ∈ t.reports
  svc : x.svc.status ≠ .busy → x.svc.waiting ≠ .freeEntry → t.svc = x.svc

section Close

variable {w : Way} {o : Option Record} {e : EntryIdx} {c x : State} {r : Record} {l : Line}

/-- Where the line has a record left, the close finds it. -/
theorem Prepared.findTag (h : Prepared (setOf l) w o e c x) (hon : c.onLine l w r) (hl : c.lineOfEntry e = l)
    (ht : ∀ q, o = some q → q.tag = r.tag) :
    (x.dirSet (setOf l)).findTag (tagOf (x.lineOfEntry e)) = o.map fun _ => w := by
  rw [h.lineOfEntry, hl]
  cases o with
  | none => exact hon.gone h.record
  | some q => exact (hon.rewritten (ht q rfl) h.record).1

/-- The record that the close leaves. -/
theorem Prepared.recordAt_closeEntry (h : Prepared (setOf l) w o e c x) (hon : c.onLine l w r) (hl : c.lineOfEntry e = l)
    (ht : ∀ q, o = some q → q.tag = r.tag) (v : Way) : (x.closeEntry (setOf l) e).recordAt (setOf l) v =
      if v = w then o.bind (closeTable c.fencedSet) else c.recordAt (setOf l) v := by
  have hf := h.findTag hon hl ht
  cases o with
  | none =>
    have g := Closes.closeEntry x (setOf l) e
    rw [State.closeFilter_absent hf] at g
    rw [g.record h.wf, h.record]
    rfl
  | some q =>
    rw [State.recordAt_closeEntry h.wf hf ((h.record w).trans (if_pos rfl)), h.fencedSet, h.record]
    split <;> rfl

/-- The close leaves every other entry, unless it frees a record bound to it. -/
theorem Prepared.entry_closeEntry (h : Prepared (setOf l) w o e c x) (hon : c.onLine l w r) (hl : c.lineOfEntry e = l)
    (ht : ∀ q, o = some q → q.tag = r.tag) (hb : o = none ∨ (c.slot (setOf l) w).bound = some e) {i : EntryIdx}
    (hi : i ≠ e) : (x.closeEntry (setOf l) e).entry i = x.entry i := by
  rw [(Closes.closeEntry x (setOf l) e).other i hi]
  refine (x.entry_closeFilter (setOf l) e i).resolve_right ?_
  rintro ⟨-, v, hv, hbv⟩
  rw [h.findTag hon hl ht] at hv
  cases o with
  | none => cases hv
  | some q =>
    cases hv
    have hx := (h.bound.resolve_left nofun).trans (hb.resolve_left nofun)
    exact hi (Option.some.inj (hbv.symm.trans hx))

theorem Prepared.closes (h : Prepared (setOf l) w o e c x) (hon : c.onLine l w r) (hl : c.lineOfEntry e = l)
    (ht : ∀ q, o = some q → q.tag = r.tag) (hw : (c.entry e).waiters = []) (late : List Report) (starts : List StartItem) :
    ClosesOn (setOf l) w o e c x ((x.closeEntry (setOf l) e).ended late starts).finish := by
  have con := Concludes.finish (x.closeEntry (setOf l) e) late starts
  have hflight := (Finishes.finish ((x.closeEntry (setOf l) e).ended late starts)).inFlight
  have hwait : (x.entry e).waiters = [] := (h.of Entry.waiters fun _ _ => rfl).trans hw
  obtain ⟨-, ⟨more, hreports⟩, hqueue⟩ := x.closeEntry_off (setOf l) e
  refine ⟨fun v => ?_, fun ho => ?_, ?_, fun hb i hi => ?_, ?_, ?_, fun q hq => con.reports q ?_, fun hs hf => ?_⟩
  · rw [State.recordAt_congr con.dir, h.recordAt_closeEntry hon hl ht]
  · subst ho
    rw [State.dirSet_congr con.dir, State.dirSet_closeEntry h.wf hwait, State.closeFilter_absent (h.findTag hon hl ht)]
  · rw [con.entry, State.freed_closeEntry x _ e hwait, h.of Entry.gen fun _ _ => rfl]
  · rw [con.entry, h.entry_closeEntry hon hl ht hb hi]
  · refine hflight.trans ((x.inFlight_closeEntry (setOf l) e).trans ?_)
    rw [h.of Entry.kind fun _ _ => rfl, h.inFlight]
  · rw [← hqueue]
    exact con.queue
  · rw [hreports]
    exact List.mem_append_left _ hq
  · have hsvc : (x.closeFilter (setOf l) e).svc = x.svc := by
      obtain ⟨dir, tt, more, hc⟩ := x.closeFilter_changes (setOf l) e
      rw [hc]
    have hwait' : ((x.closeFilter (setOf l) e).entry e).waiters = [] := by
      rcases x.entry_closeFilter (setOf l) e e with he | ⟨he, -⟩ <;> rw [he] <;> exact hwait
    have hclose : (x.closeEntry (setOf l) e).svc = x.svc :=
      ((Closes.closeEntry x (setOf l) e).svc hwait' (by rw [hsvc]; exact hf)).trans hsvc
    rw [con.svc (by rw [hclose]; exact hs), hclose]

end Close

end Sys2Proof.Machine
end

section
/-! PROOF. O40: the resolution of a RETRACT (R90, R126). -/

namespace Sys2Proof.Machine

/-! ### The entry whose resolution is due (R46, R126) -/

theorem Entry.kind_of_resolutionDue {x : Entry} {i e : EntryIdx} (h : x.resolutionDue i = some (.retractResolution e)) :
    i = e ∧ x.kind = some .retract := by
  unfold Entry.resolutionDue at h
  split at h
  · cases h
  · split at h <;> cases h
    next hk => exact ⟨rfl, hk⟩

/-- The entry whose resolution is a RETRACT's is a RETRACT. -/
theorem State.kind_of_retractResolution {s : State} {e : EntryIdx} (h : s.due = some (.retractResolution e)) :
    (s.entry e).kind = some .retract := by
  unfold State.due at h
  split at h
  case h_2 i _ =>
    unfold Entry.due at h
    split at h
    case h_3 =>
      obtain ⟨rfl, hk⟩ := Entry.kind_of_resolutionDue h
      exact hk
    all_goals cases h
  case h_3 =>
    unfold State.recallDue at h
    split at h
    · obtain ⟨rfl, hk⟩ := Entry.kind_of_resolutionDue h
      exact hk
    · obtain ⟨item, -, hitem⟩ := Option.map_eq_some_iff.1 h
      cases item <;> cases hitem
  case h_6 =>
    obtain ⟨p, -, hp⟩ := Option.map_eq_some_iff.1 h
    cases hp
  case h_7 =>
    obtain ⟨r, -, hr⟩ := Option.map_eq_some_iff.1 h
    cases hr
  all_goals cases h

/-! ### The leaving agent is taken out of the record (R126) -/

/-- What the resolution of the RETRACT of entry `x` makes of the record: the table of DROP takes agent `p` out, unless its
answer is fence GONE. -/
def Record.retracted (r : Record) (x : Entry) (p : Agent) : Option Record :=
  if x.fenceGoneOf p then some r else (noticeTable .drop p (some r)).2

/-- The state in which a RETRACT's resolution closes its entry. -/
def State.retracted (c : State) (k : SetIdx) (w : Way) (r : Record) (e : EntryIdx) (p : Agent) : State :=
  if (c.entry e).fenceGoneOf p then c else c.retractFrom k w r p

theorem Record.tag_leftWith {r q : Record} {h : AgentSet} (hq : r.leftWith h = some q) : q.tag = r.tag := by
  unfold Record.leftWith at hq
  split at hq
  · cases hq; rfl
  · split at hq
    · cases hq; rfl
    · cases hq

section Retract

variable {k : SetIdx} {w : Way} {e : EntryIdx} {c : State} {r : Record}

/-- The resolution takes the agent out of the record, or all of it where the agent owns it, or leaves it as it is. -/
theorem State.retracted_cases (c : State) (k : SetIdx) (w : Way) (r : Record) (e : EntryIdx) (p : Agent) :
    (c.retracted k w r e p = c.removeHolder k w r p ∧ r.retracted (c.entry e) p = r.leftWith (without r.holders p))
    ∨ (c.retracted k w r e p = c.freeOrPoison k w r ∧ r.retracted (c.entry e) p = r.leftWith 0)
    ∨ (c.retracted k w r e p = c ∧ r.retracted (c.entry e) p = some r) := by
  unfold State.retracted Record.retracted
  split
  · exact .inr (.inr ⟨rfl, rfl⟩)
  · unfold State.retractFrom noticeTable
    dsimp only
    cases r.state with
    | shared =>
      dsimp only
      by_cases hp : has r.holders p = true
      · rw [if_pos hp, if_pos ⟨rfl, hp⟩]
        exact .inl ⟨rfl, rfl⟩
      · rw [if_neg hp, if_neg fun hc => hp hc.2]
        exact .inr (.inr ⟨rfl, rfl⟩)
    | owned =>
      dsimp only
      by_cases hp : r.holders = only p.val
      · rw [if_pos hp, if_pos hp]
        exact .inr (.inl ⟨rfl, rfl⟩)
      · rw [if_neg hp, if_neg hp]
        exact .inr (.inr ⟨rfl, rfl⟩)
    | poisoned => exact .inr (.inr ⟨rfl, rfl⟩)
    | damaged => exact .inr (.inr ⟨rfl, rfl⟩)

theorem Rewrites.retracted (hr : c.recordAt k w = some r) (p : Agent) :
    Rewrites k w (r.retracted (c.entry e) p) c (c.retracted k w r e p) := by
  rcases c.retracted_cases k w r e p with ⟨hx, ho⟩ | ⟨hx, ho⟩ | ⟨hx, ho⟩ <;> rw [hx, ho]
  · exact .removeHolder c k w r p
  · exact .freeOrPoison c k w r
  · exact .kept hr

theorem Prepared.retracted (h : c.dir.wf = true) (hr : c.recordAt k w = some r) (p : Agent) :
    Prepared k w (r.retracted (c.entry e) p) e c (c.retracted k w r e p) := by
  rcases c.retracted_cases k w r e p with ⟨hx, ho⟩ | ⟨hx, ho⟩ | ⟨hx, ho⟩ <;> rw [hx, ho]
  · exact .removeHolder h r p
  · exact .freeOrPoison h r
  · exact .kept h hr

theorem State.tag_retracted {q : Record} {p : Agent} (hq : r.retracted (c.entry e) p = some q) : q.tag = r.tag := by
  rcases c.retracted_cases 0 0 r e p with ⟨-, ho⟩ | ⟨-, ho⟩ | ⟨-, ho⟩ <;> rw [ho] at hq
  · exact Record.tag_leftWith hq
  · exact Record.tag_leftWith hq
  · cases hq; rfl

theorem retractOutcome_closes {a : Access} {p : Agent} (ha : a.s = c) (hk : setOf (c.lineOfEntry e) = k)
    (hp : (c.entry e).target = some p) (hon : c.onLine (c.lineOfEntry e) w r) (hr : r.state ≠ .damaged) :
    retractOutcome e a = (c.retracted k w r e p).closeEntry k e := by
  subst ha hk
  unfold retractOutcome State.resolveRetract State.retracted
  dsimp only
  rw [hon.held, hp]
  dsimp only
  rw [if_neg hr]
  split <;> rfl

end Retract

/-- Settles O40: the record as the resolution leaves it, and the close of the entry on it, to the end of the event. -/
theorem retractTakesHolderBack : Obligations.RetractTakesHolderBack := by
  intro s f e p w r hd hl hu hon hr hp hwait
  dsimp only
  have hentry (i : EntryIdx) := s.checked_entry (setOf (s.lineOfEntry e)) f i
  have hline := s.checked_lineOfEntry (setOf (s.lineOfEntry e)) f e
  have hfenced := s.checked_fencedSet (setOf (s.lineOfEntry e)) f
  have hflight := congrArg RecallUnit.inFlight (SameOutside.checked s (setOf (s.lineOfEntry e)) f).recallUnit
  have hwf := (State.checked_lawful hl (setOf (s.lineOfEntry e)) f).1
  have hkind := (congrArg Entry.kind (hentry e)).trans (State.kind_of_retractResolution hd)
  have hc : (s.takeClaim.beginAccess (setOf (s.lineOfEntry e)) f).s = s.checked (setOf (s.lineOfEntry e)) f := rfl
  obtain ⟨late, starts, ht⟩ := State.exec_ended (d := .retractResolution e) (f := f) rfl hd rfl rfl hu
    (retractOutcome_closes hc (congrArg setOf hline) ((congrArg Entry.target (hentry e)).trans hp)
      (by rw [hline]; exact hon) hr)
    ((State.integ_closeEntry_any _ _ e).trans ((Rewrites.retracted hon.2.1 p).of State.integ fun _ => rfl))
  generalize s.checked (setOf (s.lineOfEntry e)) f = c at *
  have pre := Prepared.retracted (e := e) hwf hon.2.1 p
  have g := pre.closes hon hline (fun q => State.tag_retracted) ((congrArg Entry.waiters (hentry e)).trans hwait) late starts
  have hgone (b : Bool) (hb : (s.entry e).fenceGoneOf p = b) : r.retracted (c.entry e) p
      = if b then some r else (noticeTable .drop p (some r)).2 := by
    unfold Record.retracted
    rw [hentry, hb]
  refine ⟨_, ht, fun hb => ?_, fun hb => ?_, fun v hv => (g.record v).trans (if_neg hv), ?_, ?_, fun hb i hi => ?_⟩
  · rw [g.record, if_pos rfl, hgone _ hb, hfenced]
    rfl
  · rw [g.record, if_pos rfl, hgone _ hb, hfenced]
    rfl
  · refine g.inFlight.trans ?_
    rw [hkind, hflight]
    rfl
  · rw [g.freed, hentry]
  · have hbound := hb w hon.1
    have hother := (Rewrites.retracted (e := e) hon.2.1 p).entry_of_bound
      (i := i) fun h => hi (Option.some.inj (h.symm.trans hbound))
    rw [g.other (.inr hbound) i hi, hother, hentry]

end Sys2Proof.Machine
end

section
/-! PROOF. O32 and O48: the resolutions of a RECALL and of a SERVICE recall, which free their record or leave it POISONED (R96,
R97, R101, R185). -/

namespace Sys2Proof.Machine

/-! ### A record freed or POISONED (R3) -/

/-- The owner `o` is lost: the record becomes POISONED, which is reported. -/
theorem Prepared.poisonLost {k : SetIdx} {w : Way} {e : EntryIdx} {c : State} (h : c.dir.wf = true) (r : Record)
    (o : Agent) : Prepared k w (some (poisonedRecord r.tag)) e c (c.poisonLost k w r o e) :=
  (Prepared.writeRec h (poisonedRecord r.tag)).beside rfl rfl rfl rfl

theorem State.poisonReport_poisonLost (c : State) (k : SetIdx) (w : Way) (r : Record) (o : Agent) (e : EntryIdx) :
    poisonReport k w r.tag (some o) (some (c.txn e)) ∈ (c.poisonLost k w r o e).reports :=
  List.mem_append_right _ (List.mem_singleton.2 rfl)

/-! ### The resolution of a RECALL (R96, R97) -/

/-- The victim's slot freed and reserved for the parked entry `p`. -/
def State.victimFreed (c : State) (k : SetIdx) (w : Way) (p : EntryIdx) : State := (c.freeRec k w).reserveFor k w p

/-- The victim POISONED for its owner `o` that was lost, and the item of the parked entry `p` at the front of the queue. -/
def State.victimPoisoned (c : State) (k : SetIdx) (w : Way) (r : Record) (o : Agent) (e p : EntryIdx) : State :=
  (c.poisonLost k w r o e).queueParked p true

theorem State.freeVictim_serving {s : State} {e p : EntryIdx} (h : s.recallUnit.serves.get e = some p) (k : SetIdx)
    (w : Way) : s.freeVictim k w e = s.victimFreed k w p := by
  unfold State.freeVictim
  rw [h]
  rfl

theorem State.withhold_serving {s : State} {e p : EntryIdx} (h : s.recallUnit.serves.get e = some p) :
    s.withhold e = s.queueParked p true := by
  unfold State.withhold
  rw [h]

theorem State.entry_victimFreed (c : State) (k : SetIdx) (w : Way) (p i : EntryIdx) : (c.victimFreed k w p).entry i =
    if i = p then { (c.freeRec k w).entry p with slotClaim := true } else (c.freeRec k w).entry i :=
  State.entry_updEntry ((c.freeRec k w).updSet k fun d => d.setReservation w (some p)) p i fun x =>
    { x with slotClaim := true }

theorem State.dirSet_victimFreed {c : State} (h : c.dir.wf = true) (k : SetIdx) (w : Way) (p : EntryIdx) :
    (c.victimFreed k w p).dirSet k = ((c.dirSet k).freeRec w).setReservation w (some p) := by
  rw [← State.dirSet_freeRec h]
  exact State.dirSet_updSet_same _ k (fun d => d.setReservation w (some p)) ((Rewrites.freeRec c k w).wf h)

section Recall

variable {k : SetIdx} {w : Way} {e p : EntryIdx} {c : State} {r : Record}

theorem Prepared.victimFreed (h : c.dir.wf = true) (hp : p ≠ e) : Prepared k w none e c (c.victimFreed k w p) := by
  have g : Prepared k w none e c (c.freeRec k w) := .freeRec h
  refine ⟨State.wf_updSet _ k (fun d => d.setReservation w (some p)) g.wf, fun v => ?_, .inl rfl, ?_, g.ports, g.inFlight⟩
  · rw [← g.record v]
    unfold State.recordAt DirSet.record
    rw [State.dirSet_victimFreed h, State.dirSet_freeRec h, DirSet.slot_setReservation]
    split
    · next hv => rw [hv]
    · rfl
  · rw [State.entry_victimFreed, if_neg hp.symm]
    exact g.self

theorem Prepared.victimPoisoned (h : c.dir.wf = true) (r : Record) (o : Agent) :
    Prepared k w (some (poisonedRecord r.tag)) e c (c.victimPoisoned k w r o e p) :=
  (Prepared.poisonLost h r o).beside rfl rfl rfl rfl

section Outcome

variable {a : Access} (ha : a.s = c) (hk : setOf (c.lineOfEntry e) = k) (hon : c.onLine (c.lineOfEntry e) w r)
  (hr : r.state ≠ .damaged) (hp : c.recallUnit.serves.get e = some p)
include ha hk hon hr hp

theorem recallOutcome_frees (hlost : r.lostOwner (c.entry e) = none) :
    recallOutcome e a = ((c.dropAccess e).victimFreed k w p).closeEntry k e := by
  subst ha hk
  have hkeep : r.lostOwner ((a.s.dropAccess e).entry e) = none := hlost
  unfold recallOutcome State.resolveRecall
  dsimp only
  rw [State.onLine.held (s := a.s.dropAccess e) hon]
  dsimp only
  rw [if_neg hr, hkeep]
  dsimp only
  rw [State.freeVictim_serving (s := a.s.dropAccess e) hp]
  rfl

theorem recallOutcome_poisons {o : Agent} (hlost : r.lostOwner (c.entry e) = some o) :
    recallOutcome e a = ((c.dropAccess e).victimPoisoned k w r o e p).closeEntry k e := by
  subst ha hk
  have hkeep : r.lostOwner ((a.s.dropAccess e).entry e) = some o := hlost
  unfold recallOutcome State.resolveRecall
  dsimp only
  rw [State.onLine.held (s := a.s.dropAccess e) hon]
  dsimp only
  rw [if_neg hr, hkeep]
  dsimp only
  rw [State.withhold_serving (s := (a.s.dropAccess e).poisonLost _ w r o e) hp]
  rfl

end Outcome

end Recall

/-- Settles O32: the slot freed for the parked entry, or the record POISONED, and the close to the end of the event. -/
theorem recallFreesVictimOrPoisons : Obligations.RecallFreesVictimOrPoisons := by
  intro s f e p w r hd hl hu hon hr hp hpe hkind hwait
  dsimp only
  have hentry (i : EntryIdx) := s.checked_entry (setOf (s.lineOfEntry e)) f i
  have hline := s.checked_lineOfEntry (setOf (s.lineOfEntry e)) f e
  have htxn := s.checked_txn (setOf (s.lineOfEntry e)) f e
  have hunit : (s.checked (setOf (s.lineOfEntry e)) f).recallUnit = s.recallUnit := (SameOutside.checked s _ f).recallUnit
  have hwf := (State.checked_lawful hl (setOf (s.lineOfEntry e)) f).1
  have hc : (s.takeClaim.beginAccess (setOf (s.lineOfEntry e)) f).s = s.checked (setOf (s.lineOfEntry e)) f := rfl
  have hexec {u : State} := State.exec_ended (s := s) (d := .recallResolution e) (k := setOf (s.lineOfEntry e)) (f := f)
    (u := u) rfl hd rfl rfl hu
  change ∀ {u : State}, recallOutcome e _ = u → _ at hexec
  generalize s.checked (setOf (s.lineOfEntry e)) f = c at *
  have hon' : c.onLine (c.lineOfEntry e) w r := by rw [hline]; exact hon
  have hserves : c.recallUnit.serves.get e = some p := by rw [hunit]; exact hp
  have hwait' : (c.entry e).waiters = [] := (congrArg Entry.waiters (hentry e)).trans hwait
  have hflight (n : Nat) (hn : n = inFlightAfter (c.entry e).kind c.recallUnit.inFlight) :
      n = s.recallUnit.inFlight - 1 := by
    rw [hn, hentry, hkind, hunit]
    rfl
  cases hlost : r.lostOwner (s.entry e) with
  | none =>
    obtain ⟨late, starts, ht⟩ := hexec (recallOutcome_frees hc (congrArg setOf hline) hon' hr hserves
      ((congrArg r.lostOwner (hentry e)).trans hlost))
      ((State.integ_closeEntry_any _ _ e).trans (State.integ_freeRec (c.dropAccess e) _ w))
    have pre : Prepared (setOf (s.lineOfEntry e)) w none e (c.dropAccess e) _ := .victimFreed hwf hpe
    have g := pre.closes (l := s.lineOfEntry e) hon hline nofun hwait' late starts
    have hset := g.set rfl
    rw [State.dirSet_victimFreed (c := c.dropAccess e) hwf] at hset
    refine ⟨_, ht, hflight _ g.inFlight, ?_, fun v hv => (g.record v).trans (if_neg hv), fun _ => ⟨?_, ?_, ?_, ?_⟩, nofun⟩
    · exact g.freed.trans (congrArg (fun x : Entry => (Entry.freeOf x.gen).core) (hentry e))
    · exact (g.record w).trans (if_pos rfl)
    · rw [hset, DirSet.reservation_dropBound, DirSet.reservation_dropReservation, DirSet.slot_setReservation, if_pos rfl,
        if_neg fun h => hpe (Option.some.inj h)]
    · have hp' := g.other (.inl rfl) p hpe
      rw [State.entry_victimFreed, if_pos rfl] at hp'
      exact Entry.of_core Entry.slotClaim (fun _ => rfl) hp'
    · rw [hset]
      rfl
  | some o =>
    obtain ⟨late, starts, ht⟩ := hexec (recallOutcome_poisons hc (congrArg setOf hline) hon' hr hserves
      ((congrArg r.lostOwner (hentry e)).trans hlost)) (State.integ_closeEntry_any _ _ e)
    have pre : Prepared (setOf (s.lineOfEntry e)) w _ e (c.dropAccess e)
      ((c.dropAccess e).victimPoisoned (setOf (s.lineOfEntry e)) w r o e p) :=
      .victimPoisoned (c := c.dropAccess e) hwf r o
    have g := pre.closes (l := s.lineOfEntry e) hon hline (fun q hq => by cases hq; rfl) hwait' late starts
    refine ⟨_, ht, hflight _ g.inFlight, ?_, fun v hv => (g.record v).trans (if_neg hv), nofun, fun o' ho => ?_⟩
    · exact g.freed.trans (congrArg (fun x : Entry => (Entry.freeOf x.gen).core) (hentry e))
    · cases ho
      refine ⟨(g.record w).trans (if_pos rfl), ?_, ?_⟩
      · rw [← htxn]
        exact g.reports _ ((c.dropAccess e).poisonReport_poisonLost _ w r o e)
      · obtain ⟨more, hqueue⟩ := g.queue
        exact ⟨more, hqueue.trans (congrArg (fun q => more ++ .parked p :: q) (congrArg RecallUnit.queue hunit))⟩

/-! ### The resolution of a SERVICE recall (R101) -/

/-- The record left by a SERVICE recall is POISONED: its owner was lost, or its flag was set (log 26). -/
def Record.staysPoisoned (r : Record) (x : Entry) : Bool := r.poison || (r.lostOwner x).isSome

/-- The state in which RECALL_LINE completes: the record freed, or POISONED. -/
def State.serviceSettled (c : State) (k : SetIdx) (w : Way) (r : Record) (e : EntryIdx) : State :=
  match r.lostOwner (c.entry e) with
  | some o => c.poisonLost k w r o e
  | none => c.freeOrPoison k w r

section Service

variable {k : SetIdx} {w : Way} {e : EntryIdx} {c : State} {r : Record}

theorem Record.staysPoisoned_of_lost {x : Entry} {o : Agent} (h : r.lostOwner x = some o) : r.staysPoisoned x = true := by
  unfold Record.staysPoisoned
  rw [h]
  exact Bool.or_true _

theorem Record.staysPoisoned_of_none {x : Entry} (h : r.lostOwner x = none) : r.staysPoisoned x = r.poison := by
  unfold Record.staysPoisoned
  rw [h]
  exact Bool.or_false _

theorem Prepared.serviceSettled (h : c.dir.wf = true) :
    Prepared k w (if r.staysPoisoned (c.entry e) then some (poisonedRecord r.tag) else none) e c
      (c.serviceSettled k w r e) := by
  unfold State.serviceSettled
  cases hl : r.lostOwner (c.entry e) with
  | some o =>
    rw [r.staysPoisoned_of_lost hl]
    exact .poisonLost h r o
  | none =>
    rw [r.staysPoisoned_of_none hl]
    exact .freeOrPoison h r

theorem State.entry_serviceSettled {i : EntryIdx} (hb : (c.slot k w).bound ≠ some i) (r : Record) (e : EntryIdx) :
    (c.serviceSettled k w r e).entry i = c.entry i := by
  unfold State.serviceSettled
  split
  · rfl
  · exact (Rewrites.freeOrPoison c k w r).entry_of_bound hb

theorem State.integ_serviceSettled (c : State) (k : SetIdx) (w : Way) (r : Record) (e : EntryIdx) :
    (c.serviceSettled k w r e).integ = c.integ := by
  unfold State.serviceSettled
  split
  · rfl
  · exact (Rewrites.freeOrPoison c k w r).of State.integ fun _ => rfl

/-- A record freed leaves the recency order (R15). -/
theorem State.recency_serviceSettled (h : c.dir.wf = true) (hp : r.staysPoisoned (c.entry e) = false) :
    ((c.serviceSettled k w r e).dirSet k).recency = (c.dirSet k).recency.erase w := by
  unfold State.serviceSettled
  cases hl : r.lostOwner (c.entry e) with
  | some o =>
    rw [r.staysPoisoned_of_lost hl] at hp
    cases hp
  | none =>
    rw [r.staysPoisoned_of_none hl] at hp
    dsimp only
    unfold State.freeOrPoison
    rw [hp, if_neg Bool.false_ne_true, State.dirSet_freeRec h]
    rfl

theorem State.poisonReport_serviceSettled {o : Agent} (h : r.lostOwner (c.entry e) = some o) :
    poisonReport k w r.tag (some o) (some (c.txn e)) ∈ (c.serviceSettled k w r e).reports := by
  unfold State.serviceSettled
  rw [h]
  exact c.poisonReport_poisonLost k w r o e

/-- The record settled, and the command completed with what became of it (R185). -/
def State.recallCompleted (c : State) (k : SetIdx) (w : Way) (r : Record) (e : EntryIdx) : State :=
  (c.serviceSettled k w r e).completeRecall e (if r.staysPoisoned (c.entry e) then .poisoned else .recalled)

theorem Prepared.recallCompleted (h : c.dir.wf = true) :
    Prepared k w (if r.staysPoisoned (c.entry e) then some (poisonedRecord r.tag) else none) e c
      (c.recallCompleted k w r e) := (Prepared.serviceSettled h).beside rfl rfl rfl rfl

theorem State.result_recallCompleted (h : c.dir.wf = true) : (c.recallCompleted k w r e).svc.result =
    { Result.clear with
      outcome := if r.staysPoisoned (c.entry e) then .poisoned else .recalled
      txn := some (c.txn e), answers := (c.entry e).answers } := by
  have g : Prepared k w _ e c (c.serviceSettled k w r e) := .serviceSettled h
  rw [← g.txn, ← g.of Entry.answers fun _ _ => rfl]
  rfl

/-- The resolution writes the record, completes the command and closes the entry. -/
theorem State.resolveService_eq (h : c.dir.wf = true) (hk : setOf (c.lineOfEntry e) = k)
    (hr : r.state = .shared ∨ r.state = .owned) :
    c.resolveService k w r e = (c.recallCompleted k w r e).closeEntry k e := by
  have hclose (o : ResultOutcome) : (c.serviceSettled k w r e).closeRecall e o
      = ((c.serviceSettled k w r e).completeRecall e o).closeEntry k e := by
    unfold State.closeRecall
    rw [(Prepared.serviceSettled (w := w) (r := r) h).lineOfEntry, hk]
  unfold State.recallCompleted
  rw [← hclose]
  unfold State.resolveService State.serviceSettled
  cases hl : r.lostOwner (c.entry e) with
  | some o =>
    rw [r.staysPoisoned_of_lost hl]
    rcases hr with hs | hs <;> rw [hs] <;> rfl
  | none =>
    rw [r.staysPoisoned_of_none hl]
    unfold State.freeOrPoison
    rcases hr with hs | hs <;> rw [hs] <;> cases r.poison <;> rfl

theorem serviceOutcome_completes {a : Access} (ha : a.s = c) (h : c.dir.wf = true) (hk : setOf (c.lineOfEntry e) = k)
    (hon : c.onLine (c.lineOfEntry e) w r) (hr : r.state = .shared ∨ r.state = .owned) :
    serviceOutcome e a = (c.recallCompleted k w r e).closeEntry k e := by
  rw [← State.resolveService_eq h hk hr]
  subst ha hk
  obtain ⟨hw, hrec, -⟩ := hon
  unfold State.recordAt at hrec
  unfold serviceOutcome
  dsimp only
  rw [hw]
  dsimp only
  rw [hrec]

end Service

/-- Settles O48: the record freed or POISONED, the command completed, and the close to the end of the event. -/
theorem serviceResolutionCompletesRecall : Obligations.ServiceResolutionCompletesRecall := by
  intro s f e w r hd hl hu hon hr hwait
  dsimp only
  have hentry (i : EntryIdx) := s.checked_entry (setOf (s.lineOfEntry e)) f i
  have hline := s.checked_lineOfEntry (setOf (s.lineOfEntry e)) f e
  have htxn := s.checked_txn (setOf (s.lineOfEntry e)) f e
  have hwf := (State.checked_lawful hl (setOf (s.lineOfEntry e)) f).1
  have hc : (s.takeClaim.beginAccess (setOf (s.lineOfEntry e)) f).s = s.checked (setOf (s.lineOfEntry e)) f := rfl
  obtain ⟨late, starts, ht⟩ := State.exec_ended (d := .serviceResolution e) (k := setOf (s.lineOfEntry e)) (f := f) rfl hd
    rfl rfl hu (serviceOutcome_completes hc hwf (congrArg setOf hline) (by rw [hline]; exact hon) hr)
    ((State.integ_closeEntry_any _ _ e).trans (State.integ_serviceSettled _ _ w r e))
  generalize s.checked (setOf (s.lineOfEntry e)) f = c at *
  have pre : Prepared (setOf (s.lineOfEntry e)) w _ e c (c.recallCompleted (setOf (s.lineOfEntry e)) w r e) :=
    .recallCompleted hwf
  have g := pre.closes hon hline (fun q hq => by split at hq <;> cases hq; rfl)
    ((congrArg Entry.waiters (hentry e)).trans hwait) late starts
  have hsvc := g.svc (nofun : CmdStatus.done ≠ .busy) (nofun : Waiting.nowhere ≠ .freeEntry)
  have hstays : r.staysPoisoned (c.entry e) = (r.poison || (r.lostOwner (s.entry e)).isSome) :=
    congrArg r.staysPoisoned (hentry e)
  refine ⟨_, ht, ?_, fun o ho => g.reports _ ?_, ?_, ?_, ?_, fun v hv => (g.record v).trans (if_neg hv), fun hp => ?_,
    fun hb i hi => ?_⟩
  · rw [g.record, if_pos rfl, hstays]
    split <;> rfl
  · rw [← htxn]
    exact State.poisonReport_serviceSettled ((congrArg r.lostOwner (hentry e)).trans ho)
  · rw [hsvc]
    rfl
  · rw [hsvc, State.result_recallCompleted hwf, hstays, htxn, hentry]
  · rw [g.freed, hentry]
  · have hfree := hstays.trans hp
    rw [g.set (by rw [hfree]; rfl)]
    exact State.recency_serviceSettled hwf hfree
  · have hbound := hb w hon.1
    have hother := State.entry_serviceSettled (c := c) (k := setOf (s.lineOfEntry e)) (w := w) (i := i)
      (fun h => hi (Option.some.inj (h.symm.trans hbound))) r e
    rw [g.other (.inr hbound) i hi, ← hentry]
    exact congrArg Entry.core hother

end Sys2Proof.Machine
end
